-- ==== Sys2Proof/Word.lean ====
section
/-! DEFINITION. Widths of the machine's words and the void-carrying word (R4, R147). -/

namespace Sys2Proof

/-- A byte of memory. -/
abbrev Byte := BitVec 8
/-- A 32-bit word: an instruction, an f register, a vector lane. -/
abbrev W32 := BitVec 32
/-- A 64-bit word: an x register, an address, a CSR. -/
abbrev Word := BitVec 64

/-- A word with its void bit (R147).  A void word is VOIDWORD: its value bits are zero. -/
structure VWord (w : Nat) where
  val : BitVec w
  void : Bool
  deriving DecidableEq, Repr

/-- A word that is not void. -/
abbrev VWord.of {w : Nat} (v : BitVec w) : VWord w := ⟨v, false⟩

/-- VOIDWORD (R147, R164). -/
abbrev VWord.voidword {w : Nat} : VWord w := ⟨0, true⟩

/-- Encoding versions of R139. -/
inductive Version where
  | v1 | v2 | v3
  deriving DecidableEq, Repr

end Sys2Proof
end

