-- ==== Sys2Proof/Config.lean ====
section
/-! DEFINITION. What an implementation fixes and the manual leaves open: free values, which no proof
can evaluate, and the sizes a boot chooses.  Each is named in the assumption log. -/

namespace Sys2Proof.Config

/-- Which of the four results within 2 ulp of 2^a VEXP2 returns (R235, log 14). -/
opaque exp2Pick : W32 → Fin 4
/-- Which of the four results within 2 ulp of log2 a VLOG2 returns (R235, log 14). -/
opaque log2Pick : W32 → Fin 4
/-- Which of the two results within 1 ulp of 1/a VRCP returns (R235, log 14). -/
opaque rcpPick : W32 → Bool
/-- Which of the two results within 1 ulp of 1/sqrt(a) VRSQ returns (R235, log 14). -/
opaque rsqPick : W32 → Bool
/-- Bytes that hold no defined value (R61, R311, log 14). -/
opaque freeByte : Nat → Byte
/-- Does a watchpoint's store condition hold for an atomic that a peer performs at an address, started at a
tick (R421, log 16)?  What it will write is known at the peer alone. -/
opaque peerHit : Nat → Nat → Nat → Bool
/-- The 64-byte SHAKE256 measurement of firmware image k as loaded, by whether its signature verified (R340,
R417, log 15). -/
opaque imageDigest : Nat → Bool → Vector Byte 64
/-- Ticks that the n-th takeover of the Kiln lasts, up to the 40,000 of R339 (log 18). -/
opaque takeoverTicks : Nat → Nat
/-- The body of an SPDM response that depends on keys or hashes (R340, log 15): request code,
request bytes, and the measurements the device holds. -/
opaque spdmBody : Nat → List Byte → List (List Byte) → List Byte

/-- KV pages of 64 KiB that the Kiln sets aside on each die at boot (R314, log 11). -/
def kvPoolPages : Nat := 512
/-- Journal records kept before the circular journal overwrites them (R339, log 18). -/
def journalDepth : Nat := 4096

end Sys2Proof.Config
end

