-- ==== Sys2Proof/Machine/Table.lean ====
section
/-! DEFINITION. Sparse tables keyed by numbers: lists of pairs with strictly rising keys. -/

namespace Sys2Proof

/-- A sparse table: at most one entry a key, keys strictly rising. -/
abbrev Table (α : Type) := List (Nat × α)

/-- The entry of a key, if there is one. -/
def tfind {α : Type} : Table α → Nat → Option α
  | [], _ => none
  | (j, a) :: t, k => if j = k then some a else tfind t k

/-- Write the entry of a key. -/
def tset {α : Type} : Table α → Nat → α → Table α
  | [], k, a => [(k, a)]
  | (j, b) :: t, k, a =>
    if j = k then (k, a) :: t else if k < j then (k, a) :: (j, b) :: t else (j, b) :: tset t k a

/-- Remove the entry of a key. -/
def tdel {α : Type} (t : Table α) (k : Nat) : Table α := t.filter (fun p => p.1 != k)

/-- The keys of a table. -/
def tkeys {α : Type} (t : Table α) : List Nat := t.map (·.1)

/-- The lowest number below `bound` for which `free` holds, searching from `k` for `n` numbers. -/
def lowestFrom (free : Nat → Bool) : Nat → Nat → Option Nat
  | _, 0 => none
  | k, n + 1 => if free k then some k else lowestFrom free (k + 1) n

/-- The lowest number at or above `k` that is no key, for a table sorted by key: scan the keys once. -/
def lowestUnlisted {α : Type} (used : α → Bool) : Table α → Nat → Nat
  | [], k => k
  | (j, a) :: t, k =>
    if j < k then lowestUnlisted used t k
    else if j = k then (if used a then lowestUnlisted used t (k + 1) else k)
    else k

end Sys2Proof
end

