-- ==== Sys2Proof/Syntax.lean ====
section
/-! DEFINITION. Instructions and events: one constructor for each row of the opcode table.
Register fields have exactly the values their class allows (R125), so that most words that are
not instructions have no term at all. -/

namespace Sys2Proof

abbrev XReg := BitVec 5
abbrev FReg := BitVec 5
abbrev VReg := BitVec 5
abbrev MReg := BitVec 3
abbrev KReg := BitVec 3
abbrev QReg := BitVec 4
abbrev CbReg := BitVec 4
abbrev AccReg := BitVec 2
abbrev Tag := BitVec 6

/-- The six reaches, each enclosing those before it (R3). -/
inductive Reach where
  | tile | cluster | die | package | fabric | system
  deriving DecidableEq, Repr

/-- Access sizes of LDA, STL, LDS and MCST (R131). -/
inductive Size where
  | b | h | w | d
  deriving DecidableEq, Repr

/-- Widths of the atomics (R131). -/
inductive AWidth where
  | w | d
  deriving DecidableEq, Repr

/-- Element types of the vector arithmetic group (R135). -/
inductive ETy where
  | f32 | i32 | bf16 | i8
  deriving DecidableEq, Repr

/-- Rounding-mode field of base F instructions; 5 and 6 are no instruction (R146). -/
inductive Rm where
  | rne | rtz | rdn | rup | rmm | dyn
  deriving DecidableEq, Repr

/-- Format pairs of MXSTRM (R137). -/
inductive Pair where
  | bb | hh | e4e4 | e4e5 | e5e4 | e5e5 | mx8 | mx6 | mx4 | mx4x8 | s4 | i8 | i8i4 | ln6
  deriving DecidableEq, Repr

/-- Conversions of VCVT (R243). -/
inductive Cvt where
  | f32i32 | i32f32 | f32bf16 | bf16f32 | f32f16 | f16f32 | f32e4 | e4f32 | f32e5 | e5f32
  | f32i8 | i8f32 | f32i4 | i4f32 | f32ln6 | ln6f32 | f32mx8 | mx8f32 | f32mx6 | mx6f32
  | f32mx4 | mx4f32 | f32s4 | s4f32
  deriving DecidableEq, Repr

/-- A register of the host interface that has no behaviour of its own (R328, R334, R336, R419);
where the manual gives an offset in BAR0 it stands in the comment. -/
inductive HostReg where
  | qbase (q : Nat)          -- 0x00 of the queue's block
  | cbase (q : Nat)          -- 0x08
  | control (q : Nat)        -- 0x10, but for ENABLE changes
  | devNum                   -- the fabric manager's number (R336)
  | timeMaster               -- is the device the domain's time master (R338)?
  | ide (f : Nat)            -- IDE on the streams of a function (R327)
  | logBase (f : Nat)        -- dirty-page log ring of a function (R334)
  | logSize (f : Nat)
  | logHead (f : Nat)
  | grant (aspace : Nat)     -- function that may name the address space (R330)
  | dbgen (f : Nat)          -- DBGEN of a virtual function (R419)
  | msix (f v : Nat)         -- an MSI-X table entry (R327)
  deriving DecidableEq, Repr

/-- An operation a peer device sends over Imenais Link (R336). -/
inductive PeerOp where
  | load (addr n : Nat)
  | store (addr : Nat) (data : List Byte)
  | amo (op : BitVec 3) (addr n : Nat) (data expected : Word)
  | bar (addr : Nat)
  deriving DecidableEq, Repr

/-- A debug request: its header word and operand words (R418). -/
structure DbgReq where
  hdr : Word
  ws : List Word
  deriving DecidableEq, Repr

/-- What the peer sends back with an acknowledgement (R336): data of a read, the poison it met there
(R389), or a refusal (R58). -/
inductive AckData where
  | bytes (bs : List Byte)
  | poisoned
  | refused
  deriving DecidableEq, Repr

/-- What an event works on and what it brings from outside the machine (log 1): a thread record, a
tile 256d + 16c + t, a cluster 16d + c, a die, a queue, a command, a function, or data. -/
inductive Input where
  | none
  | num (a : Nat)
  | num2 (a b : Nat)
  | num3 (a b c : Nat)
  | flag (b : Bool)
  | numFlag (a : Nat) (b : Bool)
  | nums (ns : List Nat)
  | walk (l aspace : Nat) (va : Word) (store : Bool)
  | reg (r : HostReg) (v : Word)
  | bytes (f : Nat) (bs : List Byte)
  | boot (verified : List Bool) (out : List Nat) (lost : List (Nat × Nat)) (hbmch hbmbytes : Nat)
  | ack (id : Nat) (d : AckData)
  | dbg (f : Nat) (r : DbgReq)
  | peer (dev serial : Nat) (op : PeerOp)
  | cxl (f addr n : Nat) (data : Option (List Byte))
  | sample (die temp power : Nat) (limit : Bool)
  deriving DecidableEq, Repr

/-- Every row of the opcode table.  The first part are instruction words; the second part are the
steps the device takes outside a thread's instruction, whose operands stand in the state's input
(log 1). -/
inductive Instr where
  -- base (R140)
  | lui (rd : XReg) (imm : BitVec 20)
  | auipc (rd : XReg) (imm : BitVec 20)
  | jal (rd : XReg) (imm : BitVec 20)
  | jalr (rd rs1 : XReg) (imm : BitVec 12)
  | beq (rs1 rs2 : XReg) (imm : BitVec 12)
  | bne (rs1 rs2 : XReg) (imm : BitVec 12)
  | blt (rs1 rs2 : XReg) (imm : BitVec 12)
  | bge (rs1 rs2 : XReg) (imm : BitVec 12)
  | bltu (rs1 rs2 : XReg) (imm : BitVec 12)
  | bgeu (rs1 rs2 : XReg) (imm : BitVec 12)
  | lb (rd rs1 : XReg) (imm : BitVec 12)
  | lh (rd rs1 : XReg) (imm : BitVec 12)
  | lw (rd rs1 : XReg) (imm : BitVec 12)
  | ld (rd rs1 : XReg) (imm : BitVec 12)
  | lbu (rd rs1 : XReg) (imm : BitVec 12)
  | lhu (rd rs1 : XReg) (imm : BitVec 12)
  | lwu (rd rs1 : XReg) (imm : BitVec 12)
  | sb (rs1 rs2 : XReg) (imm : BitVec 12)
  | sh (rs1 rs2 : XReg) (imm : BitVec 12)
  | sw (rs1 rs2 : XReg) (imm : BitVec 12)
  | sd (rs1 rs2 : XReg) (imm : BitVec 12)
  | addi (rd rs1 : XReg) (imm : BitVec 12)
  | slti (rd rs1 : XReg) (imm : BitVec 12)
  | sltiu (rd rs1 : XReg) (imm : BitVec 12)
  | xori (rd rs1 : XReg) (imm : BitVec 12)
  | ori (rd rs1 : XReg) (imm : BitVec 12)
  | andi (rd rs1 : XReg) (imm : BitVec 12)
  | slli (rd rs1 : XReg) (shamt : BitVec 6)
  | srli (rd rs1 : XReg) (shamt : BitVec 6)
  | srai (rd rs1 : XReg) (shamt : BitVec 6)
  | addiw (rd rs1 : XReg) (imm : BitVec 12)
  | slliw (rd rs1 : XReg) (shamt : BitVec 5)
  | srliw (rd rs1 : XReg) (shamt : BitVec 5)
  | sraiw (rd rs1 : XReg) (shamt : BitVec 5)
  | add (rd rs1 rs2 : XReg)
  | sub (rd rs1 rs2 : XReg)
  | sll (rd rs1 rs2 : XReg)
  | slt (rd rs1 rs2 : XReg)
  | sltu (rd rs1 rs2 : XReg)
  | xor (rd rs1 rs2 : XReg)
  | srl (rd rs1 rs2 : XReg)
  | sra (rd rs1 rs2 : XReg)
  | or (rd rs1 rs2 : XReg)
  | and (rd rs1 rs2 : XReg)
  | addw (rd rs1 rs2 : XReg)
  | subw (rd rs1 rs2 : XReg)
  | sllw (rd rs1 rs2 : XReg)
  | srlw (rd rs1 rs2 : XReg)
  | sraw (rd rs1 rs2 : XReg)
  | mul (rd rs1 rs2 : XReg)
  | mulh (rd rs1 rs2 : XReg)
  | mulhsu (rd rs1 rs2 : XReg)
  | mulhu (rd rs1 rs2 : XReg)
  | div (rd rs1 rs2 : XReg)
  | divu (rd rs1 rs2 : XReg)
  | rem (rd rs1 rs2 : XReg)
  | remu (rd rs1 rs2 : XReg)
  | mulw (rd rs1 rs2 : XReg)
  | divw (rd rs1 rs2 : XReg)
  | divuw (rd rs1 rs2 : XReg)
  | remw (rd rs1 rs2 : XReg)
  | remuw (rd rs1 rs2 : XReg)
  | fence (fm pred succ : BitVec 4) (rd rs1 : XReg)
  | csrrw (rd rs1 : XReg) (csr : BitVec 12)
  | csrrs (rd rs1 : XReg) (csr : BitVec 12)
  | csrrc (rd rs1 : XReg) (csr : BitVec 12)
  | csrrwi (rd : XReg) (imm : BitVec 5) (csr : BitVec 12)
  | csrrsi (rd : XReg) (imm : BitVec 5) (csr : BitVec 12)
  | csrrci (rd : XReg) (imm : BitVec 5) (csr : BitVec 12)
  | flw (rd : FReg) (rs1 : XReg) (imm : BitVec 12)
  | fsw (rs1 : XReg) (rs2 : FReg) (imm : BitVec 12)
  | fmaddS (rd rs1 rs2 rs3 : FReg) (rm : Rm)
  | fmsubS (rd rs1 rs2 rs3 : FReg) (rm : Rm)
  | fnmsubS (rd rs1 rs2 rs3 : FReg) (rm : Rm)
  | fnmaddS (rd rs1 rs2 rs3 : FReg) (rm : Rm)
  | faddS (rd rs1 rs2 : FReg) (rm : Rm)
  | fsubS (rd rs1 rs2 : FReg) (rm : Rm)
  | fmulS (rd rs1 rs2 : FReg) (rm : Rm)
  | fdivS (rd rs1 rs2 : FReg) (rm : Rm)
  | fsqrtS (rd rs1 : FReg) (rm : Rm)
  | fsgnjS (rd rs1 rs2 : FReg)
  | fsgnjnS (rd rs1 rs2 : FReg)
  | fsgnjxS (rd rs1 rs2 : FReg)
  | fminS (rd rs1 rs2 : FReg)
  | fmaxS (rd rs1 rs2 : FReg)
  | feqS (rd : XReg) (rs1 rs2 : FReg)
  | fltS (rd : XReg) (rs1 rs2 : FReg)
  | fleS (rd : XReg) (rs1 rs2 : FReg)
  | fclassS (rd : XReg) (rs1 : FReg)
  | fmvXW (rd : XReg) (rs1 : FReg)
  | fcvtWS (rd : XReg) (rs1 : FReg) (rm : Rm)
  | fcvtWuS (rd : XReg) (rs1 : FReg) (rm : Rm)
  | fcvtLS (rd : XReg) (rs1 : FReg) (rm : Rm)
  | fcvtLuS (rd : XReg) (rs1 : FReg) (rm : Rm)
  | fcvtSW (rd : FReg) (rs1 : XReg) (rm : Rm)
  | fcvtSWu (rd : FReg) (rs1 : XReg) (rm : Rm)
  | fcvtSL (rd : FReg) (rs1 : XReg) (rm : Rm)
  | fcvtSLu (rd : FReg) (rs1 : XReg) (rm : Rm)
  | fmvWX (rd : FReg) (rs1 : XReg)
  -- concurrency (R129, R130); the V2 and V1V2 forms are the words of other versions (R139)
  | sopen (rd rs1 : KReg)
  | sclose (rd : XReg) (rs1 : KReg)
  | sclosea (rs1 : KReg)
  | scloseaV2 (rs1 : KReg)
  | senter (rd : KReg) (rs1 : XReg)
  | senterV2 (rd : KReg) (rs1 : XReg)
  | scancel (rs1 : KReg)
  | scancelV1V2 (rs1 : KReg)
  | succeed (rd : XReg)
  | succeedV1V2 (rd : XReg)
  | sstat (rd : XReg) (rs1 : KReg)
  | sstatV1V2 (rd : XReg) (rs1 : KReg)
  | spawn (rd rs1 rs2 rs3 : XReg)
  | spawnIn (rd : KReg) (rs1 rs2 rs3 : XReg)
  | tsknew (rd rs1 rs2 : XReg)
  | tskpub (rs1 : XReg)
  | tsksig (rs1 : XReg)
  | tskstat (rd rs1 : XReg)
  | rnginit (rd rs1 rs2 : XReg)
  | rclaim (rd : XReg)
  | rsteal (rd rs1 : XReg)
  | msend (rs1 rs2 : XReg)
  | msend4 (rs1 rs2 : XReg)
  | mrecv (rd rs1 : XReg)
  | mrecv4 (rd rs1 : XReg)
  | mpeek (rd rs1 : XReg)
  | bar (rd rs1 : XReg)
  | waiteq (rd rs1 rs2 : XReg)
  | waitne (rd rs1 rs2 : XReg)
  | waitge (rd rs1 rs2 : XReg)
  | void (rd : XReg)
  | vtest (rd rs1 : XReg)
  | bvoid (rs1 : XReg) (imm : BitVec 12)
  | bnvoid (rs1 : XReg) (imm : BitVec 12)
  | jtab (rs1 rs2 : XReg) (imm : BitVec 12)
  -- memory, engines, references (R131 to R134)
  | lda (r : Reach) (z : Size) (rd rs1 : XReg)
  | stl (r : Reach) (z : Size) (rs1 rs2 : XReg)
  | lds (z : Size) (rd rs1 : XReg)
  | mcst (z : Size) (rs1 rs2 : XReg)
  | amoadd (r : Reach) (wd : AWidth) (rd rs1 rs2 : XReg)
  | amoswp (r : Reach) (wd : AWidth) (rd rs1 rs2 : XReg)
  | amocas (r : Reach) (wd : AWidth) (rd rs1 rs2 : XReg)
  | amomax (r : Reach) (wd : AWidth) (rd rs1 rs2 : XReg)
  | amomin (r : Reach) (wd : AWidth) (rd rs1 rs2 : XReg)
  | amoand (r : Reach) (wd : AWidth) (rd rs1 rs2 : XReg)
  | amoor (r : Reach) (wd : AWidth) (rd rs1 rs2 : XReg)
  | amoxor (r : Reach) (wd : AWidth) (rd rs1 rs2 : XReg)
  | fenceReach (r : Reach) (pred succ : BitVec 3)
  | cpy (tag : Tag) (rs1 rs2 rs3 : XReg)
  | cpymc (tag : Tag) (rs1 rs2 rs3 : XReg)
  | cpy2d (tag : Tag) (rs1 rs2 rs3 : XReg)
  | cbcfg (cb : CbReg) (rs2 : XReg)
  | cbwaitf (rd : XReg) (cb : CbReg) (rs2 : XReg)
  | cbwaite (rd : XReg) (cb : CbReg) (rs2 : XReg)
  | cbadvp (cb : CbReg) (rs2 : XReg)
  | cbadvc (cb : CbReg) (rs2 : XReg)
  | cbstat (rd : XReg) (cb : CbReg) (rs2 : XReg)
  | tagwa (rd rs1 : XReg)
  | tagwl (rd rs1 : XReg)
  | tagff (rd rs1 : XReg)
  | tagclr (rs1 : XReg)
  | bgive (rs1 rs2 : XReg)
  | btake (rd rs1 rs2 : XReg)
  | bstat (rd rs1 : XReg)
  | qld (rd : XReg) (rs1 : QReg) (rs2 : XReg)
  | qldw (rd : XReg) (rs1 : QReg) (rs2 : XReg)
  | qst (rd : XReg) (rs1 : QReg) (rs2 : XReg)
  | qstw (rd : XReg) (rs1 : QReg) (rs2 : XReg)
  | qldq (rd rs1 : QReg) (rs2 : XReg)
  | qstq (rd : XReg) (rs1 rs2 : QReg)
  | qnew (rd : QReg) (rs1 rs2 : XReg)
  | qpin (rd : XReg) (rs1 : QReg)
  | qunpin (rs1 : QReg)
  | qeq (rd : XReg) (rs1 rs2 : QReg)
  | qtag (rd rs1 : QReg) (rs2 : XReg)
  | qclr (rd : QReg)
  | qmv (rd rs1 : QReg)
  | reloc (rd : XReg) (rs1 : QReg) (rs2 : XReg)
  -- vector (R135, R136)
  | vadd (ty : ETy) (rd rs1 rs2 : VReg)
  | vsub (ty : ETy) (rd rs1 rs2 : VReg)
  | vmul (ty : ETy) (rd rs1 rs2 : VReg)
  | vmax (ty : ETy) (rd rs1 rs2 : VReg)
  | vmin (ty : ETy) (rd rs1 rs2 : VReg)
  | vand (ty : ETy) (rd rs1 rs2 : VReg)
  | vor (ty : ETy) (rd rs1 rs2 : VReg)
  | vxor (ty : ETy) (rd rs1 rs2 : VReg)
  | vshl (ty : ETy) (rd rs1 rs2 : VReg)
  | vshr (ty : ETy) (rd rs1 rs2 : VReg)
  | vsra (ty : ETy) (rd rs1 rs2 : VReg)
  | vabs (ty : ETy) (rd rs1 : VReg)
  | vneg (ty : ETy) (rd rs1 : VReg)
  | vexp2 (ty : ETy) (rd rs1 : VReg)
  | vlog2 (ty : ETy) (rd rs1 : VReg)
  | vrcp (ty : ETy) (rd rs1 : VReg)
  | vrsq (ty : ETy) (rd rs1 : VReg)
  | vmov (ty : ETy) (rd rs1 : VReg)
  | vbcast (ty : ETy) (rd : VReg) (rs1 : BitVec 5)
  | vfma (rd rs1 rs2 rs3 : VReg)
  | vfms (rd rs1 rs2 rs3 : VReg)
  | vsel (rd rs1 rs2 : VReg) (rs3 : MReg)
  | vld (rd : VReg) (rs1 : XReg) (imm : BitVec 12)
  | vst (rs2 : VReg) (rs1 : XReg) (imm : BitVec 12)
  | vredsum (rd : FReg) (rs1 : VReg)
  | vredmax (rd : FReg) (rs1 : VReg)
  | vredmin (rd : FReg) (rs1 : VReg)
  | vmvx (rd : XReg) (rs1 : VReg) (rs2 : XReg)
  | vmvf (rd : FReg) (rs1 : VReg) (rs2 : XReg)
  | vins (rd : VReg) (rs1 rs2 : XReg)
  | vperm (rd rs1 rs2 : VReg)
  | vslide (rd rs1 : VReg) (rs2 : XReg)
  | vhad (rd rs1 : VReg) (rs2 : XReg)
  | vtopk (rd rs1 : VReg) (rs2 : XReg)
  | vtmask (rd : MReg) (rs1 rs2 : VReg)
  | vcmpeq (rd : MReg) (rs1 rs2 : VReg)
  | vcmpne (rd : MReg) (rs1 rs2 : VReg)
  | vcmplt (rd : MReg) (rs1 rs2 : VReg)
  | vcmple (rd : MReg) (rs1 rs2 : VReg)
  | vcvt (code : Cvt) (rd rs1 : VReg)
  | mand (rd rs1 rs2 : MReg)
  | mor (rd rs1 rs2 : MReg)
  | mnot (rd rs1 : MReg)
  | mpop (rd : XReg) (rs1 : MReg)
  | vldx (rd : VReg) (rs1 : XReg) (rs2 : VReg)
  | vstx (rd : VReg) (rs1 : XReg) (rs2 : VReg)
  | vlds (rd : VReg) (rs1 rs2 : XReg)
  -- matrix and serving (R137, R138)
  | mxstrm (p : Pair) (acc : AccReg) (cb : CbReg) (rs2 : XReg) (rs3 : FReg)
  | mxldw (cb : CbReg) (rs2 : XReg)
  | mxzero (acc : AccReg)
  | mxwb (cb : CbReg) (acc : AccReg) (rs2 : XReg)
  | mxrd (rd : VReg) (acc : AccReg) (rs2 : XReg)
  | mxwait (rd : XReg)
  | mxstat (rd : XReg) (acc : AccReg)
  | smbind (rs1 : XReg)
  | smcommit (rd rs1 rs2 : XReg)
  | smplay (rs1 : XReg)
  | smframe (rd rs1 : XReg)
  | smtrunc (rd : XReg)
  | smsnap (rs1 : XReg)
  | smstat (rd rs1 : XReg)
  | smkv (rd rs1 : XReg)
  | phash (rd rs1 rs2 : XReg)
  | pfxlook (rd rs1 rs2 : XReg)
  | pfxins (rd rs1 rs2 : XReg)
  | pfxpin (rs1 : XReg)
  | pfxunpin (rs1 : XReg)
  | sdraw (rd : FReg) (rs1 rs2 : XReg)
  | topkmrg (rd rs1 rs2 : XReg)
  | treegen (rd rs1 rs2 : XReg)
  | daccept (rd rs1 rs2 : VReg)
  -- instructions without operands
  | ecall
  | ebreak
  | mret
  | wfi
  | shield
  | shieldV1V2
  | unshield
  | unshieldV1V2
  | chkc
  | chkcV1V2
  | exit
  | exitV1V2
  | yield
  | yieldV1V2
  | mxswap
  -- events of threads and engines; what each works on stands in State.input
  | waitReevaluate
  | waitTimeout
  | issueStallEnd
  | sliceExpiry
  | parkedWake
  | watchdog
  | matrixOperandDelivery
  | latlimExpiry
  | taskDispatch
  | tscRestart
  | copyPieceWrite
  | copyFinish
  | weevilSliceCopy
  | weevilPassEnd
  | flipWindowClose
  | relocAbandon
  | arrayMxldwStart
  | arrayMxldwSlot
  | arrayMxswapRun
  | arrayMxzeroRun
  | arrayStreamHeadCheck
  | arrayRowEnter
  | arrayRowUpdate
  | arrayMxwbRow
  | arrayCancelStop
  | arrayPoisonFault
  | translationWalk
  | weightReturn
  | trackerReturn
  | cancelMessageArrive
  -- the Kiln and the host
  | thresholdSample
  | kilnTake
  | launch
  | launchPlace
  | completionPost
  | kill
  | waitToken
  | createHeap
  | destroyHeap
  | createStream
  | destroyStream
  | aspaceSet
  | aspaceInval
  | threshold
  | setClock
  | groupSet
  | groupCancelReceive
  | clockStallEnd
  | notifyWrite
  | cheadWrite
  | queueEnable
  | queueDisable
  | tokenCounterWrite
  | deviceEventClear
  | registerWrite
  | flr
  | stopInterface
  | ideFailure
  | tdispLock
  | deviceReset
  | lifecycleProvision
  | lifecycleDeploy
  | lifecycleReturn
  | lifecycleReprovision
  | spdmVersion
  | spdmCapabilities
  | spdmAlgorithms
  | spdmDigests
  | spdmCertificate
  | spdmChallenge
  | spdmMeasurements
  | spdmKeyExchange
  | kilnTakeover
  | kilnScrub
  | kilnReload
  | tileMapout
  | patrolScrub
  | remoteAck
  | remoteTimeout
  | linkFailure
  | timeFlit
  | tempPowerSample
  | thermalStepUp
  | thermal
  | trip
  | attach
  | detach
  | halt
  | resume
  | step
  | setbp
  | setwp
  | read
  | write
  | scope
  | mem
  | events
  | remoteOperationArrive
  | cxlMemAccess
  deriving DecidableEq, Repr

end Sys2Proof
end

