-- ==== Sys2Proof/Machine/State.lean ====
section
/-! DEFINITION. The state of the device, as plain data: every record, register, table and queue the
manual gives it (R4, R17, R22, R27, R52, R62, R158, R219, R267, R278, R298, R328, …), with the
schedule as data beside it (log 1).  Numbers in records that no software shifts or masks are Nat;
what software reads as bits is a bit vector. -/

namespace Sys2Proof.Machine

/-! ### Threads -/

/-- Kinds of handle a k register holds (R168). -/
inductive HKind where
  | empty | birth | opener | entered | closed
  deriving DecidableEq, Repr

/-- A scope handle: its kind, the scope's identifier and the weight it holds (R168). -/
structure Handle where
  kind : HKind
  sid : Nat
  weight : Nat
  deriving DecidableEq, Repr

/-- The two core classes (R10). -/
inductive CoreClass where
  | stage | compute
  deriving DecidableEq, Repr

/-- The two privilege modes (R141). -/
inductive Mode where
  | user | machine
  deriving DecidableEq, Repr

/-- Conditions of the word waits (R196). -/
inductive Cmp where
  | eq | ne | ge
  deriving DecidableEq, Repr

/-- What a waiting thread waits for.  `join`, `mx`, and all that call wait_until are WAITING;
`steal` leaves the thread RUNNABLE (R373). -/
inductive WaitKind where
  | word (c : Cmp) (a v : Word)
  | cb (filled : Bool) (b n : Nat)
  | tagAny (m : Word)
  | tagAll (m : Word)
  | recv (sender : Nat)
  | bar (a : Word) (g i : Nat)
  | join (sid : Nat) (k : KReg)
  | steal (tile : Nat)
  | mx
  deriving DecidableEq, Repr

/-- A wait under way: its kind, its destination and the tick it started at (R166, R376). -/
structure Wait where
  kind : WaitKind
  rd : XReg
  start : Nat
  deriving DecidableEq, Repr

/-- A pin window (R223) with the pin's weight (R31). -/
structure Window where
  ref : Word
  base : Nat
  size : Nat
  readOnly : Bool
  weight : Nat
  deriving DecidableEq, Repr

/-- A message: its sender, one word or four, and the weight it returns to its sender's scope. -/
structure Msg where
  sender : Nat
  words : List Word
  sid : Nat
  weight : Nat
  deriving DecidableEq, Repr

/-- Where a thread is: in a context, in its cluster's ready queue, or parked outside it (R301). -/
inductive Loc where
  | resident (ctx : Nat)
  | queued
  | parked
  deriving DecidableEq, Repr

/-- Why a thread is halted, with the breakpoint or watchpoint index (R428). -/
inductive HaltReason where
  | request | breakpoint (i : Nat) | watchpoint (i : Nat) | ebreak | stepped
  deriving DecidableEq, Repr

/-- A watchpoint's three words (R421). -/
structure Watch where
  base : Word
  ctl : Word
  value : Word
  deriving DecidableEq, Repr

/-- How a remote read or atomic came out: with its data, with poison (R389), or unacknowledged or refused
(R58, R415). -/
inductive PeerAns where
  | ok | poisoned | failed
  deriving DecidableEq, Repr

/-- The answer of a peer device for the instruction being executed (R336): the instruction meets it when it
is executed again.  `weight` is what the operation was born with from k0 (R31), which a watchpoint's hit undoes
(R422). -/
structure PeerVal where
  addr : Nat
  n : Nat
  amo : Bool
  bs : List Byte
  ans : PeerAns
  weight : Nat
  deriving DecidableEq, Repr

/-- A thread record (R22 to R25, R158, R159, R298, R361, R373, R421).  `bpBy`, `wpBy` and `haltedBy` are the
functions whose debug sessions set the entries and the halt (R419); `halting` marks a halt that takes
effect at the next instruction boundary (R424).  `savingFor` is the ready item (task or thread, record) whose
latency limit a save answers (R300). -/
structure Thread where
  reuse : Nat
  pc : Word
  x : Vector (VWord 64) 32
  f : Vector (VWord 32) 32
  v : Vector (Vector (VWord 32) 64) 32
  m : Vector Word 8
  q : Vector Word 16
  k : Vector Handle 8
  fflags : BitVec 5
  frm : BitVec 3
  waittmo : BitVec 48
  vpred : BitVec 3
  cland : Word
  utvec : Word
  uepc : Word
  ucause : BitVec 8
  utval : Word
  voidseen : BitVec 6
  shieldn : BitVec 16
  stream : BitVec 32
  seedkey : Word
  cancel : Bool
  armed : Bool
  ver : Version
  mode : Mode
  mepc : Word
  mie : Bool
  mpie : Bool
  mpp : Mode
  cls : CoreClass
  tile : Nat
  loc : Loc
  saving : Bool
  wait : Option Wait
  stalled : Bool
  remoteOut : Option Nat
  peer : List PeerVal
  windows : List Window
  savingFor : Option (Bool × Nat)
  saved : Option (Nat × Nat × Nat)
  inbox : List Msg
  overflow : List Msg
  prio : Nat
  slice : Nat
  latlim : Nat
  sliceStart : Nat
  dispatched : Nat
  watch : Nat
  service : Bool
  task : Option Nat
  aspace : Nat
  cmd : Nat
  bp : Vector Word 8
  wp : Vector Watch 4
  bpBy : Vector Nat 8
  wpBy : Vector Nat 4
  halted : Option HaltReason
  haltedBy : Nat
  halting : Bool
  skipCheck : Bool
  stepping : Option Nat
  mxCancelled : Bool
  mxFailed : Bool
  pendMx : List Word
  ending : Bool
  deriving DecidableEq, Repr

/-! ### Scopes and tasks -/

/-- States of a scope record (R28); a free record keeps its reuse count. -/
inductive ScopeState where
  | free | opened | closing | joined
  deriving DecidableEq, Repr

/-- A scope record (R27), with the weight the child holds in its parent (R31), whether its opener
dropped the handle (R178), the command and fabric group of a root, and the tick of the join (R301). -/
structure Scope where
  reuse : Nat
  state : ScopeState
  parent : Nat
  depth : Nat
  o : Nat
  cancelled : Bool
  succeeded : Bool
  winner : Nat
  faulted : Bool
  cause : Nat
  opener : Nat
  parentWeight : Nat
  parentReturned : Bool
  reported : Bool
  cmd : Nat
  group : Nat
  joinedAt : Nat
  deriving DecidableEq, Repr

/-- What a return of weight frees when it has gone home: nothing, the joined child scope that held it
(R28), or the task record whose thread held it (R40). -/
inductive RetFor where
  | member
  | child (sid : Nat)
  | task (id : Nat)
  deriving DecidableEq, Repr

/-- A return of weight travelling to a home record (R29), from a die (R13). -/
structure Ret where
  sid : Nat
  weight : Nat
  for_ : RetFor
  die : Nat
  deriving DecidableEq, Repr

/-- States of a task record (R40, R185). -/
inductive TaskState where
  | free | created | published | ready | running | done | discarded
  deriving DecidableEq, Repr

/-- A task record (R40, R183) with what its thread takes from its issuer (R25). -/
structure Task where
  reuse : Nat
  state : TaskState
  entry : Word
  arg : Word
  count : Nat
  pending : Option Nat
  cluster : Nat
  cls : CoreClass
  sid : Nat
  weight : Nat
  issuer : Nat
  prio : Nat
  slice : Nat
  latlim : Nat
  cland : Word
  utvec : Word
  waittmo : BitVec 48
  seedkey : Word
  stream : BitVec 32
  ver : Version
  aspace : Nat
  cmd : Nat
  deriving DecidableEq, Repr

/-! ### Tiles -/

/-- A copy tag that is BUSY or SET; an IDLE tag has no entry (R65, R212). -/
inductive TagState where
  | busy
  | set (status bytes : Nat)
  deriving DecidableEq, Repr

/-- A circular-buffer descriptor (R62) with its row position (R256). -/
structure Cb where
  count : Nat
  slotu : Nat
  base : Nat
  pidx : Nat
  cidx : Nat
  free : Nat
  fill : Nat
  row : Nat
  deriving DecidableEq, Repr

/-- An entry of the range-lock table: the operation and its two ranges as issued (R78). -/
structure Lock where
  op : Nat
  src : Nat × Nat
  dst : Nat × Nat
  deriving DecidableEq, Repr

/-- The range registers of a tile (R43, R186). -/
structure Ranges where
  lo : Nat
  hi : Nat
  chunk : Nat
  thief : Option Nat
  bound : Option Nat
  deriving DecidableEq, Repr

/-- An entry of the retirement tracker (R32). -/
structure Track where
  tid : Nat
  sid : Nat
  weight : Nat
  windows : List Window
  task : Option Nat
  deriving DecidableEq, Repr

/-- A stretch of an engine range as translated at issue (R385): virtual start, length, either a location
of this device or an address of a peer, and the page whose translation was used: its start and size. -/
structure Seg where
  va : Nat
  len : Nat
  peer : Option Nat
  at_ : Nat
  page : Nat × Nat
  deriving DecidableEq, Repr

/-- A copy in flight (R203 to R207). -/
structure Copy where
  id : Nat
  cls : CoreClass
  tag : Nat
  tid : Nat
  sid : Nat
  weight : Nat
  multicast : Bool
  rows : Nat
  rowBytes : Nat
  src : Nat
  dst : Nat
  sstep : Nat
  dstep : Nat
  srcSegs : List Seg
  dstSegs : List Seg
  cb : Option Nat
  done : Nat
  cancelled : Bool
  failed : Bool
  got : List PeerVal
  deriving DecidableEq, Repr

/-- An entry of a tile's translation buffer (R57). -/
structure Tlb where
  aspace : Nat
  base : Nat
  size : Nat
  leaf : Word
  deriving DecidableEq, Repr

/-- States of a weight plane (R248). -/
inductive PlaneState where
  | empty | loading | valid | invalid
  deriving DecidableEq, Repr

/-- A weight plane: its state, format code and byte stream (R248, R252). -/
structure Plane where
  state : PlaneState
  fmt : Nat
  data : List Byte
  deriving DecidableEq, Repr

/-- What an array command does (R247). -/
inductive ArrayOp where
  | ldw (cb fmt : Nat)
  | swap
  | strm (p : Pair) (acc cb row0 count : Nat) (g : W32)
  | zero (acc : Nat)
  | wb (cb acc fmt row0 count : Nat) (z : Bool)
  deriving DecidableEq, Repr

/-- An array command in a queue (R247); `pos` counts slots read or rows entered or written. -/
structure ArrayCmd where
  id : Nat
  t : Nat
  tid : Nat
  sid : Nat
  op : ArrayOp
  started : Bool
  pos : Nat
  cancelled : Bool
  deriving DecidableEq, Repr

/-- A row that entered the array and whose accumulator words are not yet updated (R257). -/
structure RowIn where
  cmd : Nat
  p : Pair
  acc : Nat
  row : Nat
  act : List Byte
  scale : List Byte
  g : W32
  deriving DecidableEq, Repr

/-- LAST of an accumulator (R263). -/
inductive Last where
  | none | running | complete | cancelled | faulted
  deriving DecidableEq, Repr

/-- SAT, LAST and ROWS of an accumulator (R263). -/
structure AccStat where
  sat : Bool
  last : Last
  rows : Nat
  deriving DecidableEq, Repr

/-- A tile (R10).  `rangeTurn` is the spilled thread whose turn it is to bind the range registers (R189). -/
structure Tile where
  outOfService : Bool
  tags : Table TagState
  cbs : Vector Cb 16
  locks : List Lock
  ranges : Ranges
  rangeTurn : Option Nat
  tracker : List Track
  copies : List Copy
  tlb : List Tlb
  active : Plane
  shadow : Plane
  weightQ : List ArrayCmd
  rowQ : List ArrayCmd
  rowsIn : List RowIn
  acc : Table (List W32)
  accStat : Vector AccStat 4
  accPoison : List Nat
  unclaimed : Nat
  resv : Option Nat
  lastCtx : Nat × Nat
  deriving DecidableEq, Repr

/-! ### Clusters and dies -/

/-- States of an ownership handle (R52). -/
inductive OwnState where
  | free | held | offered
  deriving DecidableEq, Repr

/-- An ownership handle record (R52). -/
structure Own where
  state : OwnState
  base : Nat
  len : Nat
  holder : Nat
  recip : Nat
  deriving DecidableEq, Repr

/-- An item of a ready queue (R296, R297). -/
structure Item where
  isTask : Bool
  record : Nat
  prio : Nat
  readyAt : Nat
  skips : Nat
  place : Option Nat
  cls : CoreClass
  deriving DecidableEq, Repr

/-- A heap descriptor as a cache holds it (R219, R306). -/
structure Desc where
  state : Nat
  addr : Nat
  pins : Nat
  gen : Nat
  size : Nat
  next : Nat
  deriving DecidableEq, Repr

/-- A cluster (R9). -/
structure Cluster where
  owns : Table Own
  ready : List Item
  cache : List ((Nat × Nat) × Desc)
  restarts : List Nat
  deriving DecidableEq, Repr

/-- Where a relocation stands (R307, R308, R310). -/
inductive RelocPhase where
  | waiting
  | pass (n : Nat) (todo : List Nat)
  | flipping
  deriving DecidableEq, Repr

/-- A relocation in a Weevil's queue (R307). -/
structure Reloc where
  heap : Nat
  index : Nat
  sid : Nat
  issuer : Nat
  size : Nat
  oldAddr : Nat
  newAddr : Nat
  oldSegs : List Seg
  newSegs : List Seg
  dirty : List Nat
  copied : List Nat
  phase : RelocPhase
  abandon : Bool
  deriving DecidableEq, Repr

/-- A die: its clock, counters, Weevil, pools, and thermal state.  `phase` is the part of the current
cycle that has passed, in units of 1/18 ns; `nextMhz` is the step that applies from the next cycle
boundary (R342). -/
structure Die where
  mhz : Nat
  nextMhz : Option Nat
  phase : Nat
  cycle : Nat
  ncyc : Nat
  stallUntil : Nat
  weevil : List Reloc
  kvdrop : Nat
  kvPool : List Nat
  freePages : List Nat
  allocTop : Nat
  temp : Nat
  power : Nat
  atLimit : Bool
  limitSince : Option Nat
  coolSince : Option Nat
  lastStep : Option Nat
  stepped : Nat
  halved : Bool
  deriving DecidableEq, Repr

/-! ### Serving -/

/-- A heap (R304): its table's physical address, its descriptors, and where the table is mapped. -/
structure Heap where
  table : Nat
  ndesc : Nat
  va : Nat
  deriving DecidableEq, Repr

/-- A page of a stream's list (R267): its physical page, tokens, and the prefix entry that owns it. -/
structure KvPage where
  pa : Nat
  tokens : List Nat
  shared : Bool
  deriving DecidableEq, Repr

/-- A stream record (R267, R396). -/
structure Stream where
  reuse : Nat
  live : Bool
  g : Nat
  p : Nat
  i : Nat
  order : Nat
  ptime : Nat
  tol : Nat
  pages : List KvPage
  pool : List Nat
  kvbase : Nat
  rsaddr : Nat
  rsize : Nat
  spos : Table Nat
  slots : Nat
  damaged : Bool
  owner : Nat
  aspace : Nat
  deriving DecidableEq, Repr

/-- A valid entry of the prefix table (R278, R396). -/
structure Prefix where
  hash : Word
  parent : Nat
  depth : Nat
  tokens : List Nat
  page : Nat
  pins : Nat
  age : Nat
  damaged : Bool
  deriving DecidableEq, Repr

/-! ### Fabric and host -/

/-- What a remote operation is for (R31, R336); `cmdRead` reads for a command of the Kiln (R313). -/
inductive RemoteKind where
  | load | amo (op : BitVec 3) (data expected : Word) | bar | store (data : List Byte)
  | copyRead (copy : Nat) | copyWrite (copy : Nat) (data : List Byte)
  | dbgRead (f : Nat) | dbgWrite (f : Nat) (data : List Byte)
  | cmdRead (id : Nat)
  deriving DecidableEq, Repr

/-- A remote operation in flight (R336, R415). -/
structure Remote where
  id : Nat
  tile : Nat
  t : Nat
  tid : Nat
  dev : Nat
  addr : Nat
  va : Nat
  n : Nat
  kind : RemoteKind
  sid : Nat
  weight : Nat
  issued : Nat
  refused : Bool
  deriving DecidableEq, Repr

/-- What the device sends over the fabric and to the host (outputs). -/
inductive Sent where
  | remote (id dev addr n : Nat) (kind : RemoteKind)
  | groupCancel (group dev : Nat)
  | ack (dev serial : Nat) (data : List Byte)
  | nack (dev serial : Nat)
  | poisoned (dev serial : Nat)
  | msix (f v : Nat)
  | poisonAt (dev addr n : Nat)
  | timeFlit (port time : Nat)
  | cxlData (data : List Byte)
  | cxlPoison
  deriving DecidableEq, Repr

/-- A section of a program image (R120). -/
structure Sec where
  va : Nat
  off : Nat
  filesz : Nat
  perm : Nat
  deriving DecidableEq, Repr

/-- A launch record and image header that passed the checks of R291. -/
structure LaunchRec where
  image : Nat
  args : Word
  aspace : Nat
  tiles : Nat
  place : Nat
  cland : Word
  utvec : Word
  seedkey : Word
  latlim : Nat
  slice : Nat
  enc : Version
  entry : Word
  ctxs : Nat
  ctxc : Nat
  localmem : Nat
  argsize : Nat
  cbufs : List (Nat × Nat)
  secs : List Sec
  deriving DecidableEq, Repr

/-- States of a command queue (R328). -/
inductive QState where
  | disabled | active | error
  deriving DecidableEq, Repr

/-- A command queue's registers (R328) and its head (R292). -/
structure Queue where
  qbase : Word
  loc : Bool
  cbase : Word
  vector : Nat
  enable : Bool
  prio : Nat
  log2n : Nat
  notify : BitVec 32
  ridx : BitVec 32
  cwidx : BitVec 32
  chead : BitVec 32
  state : QState
  errVal : Option Nat
  head : Option LaunchRec
  hold : Option Nat
  busySince : Nat
  deriving DecidableEq, Repr

/-- Where a command the Kiln took stands. -/
inductive Phase where
  | taken
  | running
  | draining (ops : List Nat)
  | finished
  deriving DecidableEq, Repr

/-- A command the Kiln took (R330, R403); `got` is what peers sent of the area that CREATE_STREAM reads (R313). -/
structure Command where
  queue : Nat
  index : Nat
  op : Nat
  group : Nat
  token : Nat
  post : Bool
  irq : Bool
  words : List Word
  cookie : Word
  phase : Phase
  status : Nat
  value : Nat
  root : Nat
  launch : Option LaunchRec
  silent : Bool
  got : List PeerVal
  deriving DecidableEq, Repr

/-- TDISP states of an interface (R333, R408). -/
inductive Tdisp where
  | unlocked | locked | run | error
  deriving DecidableEq, Repr

/-- An entry a debug session wrote for a scope tree (R421). -/
inductive ScopeEntry where
  | bp (i : Nat) (w : Word)
  | wp (i : Nat) (w : Watch)
  | halt
  deriving DecidableEq, Repr

/-- A debug request whose response is still to come (R418): a HALT and the threads that have not reached
an instruction boundary, with its result (R424); a STEP of a thread (R427); a MEM that waits for remote
operations (R429), with the bytes of a read by offset, or what a write still puts at locations of this
device, and the cause of the first that failed. -/
inductive DbgWait where
  | halt (tids : List Nat) (n : Nat)
  | step (tid : Nat)
  | mem (ops : List Nat) (n : Nat) (write : Bool) (parts : List (Nat × List Byte)) (fault : Option Nat)
  deriving DecidableEq, Repr

/-- A debug session (R418, R419). -/
structure Session where
  vector : Nat
  events : List (Nat × HaltReason)
  deriving DecidableEq, Repr

/-- What travels from a die to the host port on D0 (R13): an MSI-X vector of a function, a bit of the device event
register, a halt event of a session, and words of a debug response. -/
inductive Post where
  | msix (f v : Nat)
  | event (b : Nat)
  | halted (f tid : Nat) (why : HaltReason)
  | answer (f : Nat) (ws : List Word)
  deriving DecidableEq, Repr

/-- A function of the host port (R327, R333, R334, R406, R419).  `ide` says that IDE protects its streams;
`flrAt` is the tick at which its FLR began. -/
structure Func where
  tdisp : Tdisp
  ide : Bool
  refused : Nat
  dropNotify : Nat
  dbgen : Bool
  session : Option Session
  logBase : Nat
  logSize : Option Nat
  logHead : Nat
  logTail : Nat
  msix : Table Word
  tokens : Table (BitVec 32)
  flr : Bool
  flrAt : Nat
  doe : List Byte
  dbgOut : List Word
  dbgWait : List DbgWait
  deriving DecidableEq, Repr

/-- A threshold entry (R303); `owed` counts its signals that wait for room (R41). -/
structure Threshold where
  source : Nat
  index : Nat
  fall : Bool
  level : Nat
  hyst : Nat
  task : Nat
  armed : Bool
  drops : Nat
  owed : Nat
  prev : Option Nat
  deriving DecidableEq, Repr

/-- An address space: its root table, 0 for none, the function granted it, and the pages the Kiln
allocated for it (R293, R330, R333). -/
structure Aspace where
  root : Nat
  grant : Option Nat
  pages : List (Nat × Nat)
  deriving DecidableEq, Repr

/-- A scheduler decision in the Kiln's journal (R339).  Beside takes, placements, priority changes,
completions, token changes and threshold firings it records what resets a queue's indices (`enable`), a
function's queues and, if so told, its counters (`wipe`), and what ends a function's commands without completions
(`silence`). -/
inductive Decision where
  | take (q : Nat) (index : BitVec 32) | place (q id : Nat) | prio (q p : Nat) | complete (q id : Nat)
  | token (f n : Nat) (v : BitVec 32) | fire (k : Nat) | failed (q : Nat)
  | enable (q : Nat) | wipe (f : Nat) (tokens : Bool) | silence (f : Nat)
  deriving DecidableEq, Repr

/-- The scheduler state that a Kiln keeps by its decisions (R339): by queue the next index taken, the
completions written and the priority, the token counters by 256 f + n, the commands placed and not completed
with their queues, and the thresholds that fired. -/
structure Sched where
  ridx : Table (BitVec 32)
  cwidx : Table (BitVec 32)
  prio : Table Nat
  tokens : Table (BitVec 32)
  placed : List (Nat × Nat)
  fired : List Nat
  deriving DecidableEq, Repr

/-- Life-cycle states (R335, R341). -/
inductive Life where
  | blank | provisioned | deployed | returned
  deriving DecidableEq, Repr

/-! ### The schedule -/

/-- One turn of the schedule (log 1): a core issues from its next context, a step of the device
outside a thread's instruction, the debug mailbox of a function answers what has come about, time passing,
or a write of the host to its own memory. -/
inductive Turn where
  | issue (tile : Nat) (cls : CoreClass)
  | event (i : Instr) (inp : Input)
  | debug (f : Nat)
  | tick (n : Nat)
  | hostStore (hpa : Nat) (bs : List Byte)
  deriving DecidableEq, Repr

/-! ### Why a step stops -/

/-- Why the machine stops with a fault.  The device's own faults are not here: they are taken, as the
manual says (R360, R364), and end in a next state. -/
inductive Fault where
  /-- A thread's instruction was executed while no thread is current.  Raised by every meaning of an
  instruction word; `step` never causes it, because it names the thread first.  Safe. -/
  | noThread
  deriving DecidableEq, Repr

/-- Why the machine refuses an instruction. -/
inductive Refusal where
  /-- No meaning yet: raised by the dispatcher alone, by the table's mnemonic.  Safe. -/
  | notModelled (mnemonic : String)
  deriving DecidableEq, Repr

/-! ### The device -/

/-- The whole device.  `replica` is the standby Kiln's own copy of the decisions, and `shadow` its own copy of the
scheduler state, to which it replays them; while a takeover lasts
(`takeoverUntil`), NOTIFY writes wait in `lateNotify` (R339).  `posts` wait, with the die they come from, for a
clock step's stall to end (R13); `dbgScopes` are the entries of debug sessions for scope trees, by function and
scope, the one written last first (R421). -/
structure State where
  time : Nat
  slew : Nat
  slewAt : Nat
  timeMaster : Bool
  mem : List Host.Cell
  poison : List Nat
  threads : Table Thread
  threadReuse : Table Nat
  scopes : Table Scope
  tasks : Table Task
  tiles : Table Tile
  clusters : Table Cluster
  dies : Table Die
  heaps : Table Heap
  streams : Table Stream
  pfx : Table Prefix
  pfxUse : BitVec 32
  aspaces : Table Aspace
  returns : List Ret
  remotes : List Remote
  sent : List Sent
  posts : List (Nat × Post)
  queues : Table Queue
  cmds : Table Command
  donePosts : List Nat
  nextCmd : Nat
  nextOp : Nat
  funcs : Table Func
  dbgScopes : List (Nat × Nat × ScopeEntry)
  thresholds : Table Threshold
  groups : Table Nat
  groupsSent : List Nat
  lastTaken : Table Nat
  devEvents : BitVec 8
  devNum : Nat
  life : Life
  booted : Bool
  lanes : Table Nat
  hbmch : Nat
  hbmbytes : Nat
  hbmLost : List (Nat × Nat)
  measured : Table (List Byte)
  takeovers : Nat
  kilnDie : Nat
  standby : Bool
  kilnFailed : Bool
  takeoverUntil : Nat
  lateNotify : List (Nat × Nat)
  tripped : Bool
  journal : List Decision
  replica : List Decision
  shadow : Sched
  freeCount : Nat
  agenda : List Turn
  cur : Option Nat
  input : Input
  deriving DecidableEq, Repr

/-- A descriptor at tile reset (R62). -/
def Cb.idle : Cb := ⟨0, 0, 0, 0, 0, 0, 0, 0⟩

/-- A plane at tile reset (R248). -/
def Plane.idle : Plane := ⟨.empty, 0, []⟩

/-- A tile at reset: tags IDLE, buffers unconfigured, planes EMPTY, nothing in flight (R341). -/
def Tile.idle : Tile where
  outOfService := false
  tags := []
  cbs := Vector.replicate 16 Cb.idle
  locks := []
  ranges := ⟨0, 0, 0, none, none⟩
  rangeTurn := none
  tracker := []
  copies := []
  tlb := []
  active := Plane.idle
  shadow := Plane.idle
  weightQ := []
  rowQ := []
  rowsIn := []
  acc := []
  accStat := Vector.replicate 4 ⟨false, .none, 0⟩
  accPoison := []
  unclaimed := 0
  resv := none
  lastCtx := (3, 3)

/-- A cluster at reset: handles FREE, queue and cache empty. -/
def Cluster.idle : Cluster := ⟨[], [], [], []⟩

/-- First physical address after a die's memory (R58). -/
def dieMemEnd (d : Nat) : Nat := d * 0x3000000000 + 0x2CB4178000

/-- The last page boundary below which a die's memory is whole (R58). -/
def dieTop (d : Nat) : Nat := dieMemEnd d - 0x8000

/-- A die at reset: nominal clock, counters 0, Weevil empty, the KV pool filled with the last pages
below `top` (R161, R163, R314, log 11). -/
def Die.boot (top pages : Nat) : Die where
  mhz := 1800
  nextMhz := none
  phase := 0
  cycle := 0
  ncyc := 0
  stallUntil := 0
  weevil := []
  kvdrop := 0
  kvPool := (List.range pages).map (fun i => top - 0x10000 * (i + 1))
  freePages := []
  allocTop := top - 0x10000 * pages
  temp := 0
  power := 0
  atLimit := false
  limitSince := none
  coolSince := none
  lastStep := none
  stepped := 0
  halved := false

/-- A function of the host port at reset. -/
def Func.idle : Func := ⟨.unlocked, false, 0, 0, false, none, 0, none, 0, 0, [], [], false, 0, [], [], []⟩

/-- A command queue at reset (R328). -/
def Queue.idle : Queue where
  qbase := 0
  loc := false
  cbase := 0
  vector := 0
  enable := false
  prio := 0
  log2n := 3
  notify := 0
  ridx := 0
  cwidx := 0
  chead := 0
  state := .disabled
  errVal := none
  head := none
  hold := none
  busySince := 0

/-- The device right after reset: every unit in service, SRAMs wiped, no record in use, the Kiln of D0 primary, the
four images measured as they were loaded (R335, R340, R341). Values the manual does not give are named in log 9. -/
def State.reset : State where
  time := 0
  slew := 0
  slewAt := 0
  timeMaster := false
  mem := []
  poison := []
  threads := []
  threadReuse := []
  scopes := []
  tasks := []
  tiles := []
  clusters := []
  dies := (List.range 4).map (fun d => (d, Die.boot (dieTop d) Config.kvPoolPages))
  heaps := []
  streams := []
  pfx := []
  pfxUse := 0
  aspaces := []
  returns := []
  remotes := []
  sent := []
  posts := []
  queues := []
  cmds := []
  donePosts := []
  nextCmd := 1
  nextOp := 1
  funcs := []
  dbgScopes := []
  thresholds := []
  groups := []
  groupsSent := []
  lastTaken := []
  devEvents := 0
  devNum := 0
  life := .deployed
  booted := true
  lanes := []
  hbmch := 512
  hbmbytes := 768000000000
  hbmLost := []
  measured := (List.range 4).map (fun i => (i + 1, (Config.imageDigest (i + 1) true).toList))
  takeovers := 0
  kilnDie := 0
  standby := true
  kilnFailed := false
  takeoverUntil := 0
  lateNotify := []
  tripped := false
  journal := []
  replica := []
  shadow := ⟨[], [], [], [], [], []⟩
  freeCount := 0
  agenda := []
  cur := none
  input := .none

end Sys2Proof.Machine
end

