-- ==== Sys2Proof/Machine/Fp.lean ====
section
/-! DEFINITION. Floating point from exact arithmetic: values as dyadic numbers, one rounding function
for every format, the operations of base F (R146) and of the vector unit (R101, R235). -/

namespace Sys2Proof.Machine

/-- A value on the extended reals: NaN, an infinity, or sign, magnitude `m * 2^e`. -/
inductive FV where
  | nan
  | inf (neg : Bool)
  | fin (neg : Bool) (m : Nat) (e : Int)
  deriving DecidableEq, Repr

/-- How a format spends its all-ones exponent (R86). -/
inductive Special where
  | ieee | e4m3 | none
  deriving DecidableEq, Repr

/-- A floating-point format (R86): exponent bits, fraction bits, bias. -/
structure Fmt where
  eb : Nat
  mb : Nat
  bias : Int
  special : Special
  deriving DecidableEq, Repr

def fp32 : Fmt := ⟨8, 23, 127, .ieee⟩
def bf16 : Fmt := ⟨8, 7, 127, .ieee⟩
def fp16 : Fmt := ⟨5, 10, 15, .ieee⟩
def e4m3 : Fmt := ⟨4, 3, 7, .e4m3⟩
def e5m2 : Fmt := ⟨5, 2, 15, .ieee⟩
def e3m2 : Fmt := ⟨3, 2, 3, .none⟩
def e2m3 : Fmt := ⟨2, 3, 1, .none⟩
def e2m1 : Fmt := ⟨2, 1, 1, .none⟩

/-- Code of the sign bit. -/
def Fmt.signCode (f : Fmt) : Nat := 2 ^ (f.eb + f.mb)
/-- Code of +infinity, or one past the largest finite code. -/
def Fmt.topCode (f : Fmt) : Nat :=
  match f.special with
  | .ieee => (2 ^ f.eb - 1) * 2 ^ f.mb
  | .e4m3 => 2 ^ (f.eb + f.mb) - 1
  | .none => 2 ^ (f.eb + f.mb)
/-- The value of a code (R86). -/
def Fmt.value (f : Fmt) (c : Nat) : FV :=
  let neg := decide (f.signCode ≤ c)
  let mag := c % f.signCode
  let ex := mag / 2 ^ f.mb
  let fr := mag % 2 ^ f.mb
  if f.special = .ieee ∧ f.topCode < mag then .nan
  else if f.special = .ieee ∧ mag = f.topCode then .inf neg
  else if f.special = .e4m3 ∧ mag = f.topCode then .nan
  else if ex = 0 then .fin neg fr (1 - f.bias - f.mb)
  else .fin neg (2 ^ f.mb + fr) (ex - f.bias - f.mb)

/-- Rounding modes of base F (R146). -/
inductive Round where
  | rne | rtz | rdn | rup | rmm
  deriving DecidableEq, Repr

/-- Does a magnitude with quotient `q`, remainder `r` of `2^d` round up? -/
def roundsUp (md : Round) (neg : Bool) (q r d : Nat) : Bool :=
  match md with
  | .rne => decide (2 ^ d < 2 * r ∨ (2 * r = 2 ^ d ∧ q % 2 = 1))
  | .rtz => false
  | .rdn => neg && decide (r ≠ 0)
  | .rup => !neg && decide (r ≠ 0)
  | .rmm => decide (2 ^ d ≤ 2 * r)

/-- A magnitude `m * 2^e` in units of `2^q`, rounded: the units, and whether it was inexact. -/
def toUnits (md : Round) (neg : Bool) (m : Nat) (e q : Int) : Nat × Bool :=
  if q ≤ e then (m * 2 ^ (e - q).toNat, false)
  else
    let d := (q - e).toNat
    let k := m / 2 ^ d
    let r := m % 2 ^ d
    (if roundsUp md neg k r d then k + 1 else k, decide (r ≠ 0))

/-- fflags bits: NV, DZ, OF, UF, NX. -/
def flNV : BitVec 5 := 16
def flDZ : BitVec 5 := 8
def flOF : BitVec 5 := 4
def flUF : BitVec 5 := 2
def flNX : BitVec 5 := 1

/-- Magnitude code of a non-zero magnitude rounded with unbounded range above: the code may pass the
largest finite one.  Also inexact, and tiny after rounding. -/
def Fmt.roundMag (f : Fmt) (md : Round) (neg : Bool) (m : Nat) (e : Int) : Nat × Bool × Bool :=
  let E := (m.log2 : Int) + e
  let emin := 1 - f.bias
  let q := max E emin - f.mb
  let (u, nx) := toUnits md neg m e q
  let (u, q) := if u = 2 ^ (f.mb + 1) then (2 ^ f.mb, q + 1) else (u, q)
  let code := if u < 2 ^ f.mb then u else ((q + f.mb + f.bias).toNat) * 2 ^ f.mb + (u - 2 ^ f.mb)
  let (u2, _) := toUnits md neg m e (E - f.mb)
  let tiny := decide (E < emin) && !(decide (u2 = 2 ^ (f.mb + 1)) && decide (E + 1 = emin))
  (code, nx, tiny)

/-- Round a value to FP32 in a mode, with the flags raised (R146). -/
def round32 (md : Round) : FV → W32 × BitVec 5
  | .nan => (0x7FC00000, 0)
  | .inf neg => (if neg then 0xFF800000 else 0x7F800000, 0)
  | .fin neg m e =>
    let s : Nat := if neg then 0x80000000 else 0
    if m = 0 then (BitVec.ofNat 32 s, 0)
    else
      let (c, nx, tiny) := fp32.roundMag md neg m e
      if fp32.topCode ≤ c then
        let toInf := match md with
          | .rne => true | .rmm => true | .rtz => false | .rdn => neg | .rup => !neg
        (BitVec.ofNat 32 (s + (if toInf then fp32.topCode else fp32.topCode - 1)), flOF ||| flNX)
      else (BitVec.ofNat 32 (s + c),
        (if nx then flNX else 0) ||| (if nx && tiny then flUF else 0))

/-- round_fp32_rne of R164. -/
def rne32 (v : FV) : W32 := (round32 .rne v).1
/-- The value of FP32 bits. -/
def val32 (w : W32) : FV := fp32.value w.toNat
def isNan32 (w : W32) : Bool := val32 w == .nan
/-- A signalling NaN: the top fraction bit is clear. -/
def isSnan32 (w : W32) : Bool := isNan32 w && !w.getLsbD 22
def canonNan : W32 := 0x7FC00000

/-! ### Exact sums and products (R5, R97) -/

def FV.neg : FV → FV
  | .nan => .nan
  | .inf s => .inf !s
  | .fin s m e => .fin (!s) m e
def FV.isNeg : FV → Bool
  | .nan => false
  | .inf s => s
  | .fin s _ _ => s
def FV.isZero : FV → Bool
  | .fin _ 0 _ => true
  | _ => false
/-- A signed magnitude as an integer of units of `2^q`, for `q` at most `e`. -/
def unitsAt (neg : Bool) (m : Nat) (e q : Int) : Int :=
  let v : Int := m * 2 ^ (e - q).toNat
  if neg then -v else v
/-- An integer of units of `2^q` as a value, with the sign of an exact zero given. -/
def ofUnits (zeroNeg : Bool) (v q : Int) : FV :=
  if v = 0 then .fin zeroNeg 0 0 else .fin (decide (v < 0)) v.natAbs q

/-- Exact product; infinity times zero is NaN (R5, R97). -/
def FV.mul : FV → FV → FV
  | .nan, _ => .nan
  | _, .nan => .nan
  | .inf a, .inf b => .inf (a != b)
  | .inf a, .fin b m _ => if m = 0 then .nan else .inf (a != b)
  | .fin a m _, .inf b => if m = 0 then .nan else .inf (a != b)
  | .fin a m e, .fin b n f => .fin (a != b) (m * n) (e + f)

/-- Exact sum; an exact zero is negative when both addends are, or in the mode that rounds down when
the signs differ (R5, IEEE 754). -/
def FV.add (down : Bool) : FV → FV → FV
  | .nan, _ => .nan
  | _, .nan => .nan
  | .inf a, .inf b => if a = b then .inf a else .nan
  | .inf a, .fin .. => .inf a
  | .fin .., .inf b => .inf b
  | .fin a m e, .fin b n f =>
    let q := min e f
    let z := if a = b then a else down
    ofUnits z (unitsAt a m e q + unitsAt b n f q) q

/-- Exact sum of a list; −0 exactly when every addend is −0 (R5), NaN and infinities as R97. -/
def FV.sum : List FV → FV
  | [] => .fin false 0 0
  | [a] => a
  | a :: as => FV.add false a (FV.sum as)

/-! ### Base F (R146) -/

/-- Flags of an operation with a signalling NaN among its operands. -/
def snanFlag (ws : List W32) : BitVec 5 := if ws.any isSnan32 then flNV else 0
/-- Round a result; a NaN made from operands that are not NaN is invalid. -/
def finish32 (md : Round) (ws : List W32) (v : FV) : W32 × BitVec 5 :=
  let made := if v == .nan && !(ws.any isNan32) then flNV else 0
  let (r, fl) := round32 md v
  (r, fl ||| made ||| snanFlag ws)

def fadd32 (md : Round) (a b : W32) : W32 × BitVec 5 :=
  finish32 md [a, b] (FV.add (md == .rdn) (val32 a) (val32 b))
def fsub32 (md : Round) (a b : W32) : W32 × BitVec 5 :=
  finish32 md [a, b] (FV.add (md == .rdn) (val32 a) (val32 b).neg)
def fmul32 (md : Round) (a b : W32) : W32 × BitVec 5 := finish32 md [a, b] ((val32 a).mul (val32 b))
/-- ±(a × b) ± c with one rounding.  Infinity times zero is invalid even beside a NaN addend. -/
def ffma32 (md : Round) (negP negC : Bool) (a b c : W32) : W32 × BitVec 5 :=
  let p := (val32 a).mul (val32 b)
  let p := if negP then p.neg else p
  let d := if negC then (val32 c).neg else val32 c
  let bad := p == .nan && !isNan32 a && !isNan32 b
  let (r, fl) := finish32 md [a, b, c] (FV.add (md == .rdn) p d)
  (r, fl ||| (if bad then flNV else 0))

/-- Exact or sticky quotient: at least 64 significant bits, the lowest one sticky. -/
def quotient (m n : Nat) (e f : Int) : Nat × Int :=
  let k := 64 + n.log2
  let x := m * 2 ^ k
  (2 * (x / n) + (if x % n = 0 then 0 else 1), e - f - k - 1)

def fdiv32 (md : Round) (a b : W32) : W32 × BitVec 5 :=
  match val32 a, val32 b with
  | .nan, _ => (canonNan, snanFlag [a, b])
  | _, .nan => (canonNan, snanFlag [a, b])
  | .inf _, .inf _ => (canonNan, flNV)
  | .inf s, .fin t _ _ => round32 md (.inf (s != t))
  | .fin s _ _, .inf t => round32 md (.fin (s != t) 0 0)
  | .fin s m e, .fin t n f =>
    if n = 0 then (if m = 0 then (canonNan, flNV) else ((round32 md (.inf (s != t))).1, flDZ))
    else
      let (x, y) := quotient m n e f
      round32 md (.fin (s != t) x y)

/-- Integer square root by bits from bit `i - 1` down. -/
def isqrtGo (n : Nat) : Nat → Nat → Nat
  | 0, r => r
  | i + 1, r =>
    let c := r + 2 ^ i
    if c * c ≤ n then isqrtGo n i c else isqrtGo n i r

/-- Floor of the square root of a number below `2^(2 * bits)`. -/
def isqrt (bits n : Nat) : Nat := isqrtGo n bits 0

/-- Exact or sticky square root: at least 40 significant bits, the lowest one sticky. -/
def root (m : Nat) (e : Int) : Nat × Int :=
  let k := 200 + (e % 2).toNat
  let x := m * 2 ^ k
  let r := isqrt 300 x
  (2 * r + (if r * r = x then 0 else 1), (e - k) / 2 - 1)

def fsqrt32 (md : Round) (a : W32) : W32 × BitVec 5 :=
  match val32 a with
  | .nan => (canonNan, snanFlag [a])
  | .inf s => if s then (canonNan, flNV) else (a, 0)
  | .fin s m e =>
    if m = 0 then (a, 0)
    else if s then (canonNan, flNV)
    else
      let (x, y) := root m e
      round32 md (.fin false x y)

/-- Order of two values that are not NaN, with −0 equal to +0: a < b. -/
def FV.lt : FV → FV → Bool
  | .nan, _ => false
  | _, .nan => false
  | .inf a, .inf b => a && !b
  | .inf a, .fin .. => a
  | .fin .., .inf b => !b
  | .fin a m e, .fin b n f =>
    let q := min e f
    decide (unitsAt a m e q < unitsAt b n f q)
def FV.eq (a b : FV) : Bool := a != .nan && b != .nan && !a.lt b && !b.lt a
/-- Order with −0 below +0 (R234, R238). -/
def lt0 (a b : W32) : Bool :=
  (val32 a).lt (val32 b) || ((val32 a).eq (val32 b) && a.getLsbD 31 && !b.getLsbD 31)

/-- FMIN.S and FMAX.S: a NaN operand gives the other one; −0 < +0. -/
def fminmax32 (isMax : Bool) (a b : W32) : W32 × BitVec 5 :=
  let fl := snanFlag [a, b]
  if isNan32 a && isNan32 b then (canonNan, fl)
  else if isNan32 a then (b, fl)
  else if isNan32 b then (a, fl)
  else (if lt0 a b != isMax then a else b, fl)

/-- FEQ.S is quiet; FLT.S and FLE.S are invalid on any NaN. -/
def feq32 (a b : W32) : Bool × BitVec 5 := ((val32 a).eq (val32 b), snanFlag [a, b])
def flt32 (a b : W32) : Bool × BitVec 5 :=
  ((val32 a).lt (val32 b), if isNan32 a || isNan32 b then flNV else 0)
def fle32 (a b : W32) : Bool × BitVec 5 :=
  ((val32 a).lt (val32 b) || (val32 a).eq (val32 b), if isNan32 a || isNan32 b then flNV else 0)

/-- FCLASS.S. -/
def fclass32 (a : W32) : Word :=
  match val32 a with
  | .nan => if isSnan32 a then 0x100 else 0x200
  | .inf s => if s then 0x001 else 0x080
  | .fin s m _ =>
    let sub := fld (a.setWidth 64) 30 23 = 0
    if m = 0 then (if s then 0x008 else 0x010)
    else if sub then (if s then 0x004 else 0x020)
    else (if s then 0x002 else 0x040)
where
  fld (v : Word) (hi lo : Nat) : Nat := (v.toNat >>> lo) % 2 ^ (hi + 1 - lo)

/-- A value rounded to an integer in a mode, and whether it was inexact. -/
def toInteger (md : Round) (neg : Bool) (m : Nat) (e : Int) : Int × Bool :=
  let (u, nx) := toUnits md neg m e 0
  (if neg then -(u : Int) else u, nx)

/-- FCVT to an integer of range [lo, hi]: NaN and +infinity give hi, −infinity gives lo (the standard). -/
def fcvtInt (md : Round) (lo hi : Int) (a : W32) : Int × BitVec 5 :=
  match val32 a with
  | .nan => (hi, flNV)
  | .inf s => (if s then lo else hi, flNV)
  | .fin s m e =>
    let (v, nx) := toInteger md s m e
    if v < lo then (lo, flNV) else if hi < v then (hi, flNV) else (v, if nx then flNX else 0)

/-- FCVT from an integer. -/
def fcvtOf (md : Round) (v : Int) : W32 × BitVec 5 := round32 md (ofUnits false v 0)

/-! ### The vector functions (R235) -/

/-- The FP32 code at or below a positive magnitude, as a whole number of codes. -/
def floor32 (m : Nat) (e : Int) : Nat := (fp32.roundMag .rtz false m e).1
/-- A magnitude code with a sign, held at infinity above. -/
def code32 (neg : Bool) (c : Int) : W32 :=
  BitVec.ofNat 32 ((if neg then 0x80000000 else 0) + (min (max c 0) 0x7F800000).toNat)

/-- p times 2^(f / 2^n) from below, in units of 2^-256, where r is 2 at first and its square roots after that: one
factor for each of the n bits of f. -/
def exp2Bits : Nat → Nat → Nat → Nat → Nat
  | 0, _, _, p => p
  | n + 1, f, r, p =>
    let r := isqrt 300 (r * 2 ^ 256)
    exp2Bits n f r (if f.testBit n then p * r / 2 ^ 256 else p)
/-- 2^(f / 2^n) for f below 2^n, in units of 2^-256: it is this, or above it by less than 4,096 for n up to 149. -/
def exp2Fix (n f : Nat) : Nat := exp2Bits n f (2 ^ 257) (2 ^ 256)
/-- Bits of log2 of a number x in [1, 2), in units of 2^-256, by repeated squaring: log2 is this, or above it by less
than two units of the last bit. -/
def log2Bits : Nat → Nat → Nat → Nat
  | 0, _, acc => acc
  | n + 1, x, acc =>
    let y := x * x / 2 ^ 256
    if 2 ^ 257 ≤ y then log2Bits n (y / 2) (2 * acc + 1) else log2Bits n y (2 * acc)

/-- A code within 2 ulp of a value whose magnitude lies at code `c` or between it and the next: one of the four
codes around it.  An ulp is the spacing of the codes in the value's own binade (log 52), so the code two above
is out where the next one begins a new binade; DESIGN CHOICE (log 52): of the codes below a power of two, which are
half as far apart, only the first is given. -/
def within2 (neg : Bool) (c : Nat) (pick : Fin 4) : W32 :=
  code32 neg ((c : Int) + (if (c + 1) % 2 ^ 23 = 0 then min pick.val 2 else pick.val) - 1)

/-- A code within 2 ulp of a magnitude between lo and hi in units of 2^e, bounds so close that at most one code lies
between them. -/
def near2 (neg : Bool) (lo hi : Nat) (e : Int) (pick : Fin 4) : W32 :=
  let c := floor32 lo e
  if floor32 hi e = c then within2 neg c pick else code32 neg (c + 1)

/-- VEXP2: exact where a is an integer or a special value, else one of the four codes within 2 ulp.  DESIGN CHOICE
(log 52): above 2^128 the result is infinity. -/
def vexp2 (a : W32) : W32 :=
  match val32 a with
  | .nan => canonNan
  | .inf s => if s then 0 else 0x7F800000
  | .fin s m e =>
    let big := decide (m ≠ 0 ∧ 12 < (m.log2 : Int) + e)
    if m = 0 then 0x3F800000
    else if big && !s then 0x7F800000
    else if big then (if 0 ≤ e ∨ m % 2 ^ (-e).toNat = 0 then 0 else within2 false 0 (Config.exp2Pick a))
    else if 0 ≤ e then rne32 (.fin false 1 (if s then -(m * 2 ^ e.toNat : Int) else m * 2 ^ e.toNat))
    else
      let d := (-e).toNat
      if m % 2 ^ d = 0 then
        rne32 (.fin false 1 (if s then -((m / 2 ^ d : Nat) : Int) else (m / 2 ^ d : Nat)))
      else
        let x : Int := if s then -(m : Int) else m
        let n := x / 2 ^ d
        let p := exp2Fix d (x % 2 ^ d).toNat
        if 128 ≤ n then 0x7F800000 else near2 false p (p + 4096) (n - 256) (Config.exp2Pick a)

/-- VLOG2: exact for powers of two and special values, else one of the four codes within 2 ulp. -/
def vlog2 (a : W32) : W32 :=
  match val32 a with
  | .nan => canonNan
  | .inf s => if s then canonNan else 0x7F800000
  | .fin s m e =>
    if m = 0 then 0xFF800000
    else if s then canonNan
    else
      let L := m.log2
      if m = 2 ^ L then rne32 (ofUnits false ((L : Int) + e) 0)
      else
        let bits := log2Bits 200 (m * 2 ^ 256 / 2 ^ L) 0
        let v : Int := ((L : Int) + e) * 2 ^ 200 + bits
        near2 (decide (v < 0)) (min v.natAbs (v + 2).natAbs) (max v.natAbs (v + 2).natAbs) (-200) (Config.log2Pick a)

/-- VRCP: exact where 1/a is a power of two that is representable, and for special values; else one of
the two codes around 1/a, and, DESIGN CHOICE (log 52), infinity at 2^128 and above. -/
def vrcp (a : W32) : W32 :=
  match val32 a with
  | .nan => canonNan
  | .inf s => code32 s 0
  | .fin s m e =>
    if m = 0 ∨ !(FV.fin false 1 (-128)).lt (.fin false m e) then code32 s 0x7F800000
    else
      let (x, y) := quotient 1 m 0 e
      let (c, nx, _) := fp32.roundMag .rtz false x y
      if nx then code32 s ((c : Int) + (if Config.rcpPick a then 1 else 0)) else code32 s c

/-- VRSQ: exact for powers of four and special values; else one of the two codes around 1/sqrt(a). -/
def vrsq (a : W32) : W32 :=
  match val32 a with
  | .nan => canonNan
  | .inf s => if s then canonNan else 0
  | .fin s m e =>
    if m = 0 then code32 s 0x7F800000
    else if s then canonNan
    else
      let k := 600 + (e % 2).toNat
      let r := isqrt 400 (2 ^ k * 2 ^ 100 / m)
      let (c, nx, _) := fp32.roundMag .rtz false (2 * r + (if r * r * m = 2 ^ k * 2 ^ 100 then 0 else 1))
        ((-e - k - 100) / 2 - 1)
      if nx then code32 false ((c : Int) + (if Config.rsqPick a then 1 else 0)) else code32 false c

end Sys2Proof.Machine
end

