-- ==== Sys2Proof/WellFormed.lean ====
section
/-! DEFINITION. Which terms of Instr are instruction words, and under which encoding versions. -/

namespace Sys2Proof

/-- A step the device takes outside a thread's instruction: it has no instruction word. -/
def Instr.isEvent : Instr → Bool
  | .waitReevaluate => true
  | .waitTimeout => true
  | .issueStallEnd => true
  | .sliceExpiry => true
  | .parkedWake => true
  | .watchdog => true
  | .matrixOperandDelivery => true
  | .latlimExpiry => true
  | .taskDispatch => true
  | .tscRestart => true
  | .copyPieceWrite => true
  | .copyFinish => true
  | .weevilSliceCopy => true
  | .weevilPassEnd => true
  | .flipWindowClose => true
  | .relocAbandon => true
  | .arrayMxldwStart => true
  | .arrayMxldwSlot => true
  | .arrayMxswapRun => true
  | .arrayMxzeroRun => true
  | .arrayStreamHeadCheck => true
  | .arrayRowEnter => true
  | .arrayRowUpdate => true
  | .arrayMxwbRow => true
  | .arrayCancelStop => true
  | .arrayPoisonFault => true
  | .translationWalk => true
  | .weightReturn => true
  | .trackerReturn => true
  | .cancelMessageArrive => true
  | .thresholdSample => true
  | .kilnTake => true
  | .launch => true
  | .launchPlace => true
  | .completionPost => true
  | .kill => true
  | .waitToken => true
  | .createHeap => true
  | .destroyHeap => true
  | .createStream => true
  | .destroyStream => true
  | .aspaceSet => true
  | .aspaceInval => true
  | .threshold => true
  | .setClock => true
  | .groupSet => true
  | .groupCancelReceive => true
  | .clockStallEnd => true
  | .notifyWrite => true
  | .cheadWrite => true
  | .queueEnable => true
  | .queueDisable => true
  | .tokenCounterWrite => true
  | .deviceEventClear => true
  | .registerWrite => true
  | .flr => true
  | .stopInterface => true
  | .ideFailure => true
  | .tdispLock => true
  | .deviceReset => true
  | .lifecycleProvision => true
  | .lifecycleDeploy => true
  | .lifecycleReturn => true
  | .lifecycleReprovision => true
  | .spdmVersion => true
  | .spdmCapabilities => true
  | .spdmAlgorithms => true
  | .spdmDigests => true
  | .spdmCertificate => true
  | .spdmChallenge => true
  | .spdmMeasurements => true
  | .spdmKeyExchange => true
  | .kilnTakeover => true
  | .kilnScrub => true
  | .kilnReload => true
  | .tileMapout => true
  | .patrolScrub => true
  | .remoteAck => true
  | .remoteTimeout => true
  | .linkFailure => true
  | .timeFlit => true
  | .tempPowerSample => true
  | .thermalStepUp => true
  | .thermal => true
  | .trip => true
  | .attach => true
  | .detach => true
  | .halt => true
  | .resume => true
  | .step => true
  | .setbp => true
  | .setwp => true
  | .read => true
  | .write => true
  | .scope => true
  | .mem => true
  | .events => true
  | .remoteOperationArrive => true
  | .cxlMemAccess => true
  | _ => false

/-- Types legal for a vector arithmetic mnemonic (R135): FP32, INT32, BF16, INT8. -/
def ETy.legal (f32 i32 bf16 i8 : Bool) : ETy → Bool
  | .f32 => f32 | .i32 => i32 | .bf16 => bf16 | .i8 => i8

/-- The limits that operand types do not express: destinations forbidden by a class (R125), the
types of R135, the even destination of MXRD (R138).  An event is no instruction word. -/
def Instr.wf : Instr → Bool
  | .sopen rd _ => rd != 0
  | .senter rd _ => rd != 0
  | .senterV2 rd _ => rd != 0
  | .vand ty _ _ _ => ty.legal false true false false
  | .vor ty _ _ _ => ty.legal false true false false
  | .vxor ty _ _ _ => ty.legal false true false false
  | .vshl ty _ _ _ => ty.legal false true false true
  | .vshr ty _ _ _ => ty.legal false true false true
  | .vsra ty _ _ _ => ty.legal false true false true
  | .vexp2 ty _ _ => ty.legal true false false false
  | .vlog2 ty _ _ => ty.legal true false false false
  | .vrcp ty _ _ => ty.legal true false false false
  | .vrsq ty _ _ => ty.legal true false false false
  | .vmov ty _ _ => ty.legal true false false false
  | .vtmask rd _ _ => rd != 0
  | .vcmpeq rd _ _ => rd != 0
  | .vcmpne rd _ _ => rd != 0
  | .vcmplt rd _ _ => rd != 0
  | .vcmple rd _ _ => rd != 0
  | .mand rd _ _ => rd != 0
  | .mor rd _ _ => rd != 0
  | .mnot rd _ => rd != 0
  | .mxrd rd _ _ => !rd.getLsbD 0
  | i => !i.isEvent

/-- The encoding versions that hold an instruction (R139).  The plain names are the rows of version 3;
the other rows of the table are the same instructions' words under versions 1 and 2. -/
def Instr.inVersion : Version → Instr → Bool
  | .v3, .scloseaV2 _ => false
  | .v3, .senterV2 _ _ => false
  | .v3, .scancelV1V2 _ => false
  | .v3, .succeedV1V2 _ => false
  | .v3, .shieldV1V2 => false
  | .v3, .unshieldV1V2 => false
  | .v3, .chkcV1V2 => false
  | .v3, .sstatV1V2 _ _ => false
  | .v3, .exitV1V2 => false
  | .v3, .yieldV1V2 => false
  | .v3, _ => true
  | _, .sclosea _ => false
  | _, .senter _ _ => false
  | _, .scancel _ => false
  | _, .succeed _ => false
  | _, .shield => false
  | _, .unshield => false
  | _, .chkc => false
  | _, .sstat _ _ => false
  | _, .exit => false
  | _, .yield => false
  | _, .smkv _ _ => false
  | _, .treegen _ _ _ => false
  | _, .daccept _ _ _ => false
  | .v1, .scloseaV2 _ => false
  | .v1, .senterV2 _ _ => false
  | .v1, .mxstrm p _ _ _ _ => p != .s4 && p != .ln6
  | _, _ => true

end Sys2Proof
end

