-- ==== Sys2Proof/Decode.lean ====
section
/-! DEFINITION. From instruction words to instructions and back, under each encoding version
(R121 to R140).  A word that is no instruction has no term: `decode` answers none (R366). -/

namespace Sys2Proof

/-! Fields of a word (R123). -/

def fOp (w : W32) : BitVec 7 := w.extractLsb' 0 7
def fRd (w : W32) : BitVec 5 := w.extractLsb' 7 5
def fF3 (w : W32) : BitVec 3 := w.extractLsb' 12 3
def fRs1 (w : W32) : BitVec 5 := w.extractLsb' 15 5
def fRs2 (w : W32) : BitVec 5 := w.extractLsb' 20 5
def fF7 (w : W32) : BitVec 7 := w.extractLsb' 25 7
def fF2 (w : W32) : BitVec 2 := w.extractLsb' 25 2
def fRs3 (w : W32) : BitVec 5 := w.extractLsb' 27 5
/-- The I and XI immediate. -/
def fImmI (w : W32) : BitVec 12 := w.extractLsb' 20 12
/-- The S and XS immediate. -/
def fImmS (w : W32) : BitVec 12 := w.extractLsb' 25 7 ++ w.extractLsb' 7 5
/-- The B and XB immediate without its zero bit. -/
def fImmB (w : W32) : BitVec 12 :=
  w.extractLsb' 31 1 ++ w.extractLsb' 7 1 ++ w.extractLsb' 25 6 ++ w.extractLsb' 8 4
/-- The U immediate. -/
def fImmU (w : W32) : BitVec 20 := w.extractLsb' 12 20
/-- The J immediate without its zero bit. -/
def fImmJ (w : W32) : BitVec 20 :=
  w.extractLsb' 31 1 ++ w.extractLsb' 12 8 ++ w.extractLsb' 20 1 ++ w.extractLsb' 21 10

/-! Words of each layout (R123). -/

def mkR (f7 : BitVec 7) (rs2 rs1 : BitVec 5) (f3 : BitVec 3) (rd : BitVec 5) (op : BitVec 7) : W32 :=
  f7 ++ rs2 ++ rs1 ++ f3 ++ rd ++ op
def mkR4 (rs3 : BitVec 5) (f2 : BitVec 2) (rs2 rs1 : BitVec 5) (f3 : BitVec 3) (rd : BitVec 5)
    (op : BitVec 7) : W32 :=
  rs3 ++ f2 ++ rs2 ++ rs1 ++ f3 ++ rd ++ op
def mkI (imm : BitVec 12) (rs1 : BitVec 5) (f3 : BitVec 3) (rd : BitVec 5) (op : BitVec 7) : W32 :=
  imm ++ rs1 ++ f3 ++ rd ++ op
def mkS (imm : BitVec 12) (rs2 rs1 : BitVec 5) (f3 : BitVec 3) (op : BitVec 7) : W32 :=
  imm.extractLsb' 5 7 ++ rs2 ++ rs1 ++ f3 ++ imm.extractLsb' 0 5 ++ op
def mkB (imm : BitVec 12) (rs2 rs1 : BitVec 5) (f3 : BitVec 3) (op : BitVec 7) : W32 :=
  imm.extractLsb' 11 1 ++ imm.extractLsb' 4 6 ++ rs2 ++ rs1 ++ f3 ++ imm.extractLsb' 0 4
    ++ imm.extractLsb' 10 1 ++ op
def mkU (imm : BitVec 20) (rd : BitVec 5) (op : BitVec 7) : W32 := imm ++ rd ++ op
def mkJ (imm : BitVec 20) (rd : BitVec 5) (op : BitVec 7) : W32 :=
  imm.extractLsb' 19 1 ++ imm.extractLsb' 0 10 ++ imm.extractLsb' 10 1 ++ imm.extractLsb' 11 8
    ++ rd ++ op

/-! Register classes and coded operands (R125, R131, R135, R137). -/

/-- An m or k field: 0 to 7. -/
def reg3 (b : BitVec 5) : Option (BitVec 3) :=
  if b.extractLsb' 3 2 = 0 then some (b.extractLsb' 0 3) else none
/-- A q or cb field: 0 to 15. -/
def reg4 (b : BitVec 5) : Option (BitVec 4) :=
  if b.extractLsb' 4 1 = 0 then some (b.extractLsb' 0 4) else none
/-- An acc field: 0 to 3. -/
def reg2 (b : BitVec 5) : Option (BitVec 2) :=
  if b.extractLsb' 2 3 = 0 then some (b.extractLsb' 0 2) else none
def wide3 (b : BitVec 3) : BitVec 5 := 0#2 ++ b
def wide4 (b : BitVec 4) : BitVec 5 := 0#1 ++ b
def wide2 (b : BitVec 2) : BitVec 5 := 0#3 ++ b
/-- An unused field must be zero (R126). -/
def unused (b : BitVec 5) (i : Option Instr) : Option Instr := if b = 0 then i else none

def Reach.ofBits : BitVec 3 → Option Reach
  | 0 => some .tile | 1 => some .cluster | 2 => some .die | 3 => some .package
  | 4 => some .fabric | 5 => some .system | _ => none
def Reach.bits : Reach → BitVec 3
  | .tile => 0 | .cluster => 1 | .die => 2 | .package => 3 | .fabric => 4 | .system => 5
def Size.ofBits : BitVec 2 → Size
  | 0 => .b | 1 => .h | 2 => .w | _ => .d
def Size.bits : Size → BitVec 2
  | .b => 0 | .h => 1 | .w => 2 | .d => 3
/-- Bytes of an access (R199). -/
def Size.bytes : Size → Nat
  | .b => 1 | .h => 2 | .w => 4 | .d => 8
def AWidth.ofBit (b : BitVec 1) : AWidth := if b = 1 then .d else .w
def AWidth.bit : AWidth → BitVec 1
  | .w => 0 | .d => 1
/-- Bytes of an atomic (R200). -/
def AWidth.bytes : AWidth → Nat
  | .w => 4 | .d => 8
def ETy.ofBits : BitVec 2 → ETy
  | 0 => .f32 | 1 => .i32 | 2 => .bf16 | _ => .i8
def ETy.bits : ETy → BitVec 2
  | .f32 => 0 | .i32 => 1 | .bf16 => 2 | .i8 => 3
def Rm.ofBits : BitVec 3 → Option Rm
  | 0 => some .rne | 1 => some .rtz | 2 => some .rdn | 3 => some .rup | 4 => some .rmm
  | 7 => some .dyn | _ => none
def Rm.bits : Rm → BitVec 3
  | .rne => 0 | .rtz => 1 | .rdn => 2 | .rup => 3 | .rmm => 4 | .dyn => 7

/-- Pair codes of R137. -/
def Pair.ofCode : BitVec 5 → Option Pair
  | 0 => some .bb
  | 1 => some .hh
  | 2 => some .e4e4
  | 3 => some .e4e5
  | 4 => some .e5e4
  | 5 => some .e5e5
  | 6 => some .mx8
  | 7 => some .mx6
  | 8 => some .mx4
  | 9 => some .mx4x8
  | 10 => some .s4
  | 11 => some .i8
  | 12 => some .i8i4
  | 13 => some .ln6
  | _ => none
def Pair.code : Pair → BitVec 5
  | .bb => 0
  | .hh => 1
  | .e4e4 => 2
  | .e4e5 => 3
  | .e5e4 => 4
  | .e5e5 => 5
  | .mx8 => 6
  | .mx6 => 7
  | .mx4 => 8
  | .mx4x8 => 9
  | .s4 => 10
  | .i8 => 11
  | .i8i4 => 12
  | .ln6 => 13
/-- Conversion codes of R243. -/
def Cvt.ofCode : BitVec 7 → Option Cvt
  | 0 => some .f32i32
  | 1 => some .i32f32
  | 2 => some .f32bf16
  | 3 => some .bf16f32
  | 4 => some .f32f16
  | 5 => some .f16f32
  | 6 => some .f32e4
  | 7 => some .e4f32
  | 8 => some .f32e5
  | 9 => some .e5f32
  | 10 => some .f32i8
  | 11 => some .i8f32
  | 12 => some .f32i4
  | 13 => some .i4f32
  | 14 => some .f32ln6
  | 15 => some .ln6f32
  | 16 => some .f32mx8
  | 17 => some .mx8f32
  | 18 => some .f32mx6
  | 19 => some .mx6f32
  | 20 => some .f32mx4
  | 21 => some .mx4f32
  | 22 => some .f32s4
  | 23 => some .s4f32
  | _ => none
def Cvt.code : Cvt → BitVec 7
  | .f32i32 => 0
  | .i32f32 => 1
  | .f32bf16 => 2
  | .bf16f32 => 3
  | .f32f16 => 4
  | .f16f32 => 5
  | .f32e4 => 6
  | .e4f32 => 7
  | .f32e5 => 8
  | .e5f32 => 9
  | .f32i8 => 10
  | .i8f32 => 11
  | .f32i4 => 12
  | .i4f32 => 13
  | .f32ln6 => 14
  | .ln6f32 => 15
  | .f32mx8 => 16
  | .mx8f32 => 17
  | .f32mx6 => 18
  | .mx6f32 => 19
  | .f32mx4 => 20
  | .mx4f32 => 21
  | .f32s4 => 22
  | .s4f32 => 23

/-! The base (R140). -/

def decodeLoad (w : W32) : Option Instr :=
  let rd := fRd w; let rs1 := fRs1 w; let imm := fImmI w
  match fF3 w with
  | 0 => some (.lb rd rs1 imm) | 1 => some (.lh rd rs1 imm) | 2 => some (.lw rd rs1 imm)
  | 3 => some (.ld rd rs1 imm) | 4 => some (.lbu rd rs1 imm) | 5 => some (.lhu rd rs1 imm)
  | 6 => some (.lwu rd rs1 imm) | _ => none

def decodeStore (w : W32) : Option Instr :=
  let rs2 := fRs2 w; let rs1 := fRs1 w; let imm := fImmS w
  match fF3 w with
  | 0 => some (.sb rs1 rs2 imm) | 1 => some (.sh rs1 rs2 imm) | 2 => some (.sw rs1 rs2 imm)
  | 3 => some (.sd rs1 rs2 imm) | _ => none

def decodeOpImm (w : W32) : Option Instr :=
  let rd := fRd w; let rs1 := fRs1 w; let imm := fImmI w
  let f6 : BitVec 6 := w.extractLsb' 26 6; let sh : BitVec 6 := w.extractLsb' 20 6
  match fF3 w with
  | 0 => some (.addi rd rs1 imm) | 2 => some (.slti rd rs1 imm) | 3 => some (.sltiu rd rs1 imm)
  | 4 => some (.xori rd rs1 imm) | 6 => some (.ori rd rs1 imm) | 7 => some (.andi rd rs1 imm)
  | 1 => if f6 = 0 then some (.slli rd rs1 sh) else none
  | _ => if f6 = 0 then some (.srli rd rs1 sh) else if f6 = 0x10 then some (.srai rd rs1 sh) else none

def decodeOpImm32 (w : W32) : Option Instr :=
  let rd := fRd w; let rs1 := fRs1 w; let sh := fRs2 w
  match fF3 w with
  | 0 => some (.addiw rd rs1 (fImmI w))
  | 1 => if fF7 w = 0 then some (.slliw rd rs1 sh) else none
  | 5 => if fF7 w = 0 then some (.srliw rd rs1 sh)
         else if fF7 w = 0x20 then some (.sraiw rd rs1 sh) else none
  | _ => none

def decodeOpR (w : W32) : Option Instr :=
  let rd := fRd w; let a := fRs1 w; let b := fRs2 w
  match fF7 w, fF3 w with
  | 0x00, 0 => some (.add rd a b) | 0x20, 0 => some (.sub rd a b) | 0x00, 1 => some (.sll rd a b)
  | 0x00, 2 => some (.slt rd a b) | 0x00, 3 => some (.sltu rd a b) | 0x00, 4 => some (.xor rd a b)
  | 0x00, 5 => some (.srl rd a b) | 0x20, 5 => some (.sra rd a b) | 0x00, 6 => some (.or rd a b)
  | 0x00, 7 => some (.and rd a b)
  | 0x01, 0 => some (.mul rd a b) | 0x01, 1 => some (.mulh rd a b) | 0x01, 2 => some (.mulhsu rd a b)
  | 0x01, 3 => some (.mulhu rd a b) | 0x01, 4 => some (.div rd a b) | 0x01, 5 => some (.divu rd a b)
  | 0x01, 6 => some (.rem rd a b) | 0x01, 7 => some (.remu rd a b)
  | _, _ => none

def decodeOp32 (w : W32) : Option Instr :=
  let rd := fRd w; let a := fRs1 w; let b := fRs2 w
  match fF7 w, fF3 w with
  | 0x00, 0 => some (.addw rd a b) | 0x20, 0 => some (.subw rd a b) | 0x00, 1 => some (.sllw rd a b)
  | 0x00, 5 => some (.srlw rd a b) | 0x20, 5 => some (.sraw rd a b)
  | 0x01, 0 => some (.mulw rd a b) | 0x01, 4 => some (.divw rd a b) | 0x01, 5 => some (.divuw rd a b)
  | 0x01, 6 => some (.remw rd a b) | 0x01, 7 => some (.remuw rd a b)
  | _, _ => none

def decodeBranch (w : W32) : Option Instr :=
  let a := fRs1 w; let b := fRs2 w; let imm := fImmB w
  match fF3 w with
  | 0 => some (.beq a b imm) | 1 => some (.bne a b imm) | 4 => some (.blt a b imm)
  | 5 => some (.bge a b imm) | 6 => some (.bltu a b imm) | 7 => some (.bgeu a b imm)
  | _ => none

def decodeSystem (w : W32) : Option Instr :=
  let rd := fRd w; let a := fRs1 w; let csr := fImmI w
  match fF3 w with
  | 0 => unused rd <| unused a <|
      if csr = 0 then some .ecall else if csr = 1 then some .ebreak
      else if csr = 0x302 then some .mret else if csr = 0x105 then some .wfi else none
  | 1 => some (.csrrw rd a csr) | 2 => some (.csrrs rd a csr) | 3 => some (.csrrc rd a csr)
  | 5 => some (.csrrwi rd a csr) | 6 => some (.csrrsi rd a csr) | 7 => some (.csrrci rd a csr)
  | _ => none

def decodeOpFp (w : W32) : Option Instr :=
  let rd := fRd w; let a := fRs1 w; let b := fRs2 w
  let rmd (k : Rm → Instr) : Option Instr := (Rm.ofBits (fF3 w)).map k
  match fF7 w with
  | 0x00 => rmd (.faddS rd a b) | 0x04 => rmd (.fsubS rd a b) | 0x08 => rmd (.fmulS rd a b)
  | 0x0C => rmd (.fdivS rd a b) | 0x2C => unused b (rmd (.fsqrtS rd a))
  | 0x10 => match fF3 w with
    | 0 => some (.fsgnjS rd a b) | 1 => some (.fsgnjnS rd a b) | 2 => some (.fsgnjxS rd a b)
    | _ => none
  | 0x14 => match fF3 w with
    | 0 => some (.fminS rd a b) | 1 => some (.fmaxS rd a b) | _ => none
  | 0x50 => match fF3 w with
    | 2 => some (.feqS rd a b) | 1 => some (.fltS rd a b) | 0 => some (.fleS rd a b) | _ => none
  | 0x60 => match b with
    | 0 => rmd (.fcvtWS rd a) | 1 => rmd (.fcvtWuS rd a) | 2 => rmd (.fcvtLS rd a)
    | 3 => rmd (.fcvtLuS rd a) | _ => none
  | 0x68 => match b with
    | 0 => rmd (.fcvtSW rd a) | 1 => rmd (.fcvtSWu rd a) | 2 => rmd (.fcvtSL rd a)
    | 3 => rmd (.fcvtSLu rd a) | _ => none
  | 0x70 => unused b <| match fF3 w with
    | 0 => some (.fmvXW rd a) | 1 => some (.fclassS rd a) | _ => none
  | 0x78 => unused b <| match fF3 w with
    | 0 => some (.fmvWX rd a) | _ => none
  | _ => none

def decodeFused (k : FReg → FReg → FReg → FReg → Rm → Instr) (w : W32) : Option Instr :=
  if fF2 w = 0 then (Rm.ofBits (fF3 w)).map (k (fRd w) (fRs1 w) (fRs2 w) (fRs3 w)) else none

/-! Custom-0, concurrency (R129, R130, R139). -/

/-- The scope group, whose funct7 values differ between versions (R139). -/
def decodeScope (v : Version) (w : W32) : Option Instr :=
  let rd := fRd w; let a := fRs1 w
  let kk (k : KReg → KReg → Instr) : Option Instr := do
    let d ← reg3 rd; let s ← reg3 a; return k d s
  let ks (k : KReg → Instr) : Option Instr := unused rd ((reg3 a).map k)
  let kx (k : KReg → XReg → Instr) : Option Instr := (reg3 rd).map (fun d => k d a)
  let xk (k : XReg → KReg → Instr) : Option Instr := (reg3 a).map (k rd)
  let xd (k : XReg → Instr) : Option Instr := unused a (some (k rd))
  let no (i : Instr) : Option Instr := unused rd (unused a (some i))
  unused (fRs2 w) <| match fF7 w with
  | 0x00 => kk .sopen
  | 0x01 => xk .sclose
  | 0x02 => match v with | .v3 => ks .sclosea | _ => ks .scancelV1V2
  | 0x03 => match v with | .v3 => kx .senter | _ => xd .succeedV1V2
  | 0x04 => match v with | .v3 => ks .scancel | _ => no .shieldV1V2
  | 0x05 => match v with | .v3 => xd .succeed | _ => no .unshieldV1V2
  | 0x06 => match v with | .v3 => no .shield | _ => no .chkcV1V2
  | 0x07 => match v with | .v3 => no .unshield | _ => xk .sstatV1V2
  | 0x08 => match v with | .v3 => no .chkc | _ => no .exitV1V2
  | 0x09 => match v with | .v3 => xk .sstat | _ => no .yieldV1V2
  | 0x0A => match v with | .v3 => no .exit | .v2 => ks .scloseaV2 | .v1 => none
  | 0x0B => match v with | .v3 => no .yield | .v2 => kx .senterV2 | .v1 => none
  | _ => none

def decodeTask (w : W32) : Option Instr :=
  let rd := fRd w; let a := fRs1 w; let b := fRs2 w
  match fF7 w with
  | 0 => some (.tsknew rd a b)
  | 1 => unused rd (unused b (some (.tskpub a)))
  | 2 => unused rd (unused b (some (.tsksig a)))
  | 3 => unused b (some (.tskstat rd a))
  | 4 => some (.rnginit rd a b)
  | 5 => unused a (unused b (some (.rclaim rd)))
  | 6 => unused b (some (.rsteal rd a))
  | _ => none

def decodeMessage (w : W32) : Option Instr :=
  let rd := fRd w; let a := fRs1 w; let b := fRs2 w
  match fF7 w with
  | 0 => unused rd (some (.msend a b))
  | 1 => unused rd (some (.msend4 a b))
  | 2 => unused b (some (.mrecv rd a))
  | 3 => unused b (some (.mrecv4 rd a))
  | 4 => unused b (some (.mpeek rd a))
  | 5 => unused b (some (.bar rd a))
  | _ => none

def decodeWait (w : W32) : Option Instr :=
  let rd := fRd w; let a := fRs1 w; let b := fRs2 w
  match fF7 w with
  | 0 => some (.waiteq rd a b)
  | 1 => some (.waitne rd a b)
  | 2 => some (.waitge rd a b)
  | 3 => unused a (unused b (some (.void rd)))
  | 4 => unused b (some (.vtest rd a))
  | _ => none

def decodeC0 (v : Version) (w : W32) : Option Instr :=
  match fF3 w with
  | 0 => decodeScope v w
  | 1 => decodeTask w
  | 2 => decodeMessage w
  | 3 => decodeWait w
  | 4 => unused (fRs2 w) (some (.bvoid (fRs1 w) (fImmB w)))
  | 5 => unused (fRs2 w) (some (.bnvoid (fRs1 w) (fImmB w)))
  | 6 => some (.jtab (fRs1 w) (fRs2 w) (fImmS w))
  | _ => match fF2 w with
    | 0 => some (.spawn (fRd w) (fRs1 w) (fRs2 w) (fRs3 w))
    | 1 => (reg3 (fRd w)).map (fun k => .spawnIn k (fRs1 w) (fRs2 w) (fRs3 w))
    | _ => none

/-! Custom-1, memory (R131 to R134). -/

def decodeOrdered (w : W32) : Option Instr :=
  let rd := fRd w; let a := fRs1 w; let b := fRs2 w
  let z := Size.ofBits (w.extractLsb' 27 2)
  let r : BitVec 3 := w.extractLsb' 29 3
  match (w.extractLsb' 25 2 : BitVec 2) with
  | 0 => unused b ((Reach.ofBits r).map (fun r => .lda r z rd a))
  | 1 => unused rd ((Reach.ofBits r).map (fun r => .stl r z a b))
  | 2 => if r = 0 then unused b (some (.lds z rd a)) else none
  | _ => if r = 0 then unused rd (some (.mcst z a b)) else none

def decodeAmo (w : W32) : Option Instr := do
  let r ← Reach.ofBits (w.extractLsb' 29 3)
  let wd := AWidth.ofBit (w.extractLsb' 28 1)
  let rd := fRd w; let a := fRs1 w; let b := fRs2 w
  match (w.extractLsb' 25 3 : BitVec 3) with
  | 0 => some (.amoadd r wd rd a b)
  | 1 => some (.amoswp r wd rd a b)
  | 2 => some (.amocas r wd rd a b)
  | 3 => some (.amomax r wd rd a b)
  | 4 => some (.amomin r wd rd a b)
  | 5 => some (.amoand r wd rd a b)
  | 6 => some (.amoor r wd rd a b)
  | _ => some (.amoxor r wd rd a b)

def decodeFenceReach (w : W32) : Option Instr :=
  unused (fRd w) <| unused (fRs1 w) <|
    if (w.extractLsb' 20 3 : BitVec 3) = 0 then
      (Reach.ofBits (w.extractLsb' 29 3)).map
        (fun r => .fenceReach r (w.extractLsb' 26 3) (w.extractLsb' 23 3))
    else none

/-- Tag of a copy: funct2 bit 1 above the rd field (R133). -/
def fTag (w : W32) : Tag := w.extractLsb' 26 1 ++ w.extractLsb' 7 5

def decodeCpy (w : W32) : Option Instr :=
  if (w.extractLsb' 25 1 : BitVec 1) = 0 then some (.cpy (fTag w) (fRs1 w) (fRs2 w) (fRs3 w))
  else some (.cpymc (fTag w) (fRs1 w) (fRs2 w) (fRs3 w))

def decodeCpy2d (w : W32) : Option Instr :=
  if (w.extractLsb' 25 1 : BitVec 1) = 0 then some (.cpy2d (fTag w) (fRs1 w) (fRs2 w) (fRs3 w))
  else none

def decodeBuffers (w : W32) : Option Instr :=
  let rd := fRd w; let a := fRs1 w; let b := fRs2 w
  match fF7 w with
  | 0x00 => unused rd ((reg4 a).map (fun c => .cbcfg c b))
  | 0x01 => (reg4 a).map (fun c => .cbwaitf rd c b)
  | 0x02 => (reg4 a).map (fun c => .cbwaite rd c b)
  | 0x03 => unused rd ((reg4 a).map (fun c => .cbadvp c b))
  | 0x04 => unused rd ((reg4 a).map (fun c => .cbadvc c b))
  | 0x05 => (reg4 a).map (fun c => .cbstat rd c b)
  | 0x06 => unused b (some (.tagwa rd a))
  | 0x07 => unused b (some (.tagwl rd a))
  | 0x08 => unused b (some (.tagff rd a))
  | 0x09 => unused rd (unused b (some (.tagclr a)))
  | 0x0A => unused rd (some (.bgive a b))
  | 0x0B => some (.btake rd a b)
  | 0x0C => unused b (some (.bstat rd a))
  | _ => none

def decodeRefs (w : W32) : Option Instr :=
  let rd := fRd w; let a := fRs1 w; let b := fRs2 w
  match fF7 w with
  | 0x00 => (reg4 a).map (fun q => .qld rd q b)
  | 0x01 => (reg4 a).map (fun q => .qldw rd q b)
  | 0x02 => (reg4 a).map (fun q => .qst rd q b)
  | 0x03 => (reg4 a).map (fun q => .qstw rd q b)
  | 0x04 => do let d ← reg4 rd; let q ← reg4 a; return .qldq d q b
  | 0x05 => do let q ← reg4 a; let s ← reg4 b; return .qstq rd q s
  | 0x06 => (reg4 rd).map (fun d => .qnew d a b)
  | 0x07 => unused b ((reg4 a).map (fun q => .qpin rd q))
  | 0x08 => unused rd (unused b ((reg4 a).map .qunpin))
  | 0x09 => do let q ← reg4 a; let s ← reg4 b; return .qeq rd q s
  | 0x0A => do let d ← reg4 rd; let q ← reg4 a; return .qtag d q b
  | 0x0B => unused a (unused b ((reg4 rd).map .qclr))
  | 0x0C => do let d ← reg4 rd; let q ← reg4 a; unused b (some (.qmv d q))
  | 0x0D => (reg4 a).map (fun q => .reloc rd q b)
  | _ => none

def decodeC1 (w : W32) : Option Instr :=
  match fF3 w with
  | 0 => decodeOrdered w
  | 1 => decodeAmo w
  | 2 => decodeFenceReach w
  | 3 => decodeCpy w
  | 4 => decodeBuffers w
  | 5 => decodeRefs w
  | 6 => none
  | _ => decodeCpy2d w

/-! Custom-2, vector (R135, R136). -/

def decodeElem (w : W32) : Option Instr :=
  let rd := fRd w; let a := fRs1 w; let b := fRs2 w
  let ty := ETy.ofBits (w.extractLsb' 30 2)
  match (w.extractLsb' 25 5 : BitVec 5) with
  | 0 => some (.vadd ty rd a b) | 1 => some (.vsub ty rd a b) | 2 => some (.vmul ty rd a b)
  | 3 => some (.vmax ty rd a b) | 4 => some (.vmin ty rd a b) | 5 => some (.vand ty rd a b)
  | 6 => some (.vor ty rd a b) | 7 => some (.vxor ty rd a b) | 8 => some (.vshl ty rd a b)
  | 9 => some (.vshr ty rd a b) | 10 => some (.vsra ty rd a b)
  | 11 => unused b (some (.vabs ty rd a)) | 12 => unused b (some (.vneg ty rd a))
  | 13 => unused b (some (.vexp2 ty rd a)) | 14 => unused b (some (.vlog2 ty rd a))
  | 15 => unused b (some (.vrcp ty rd a)) | 16 => unused b (some (.vrsq ty rd a))
  | 17 => unused b (some (.vmov ty rd a)) | 18 => unused b (some (.vbcast ty rd a))
  | _ => none

def decodeVFused (w : W32) : Option Instr :=
  let rd := fRd w; let a := fRs1 w; let b := fRs2 w; let c := fRs3 w
  match fF2 w with
  | 0 => some (.vfma rd a b c)
  | 1 => some (.vfms rd a b c)
  | 2 => (reg3 c).map (fun m => .vsel rd a b m)
  | _ => none

def decodeVMove (w : W32) : Option Instr :=
  let rd := fRd w; let a := fRs1 w; let b := fRs2 w
  match fF7 w with
  | 0 => unused b (some (.vredsum rd a))
  | 1 => unused b (some (.vredmax rd a))
  | 2 => unused b (some (.vredmin rd a))
  | 3 => some (.vmvx rd a b)
  | 4 => some (.vmvf rd a b)
  | 5 => some (.vins rd a b)
  | 6 => some (.vperm rd a b)
  | 7 => some (.vslide rd a b)
  | _ => none

def decodeVMask (w : W32) : Option Instr :=
  let rd := fRd w; let a := fRs1 w; let b := fRs2 w
  let mvv (k : MReg → VReg → VReg → Instr) : Option Instr := (reg3 rd).map (fun d => k d a b)
  match fF7 w with
  | 0x00 => mvv .vcmpeq
  | 0x01 => mvv .vcmpne
  | 0x02 => mvv .vcmplt
  | 0x03 => mvv .vcmple
  | 0x04 => do let d ← reg3 rd; let x ← reg3 a; let y ← reg3 b; return .mand d x y
  | 0x05 => do let d ← reg3 rd; let x ← reg3 a; let y ← reg3 b; return .mor d x y
  | 0x06 => do let d ← reg3 rd; let x ← reg3 a; unused b (some (.mnot d x))
  | 0x07 => do let x ← reg3 a; unused b (some (.mpop rd x))
  | 0x08 => some (.vldx rd a b)
  | 0x09 => some (.vstx rd a b)
  | 0x0A => some (.vlds rd a b)
  | _ => none

def decodeC2 (w : W32) : Option Instr :=
  match fF3 w with
  | 0 => decodeElem w
  | 1 => decodeVFused w
  | 2 => some (.vld (fRd w) (fRs1 w) (fImmI w))
  | 3 => some (.vst (fRs2 w) (fRs1 w) (fImmS w))
  | 4 => decodeVMove w
  | 5 => match fF7 w with
    | 0 => some (.vhad (fRd w) (fRs1 w) (fRs2 w))
    | 1 => some (.vtopk (fRd w) (fRs1 w) (fRs2 w))
    | 2 => (reg3 (fRd w)).map (fun d => .vtmask d (fRs1 w) (fRs2 w))
    | _ => none
  | 6 => unused (fRs2 w) ((Cvt.ofCode (fF7 w)).map (fun c => .vcvt c (fRd w) (fRs1 w)))
  | _ => decodeVMask w

/-! Custom-3, matrix and serving (R137, R138). -/

def decodeStrm (w : W32) : Option Instr := do
  let p ← Pair.ofCode (w.extractLsb' 9 3 ++ w.extractLsb' 25 2)
  let cb ← reg4 (fRs1 w)
  return .mxstrm p (w.extractLsb' 7 2) cb (fRs2 w) (fRs3 w)

def decodeArray (w : W32) : Option Instr :=
  let rd := fRd w; let a := fRs1 w; let b := fRs2 w
  match fF7 w with
  | 0 => unused rd ((reg4 a).map (fun c => .mxldw c b))
  | 1 => unused rd (unused a (unused b (some .mxswap)))
  | 2 => unused a (unused b ((reg2 rd).map .mxzero))
  | 3 => do let c ← reg4 rd; let s ← reg2 a; return .mxwb c s b
  | 4 => (reg2 a).map (fun s => .mxrd rd s b)
  | 5 => unused a (unused b (some (.mxwait rd)))
  | 6 => unused b ((reg2 a).map (fun s => .mxstat rd s))
  | _ => none

def decodeStream (w : W32) : Option Instr :=
  let rd := fRd w; let a := fRs1 w; let b := fRs2 w
  match fF7 w with
  | 0 => unused rd (unused b (some (.smbind a)))
  | 1 => some (.smcommit rd a b)
  | 2 => unused rd (unused b (some (.smplay a)))
  | 3 => unused b (some (.smframe rd a))
  | 4 => unused a (unused b (some (.smtrunc rd)))
  | 5 => unused rd (unused b (some (.smsnap a)))
  | 6 => unused b (some (.smstat rd a))
  | 7 => unused b (some (.smkv rd a))
  | _ => none

def decodePrefix (w : W32) : Option Instr :=
  let rd := fRd w; let a := fRs1 w; let b := fRs2 w
  match fF7 w with
  | 0 => some (.phash rd a b)
  | 1 => some (.pfxlook rd a b)
  | 2 => some (.pfxins rd a b)
  | 3 => unused rd (unused b (some (.pfxpin a)))
  | 4 => unused rd (unused b (some (.pfxunpin a)))
  | _ => none

/-- The last constructors that carry operands have numbers the Lean runtime cannot build, so this and
what rests on it run in the kernel; compiled code takes the equal functions below it. -/
noncomputable def decodeDraw (w : W32) : Option Instr :=
  let rd := fRd w; let a := fRs1 w; let b := fRs2 w
  match fF7 w with
  | 0 => some (.sdraw rd a b)
  | 1 => some (.topkmrg rd a b)
  | 2 => some (.treegen rd a b)
  | 3 => some (.daccept rd a b)
  | _ => none

/-- Custom-3, with the decoder of its fifth group given. -/
def decodeC3 (draw : W32 → Option Instr) (w : W32) : Option Instr :=
  match fF3 w with
  | 0 => decodeStrm w
  | 1 => decodeArray w
  | 2 => decodeStream w
  | 3 => decodePrefix w
  | 4 => draw w
  | _ => none

/-- The instruction a word matches by its fields, before destination limits (R122). -/
def decodeRaw (draw : W32 → Option Instr) (v : Version) (w : W32) : Option Instr :=
  match fOp w with
  | 0x37 => some (.lui (fRd w) (fImmU w))
  | 0x17 => some (.auipc (fRd w) (fImmU w))
  | 0x6F => some (.jal (fRd w) (fImmJ w))
  | 0x67 => if fF3 w = 0 then some (.jalr (fRd w) (fRs1 w) (fImmI w)) else none
  | 0x63 => decodeBranch w
  | 0x03 => decodeLoad w
  | 0x23 => decodeStore w
  | 0x13 => decodeOpImm w
  | 0x1B => decodeOpImm32 w
  | 0x33 => decodeOpR w
  | 0x3B => decodeOp32 w
  | 0x0F => if fF3 w = 0 then
      some (.fence (w.extractLsb' 28 4) (w.extractLsb' 24 4) (w.extractLsb' 20 4) (fRd w) (fRs1 w))
      else none
  | 0x73 => decodeSystem w
  | 0x07 => if fF3 w = 2 then some (.flw (fRd w) (fRs1 w) (fImmI w)) else none
  | 0x27 => if fF3 w = 2 then some (.fsw (fRs1 w) (fRs2 w) (fImmS w)) else none
  | 0x43 => decodeFused .fmaddS w
  | 0x47 => decodeFused .fmsubS w
  | 0x4B => decodeFused .fnmsubS w
  | 0x4F => decodeFused .fnmaddS w
  | 0x53 => decodeOpFp w
  | 0x0B => decodeC0 v w
  | 0x2B => decodeC1 w
  | 0x5B => decodeC2 w
  | 0x7B => decodeC3 draw w
  | _ => none

/-- The instruction of a word, within destination limits and the encoding version. -/
def decodeWith (draw : W32 → Option Instr) (v : Version) (w : W32) : Option Instr :=
  (decodeRaw draw v w).filter (fun i => i.wf && i.inVersion v)

/-- The instruction of a word under an encoding version; none is an unassigned word (R366). -/
noncomputable def decode (v : Version) (w : W32) : Option Instr := decodeWith decodeDraw v w

/-- Is a word in the fifth group of custom-3? -/
def drawWord (w : W32) : Bool := fOp w == 0x7B && fF3 w == 4
/-- The decoder without that group. -/
def decodeRest (v : Version) (w : W32) : Option Instr := decodeWith (fun _ => none) v w

/-- A word assigned in some version: such a word raises ENCODING_VERSION where it is not assigned
(R366). -/
noncomputable def assignedSomewhere (w : W32) : Bool :=
  (decode .v1 w).isSome || (decode .v2 w).isSome || (decode .v3 w).isSome

/-- The little-endian word at the front of some bytes (R1, R121). -/
def wordOfBytes : List Byte → Option (W32 × List Byte)
  | a :: b :: c :: d :: rest => some (d ++ c ++ b ++ a, rest)
  | _ => none

/-- Decode the instruction at the front of a list of bytes. -/
noncomputable def decodeBytes (v : Version) (bs : List Byte) : Option (Instr × List Byte) :=
  match wordOfBytes bs with
  | some (w, rest) => (decode v w).map (fun i => (i, rest))
  | none => none

/-- The bytes of an instruction word, lowest address first (R121). -/
def bytesOfWord (w : W32) : List Byte :=
  [w.extractLsb' 0 8, w.extractLsb' 8 8, w.extractLsb' 16 8, w.extractLsb' 24 8]

/-- The version under which a word of the opcode table is read: the latest that holds it (log 7). -/
noncomputable def tableVersion (w : W32) : Version :=
  if (decode .v3 w).isSome then .v3 else if (decode .v2 w).isSome then .v2 else .v1

/-! What compiled code runs instead, and why it is the same. -/

theorem decode_of_rest (v : Version) (w : W32) (h : drawWord w = false) : decode v w = decodeRest v w := by
  have h' : fOp w = 0x7B → fF3 w ≠ 4 := by
    intro h1 h2; simp [drawWord, h1, h2] at h
  unfold decode decodeRest decodeWith
  congr 1
  unfold decodeRaw
  split <;> try rfl
  rename_i h1
  unfold decodeC3
  split <;> try rfl
  rename_i h2
  exact absurd h2 (h' h1)

theorem decode_of_draw (v : Version) (w : W32) (h : drawWord w = true) :
    decode v w = (decodeDraw w).filter (fun i => i.wf && i.inVersion v) := by
  simp only [drawWord, Bool.and_eq_true, beq_iff_eq] at h
  unfold decode decodeWith decodeRaw
  rw [h.1]
  unfold decodeC3
  rw [h.2]
  rfl

/-- Is a word assigned, without building its term? -/
def assignedIn (v : Version) (w : W32) : Bool :=
  if drawWord w then
    match fF7 w with
    | 0 => true | 1 => true | 2 => v == .v3 | 3 => v == .v3 | _ => false
  else (decodeRest v w).isSome

theorem assignedIn_eq (v : Version) (w : W32) : assignedIn v w = (decode v w).isSome := by
  unfold assignedIn
  split
  · rename_i h
    rw [decode_of_draw v w h]
    unfold decodeDraw
    dsimp only
    split <;> (cases v <;> rfl)
  · rename_i h
    rw [decode_of_rest v w (by simpa using h)]

/-- `assignedSomewhere` for compiled code. -/
def assignedSomewhereC (w : W32) : Bool := assignedIn .v1 w || assignedIn .v2 w || assignedIn .v3 w
/-- `tableVersion` for compiled code. -/
def tableVersionC (w : W32) : Version :=
  if assignedIn .v3 w then .v3 else if assignedIn .v2 w then .v2 else .v1

@[csimp] theorem assignedSomewhere_eq : assignedSomewhere = assignedSomewhereC := by
  funext w; simp [assignedSomewhere, assignedSomewhereC, assignedIn_eq]
@[csimp] theorem tableVersion_eq : tableVersion = tableVersionC := by
  funext w; simp [tableVersion, tableVersionC, assignedIn_eq]

/-- The instruction the decoder reads from the bits of a row of the opcode table. -/
noncomputable def decodeTableWord (nbits w : Nat) : Option Instr :=
  if nbits ≤ 32 ∧ w < 2 ^ 32 then
    (decodeBytes (tableVersion (BitVec.ofNat 32 w)) (bytesOfWord (BitVec.ofNat 32 w))).map (·.1)
  else none

/-! The encoder, from the same tables. -/

/-- The 32-bit word of a well-formed instruction; an event has none and gives 0. -/
def encode : Instr → W32
  | .lui d i => mkU i d 0x37
  | .auipc d i => mkU i d 0x17
  | .jal d i => mkJ i d 0x6F
  | .jalr d a i => mkI i a 0 d 0x67
  | .beq a b i => mkB i b a 0 0x63
  | .bne a b i => mkB i b a 1 0x63
  | .blt a b i => mkB i b a 4 0x63
  | .bge a b i => mkB i b a 5 0x63
  | .bltu a b i => mkB i b a 6 0x63
  | .bgeu a b i => mkB i b a 7 0x63
  | .lb d a i => mkI i a 0 d 0x03
  | .lh d a i => mkI i a 1 d 0x03
  | .lw d a i => mkI i a 2 d 0x03
  | .ld d a i => mkI i a 3 d 0x03
  | .lbu d a i => mkI i a 4 d 0x03
  | .lhu d a i => mkI i a 5 d 0x03
  | .lwu d a i => mkI i a 6 d 0x03
  | .sb a b i => mkS i b a 0 0x23
  | .sh a b i => mkS i b a 1 0x23
  | .sw a b i => mkS i b a 2 0x23
  | .sd a b i => mkS i b a 3 0x23
  | .addi d a i => mkI i a 0 d 0x13
  | .slti d a i => mkI i a 2 d 0x13
  | .sltiu d a i => mkI i a 3 d 0x13
  | .xori d a i => mkI i a 4 d 0x13
  | .ori d a i => mkI i a 6 d 0x13
  | .andi d a i => mkI i a 7 d 0x13
  | .slli d a s => mkI (0#6 ++ s) a 1 d 0x13
  | .srli d a s => mkI (0#6 ++ s) a 5 d 0x13
  | .srai d a s => mkI (0x10#6 ++ s) a 5 d 0x13
  | .addiw d a i => mkI i a 0 d 0x1B
  | .slliw d a s => mkR 0 s a 1 d 0x1B
  | .srliw d a s => mkR 0 s a 5 d 0x1B
  | .sraiw d a s => mkR 0x20 s a 5 d 0x1B
  | .add d a b => mkR 0 b a 0 d 0x33
  | .sub d a b => mkR 32 b a 0 d 0x33
  | .sll d a b => mkR 0 b a 1 d 0x33
  | .slt d a b => mkR 0 b a 2 d 0x33
  | .sltu d a b => mkR 0 b a 3 d 0x33
  | .xor d a b => mkR 0 b a 4 d 0x33
  | .srl d a b => mkR 0 b a 5 d 0x33
  | .sra d a b => mkR 32 b a 5 d 0x33
  | .or d a b => mkR 0 b a 6 d 0x33
  | .and d a b => mkR 0 b a 7 d 0x33
  | .mul d a b => mkR 1 b a 0 d 0x33
  | .mulh d a b => mkR 1 b a 1 d 0x33
  | .mulhsu d a b => mkR 1 b a 2 d 0x33
  | .mulhu d a b => mkR 1 b a 3 d 0x33
  | .div d a b => mkR 1 b a 4 d 0x33
  | .divu d a b => mkR 1 b a 5 d 0x33
  | .rem d a b => mkR 1 b a 6 d 0x33
  | .remu d a b => mkR 1 b a 7 d 0x33
  | .addw d a b => mkR 0 b a 0 d 0x3B
  | .subw d a b => mkR 32 b a 0 d 0x3B
  | .sllw d a b => mkR 0 b a 1 d 0x3B
  | .srlw d a b => mkR 0 b a 5 d 0x3B
  | .sraw d a b => mkR 32 b a 5 d 0x3B
  | .mulw d a b => mkR 1 b a 0 d 0x3B
  | .divw d a b => mkR 1 b a 4 d 0x3B
  | .divuw d a b => mkR 1 b a 5 d 0x3B
  | .remw d a b => mkR 1 b a 6 d 0x3B
  | .remuw d a b => mkR 1 b a 7 d 0x3B
  | .fence fm p s d a => mkI (fm ++ p ++ s) a 0 d 0x0F
  | .ecall => mkI 0 0 0 0 0x73
  | .ebreak => mkI 1 0 0 0 0x73
  | .mret => mkI 0x302 0 0 0 0x73
  | .wfi => mkI 0x105 0 0 0 0x73
  | .csrrw d a c => mkI c a 1 d 0x73
  | .csrrs d a c => mkI c a 2 d 0x73
  | .csrrc d a c => mkI c a 3 d 0x73
  | .csrrwi d a c => mkI c a 5 d 0x73
  | .csrrsi d a c => mkI c a 6 d 0x73
  | .csrrci d a c => mkI c a 7 d 0x73
  | .flw d a i => mkI i a 2 d 0x07
  | .fsw a b i => mkS i b a 2 0x27
  | .fmaddS d a b c rm => mkR4 c 0 b a rm.bits d 0x43
  | .fmsubS d a b c rm => mkR4 c 0 b a rm.bits d 0x47
  | .fnmsubS d a b c rm => mkR4 c 0 b a rm.bits d 0x4B
  | .fnmaddS d a b c rm => mkR4 c 0 b a rm.bits d 0x4F
  | .faddS d a b rm => mkR 0x0 b a rm.bits d 0x53
  | .fsubS d a b rm => mkR 0x4 b a rm.bits d 0x53
  | .fmulS d a b rm => mkR 0x8 b a rm.bits d 0x53
  | .fdivS d a b rm => mkR 0xc b a rm.bits d 0x53
  | .fsqrtS d a rm => mkR 0x2C 0 a rm.bits d 0x53
  | .fsgnjS d a b => mkR 0x10 b a 0 d 0x53
  | .fsgnjnS d a b => mkR 0x10 b a 1 d 0x53
  | .fsgnjxS d a b => mkR 0x10 b a 2 d 0x53
  | .fminS d a b => mkR 0x14 b a 0 d 0x53
  | .fmaxS d a b => mkR 0x14 b a 1 d 0x53
  | .feqS d a b => mkR 0x50 b a 2 d 0x53
  | .fltS d a b => mkR 0x50 b a 1 d 0x53
  | .fleS d a b => mkR 0x50 b a 0 d 0x53
  | .fclassS d a => mkR 0x70 0 a 1 d 0x53
  | .fmvXW d a => mkR 0x70 0 a 0 d 0x53
  | .fmvWX d a => mkR 0x78 0 a 0 d 0x53
  | .fcvtWS d a rm => mkR 0x60 0 a rm.bits d 0x53
  | .fcvtWuS d a rm => mkR 0x60 1 a rm.bits d 0x53
  | .fcvtLS d a rm => mkR 0x60 2 a rm.bits d 0x53
  | .fcvtLuS d a rm => mkR 0x60 3 a rm.bits d 0x53
  | .fcvtSW d a rm => mkR 0x68 0 a rm.bits d 0x53
  | .fcvtSWu d a rm => mkR 0x68 1 a rm.bits d 0x53
  | .fcvtSL d a rm => mkR 0x68 2 a rm.bits d 0x53
  | .fcvtSLu d a rm => mkR 0x68 3 a rm.bits d 0x53
  | .sopen d a => mkR 0 0 (wide3 a) 0 (wide3 d) 0x0B
  | .sclose d a => mkR 1 0 (wide3 a) 0 d 0x0B
  | .sclosea a => mkR 2 0 (wide3 a) 0 0 0x0B
  | .scloseaV2 a => mkR 0x0A 0 (wide3 a) 0 0 0x0B
  | .senter d a => mkR 3 0 a 0 (wide3 d) 0x0B
  | .senterV2 d a => mkR 0x0B 0 a 0 (wide3 d) 0x0B
  | .scancel a => mkR 4 0 (wide3 a) 0 0 0x0B
  | .scancelV1V2 a => mkR 2 0 (wide3 a) 0 0 0x0B
  | .succeed d => mkR 5 0 0 0 d 0x0B
  | .succeedV1V2 d => mkR 3 0 0 0 d 0x0B
  | .shield => mkR 6 0 0 0 0 0x0B
  | .shieldV1V2 => mkR 4 0 0 0 0 0x0B
  | .unshield => mkR 7 0 0 0 0 0x0B
  | .unshieldV1V2 => mkR 5 0 0 0 0 0x0B
  | .chkc => mkR 8 0 0 0 0 0x0B
  | .chkcV1V2 => mkR 6 0 0 0 0 0x0B
  | .sstat d a => mkR 9 0 (wide3 a) 0 d 0x0B
  | .sstatV1V2 d a => mkR 7 0 (wide3 a) 0 d 0x0B
  | .exit => mkR 0x0A 0 0 0 0 0x0B
  | .exitV1V2 => mkR 8 0 0 0 0 0x0B
  | .yield => mkR 0x0B 0 0 0 0 0x0B
  | .yieldV1V2 => mkR 9 0 0 0 0 0x0B
  | .spawn d a b c => mkR4 c 0 b a 7 d 0x0B
  | .spawnIn d a b c => mkR4 c 1 b a 7 (wide3 d) 0x0B
  | .tsknew d a b => mkR 0 b a 1 d 0x0B
  | .tskpub a => mkR 1 0 a 1 0 0x0B
  | .tsksig a => mkR 2 0 a 1 0 0x0B
  | .tskstat d a => mkR 3 0 a 1 d 0x0B
  | .rnginit d a b => mkR 4 b a 1 d 0x0B
  | .rclaim d => mkR 5 0 0 1 d 0x0B
  | .rsteal d a => mkR 6 0 a 1 d 0x0B
  | .msend a b => mkR 0 b a 2 0 0x0B
  | .msend4 a b => mkR 1 b a 2 0 0x0B
  | .mrecv d a => mkR 2 0 a 2 d 0x0B
  | .mrecv4 d a => mkR 3 0 a 2 d 0x0B
  | .mpeek d a => mkR 4 0 a 2 d 0x0B
  | .bar d a => mkR 5 0 a 2 d 0x0B
  | .waiteq d a b => mkR 0 b a 3 d 0x0B
  | .waitne d a b => mkR 1 b a 3 d 0x0B
  | .waitge d a b => mkR 2 b a 3 d 0x0B
  | .void d => mkR 3 0 0 3 d 0x0B
  | .vtest d a => mkR 4 0 a 3 d 0x0B
  | .bvoid a i => mkB i 0 a 4 0x0B
  | .bnvoid a i => mkB i 0 a 5 0x0B
  | .jtab a b i => mkS i b a 6 0x0B
  | .lda r z d a => mkR (r.bits ++ z.bits ++ 0#2) 0 a 0 d 0x2B
  | .stl r z a b => mkR (r.bits ++ z.bits ++ 1#2) b a 0 0 0x2B
  | .lds z d a => mkR (0#3 ++ z.bits ++ 2#2) 0 a 0 d 0x2B
  | .mcst z a b => mkR (0#3 ++ z.bits ++ 3#2) b a 0 0 0x2B
  | .amoadd r z d a b => mkR (r.bits ++ z.bit ++ 0#3) b a 1 d 0x2B
  | .amoswp r z d a b => mkR (r.bits ++ z.bit ++ 1#3) b a 1 d 0x2B
  | .amocas r z d a b => mkR (r.bits ++ z.bit ++ 2#3) b a 1 d 0x2B
  | .amomax r z d a b => mkR (r.bits ++ z.bit ++ 3#3) b a 1 d 0x2B
  | .amomin r z d a b => mkR (r.bits ++ z.bit ++ 4#3) b a 1 d 0x2B
  | .amoand r z d a b => mkR (r.bits ++ z.bit ++ 5#3) b a 1 d 0x2B
  | .amoor r z d a b => mkR (r.bits ++ z.bit ++ 6#3) b a 1 d 0x2B
  | .amoxor r z d a b => mkR (r.bits ++ z.bit ++ 7#3) b a 1 d 0x2B
  | .fenceReach r p s => mkI (r.bits ++ p ++ s ++ 0#3) 0 2 0 0x2B
  | .cpy t a b c => mkR4 c (t.extractLsb' 5 1 ++ 0#1) b a 3 (t.extractLsb' 0 5) 0x2B
  | .cpymc t a b c => mkR4 c (t.extractLsb' 5 1 ++ 1#1) b a 3 (t.extractLsb' 0 5) 0x2B
  | .cpy2d t a b c => mkR4 c (t.extractLsb' 5 1 ++ 0#1) b a 7 (t.extractLsb' 0 5) 0x2B
  | .cbcfg c b => mkR 0 b (wide4 c) 4 0 0x2B
  | .cbwaitf d c b => mkR 1 b (wide4 c) 4 d 0x2B
  | .cbwaite d c b => mkR 2 b (wide4 c) 4 d 0x2B
  | .cbadvp c b => mkR 3 b (wide4 c) 4 0 0x2B
  | .cbadvc c b => mkR 4 b (wide4 c) 4 0 0x2B
  | .cbstat d c b => mkR 5 b (wide4 c) 4 d 0x2B
  | .tagwa d a => mkR 6 0 a 4 d 0x2B
  | .tagwl d a => mkR 7 0 a 4 d 0x2B
  | .tagff d a => mkR 8 0 a 4 d 0x2B
  | .tagclr a => mkR 9 0 a 4 0 0x2B
  | .bgive a b => mkR 0x0A b a 4 0 0x2B
  | .btake d a b => mkR 0x0B b a 4 d 0x2B
  | .bstat d a => mkR 0x0C 0 a 4 d 0x2B
  | .qld d q b => mkR 0 b (wide4 q) 5 d 0x2B
  | .qldw d q b => mkR 1 b (wide4 q) 5 d 0x2B
  | .qst d q b => mkR 2 b (wide4 q) 5 d 0x2B
  | .qstw d q b => mkR 3 b (wide4 q) 5 d 0x2B
  | .qldq d q b => mkR 4 b (wide4 q) 5 (wide4 d) 0x2B
  | .qstq d q b => mkR 5 (wide4 b) (wide4 q) 5 d 0x2B
  | .qnew d a b => mkR 6 b a 5 (wide4 d) 0x2B
  | .qpin d q => mkR 7 0 (wide4 q) 5 d 0x2B
  | .qunpin q => mkR 8 0 (wide4 q) 5 0 0x2B
  | .qeq d q b => mkR 9 (wide4 b) (wide4 q) 5 d 0x2B
  | .qtag d q b => mkR 0x0A b (wide4 q) 5 (wide4 d) 0x2B
  | .qclr d => mkR 0x0B 0 0 5 (wide4 d) 0x2B
  | .qmv d q => mkR 0x0C 0 (wide4 q) 5 (wide4 d) 0x2B
  | .reloc d q b => mkR 0x0D b (wide4 q) 5 d 0x2B
  | .vadd ty d a b => mkR (ty.bits ++ 0#5) b a 0 d 0x5B
  | .vsub ty d a b => mkR (ty.bits ++ 1#5) b a 0 d 0x5B
  | .vmul ty d a b => mkR (ty.bits ++ 2#5) b a 0 d 0x5B
  | .vmax ty d a b => mkR (ty.bits ++ 3#5) b a 0 d 0x5B
  | .vmin ty d a b => mkR (ty.bits ++ 4#5) b a 0 d 0x5B
  | .vand ty d a b => mkR (ty.bits ++ 5#5) b a 0 d 0x5B
  | .vor ty d a b => mkR (ty.bits ++ 6#5) b a 0 d 0x5B
  | .vxor ty d a b => mkR (ty.bits ++ 7#5) b a 0 d 0x5B
  | .vshl ty d a b => mkR (ty.bits ++ 8#5) b a 0 d 0x5B
  | .vshr ty d a b => mkR (ty.bits ++ 9#5) b a 0 d 0x5B
  | .vsra ty d a b => mkR (ty.bits ++ 10#5) b a 0 d 0x5B
  | .vabs ty d a => mkR (ty.bits ++ 11#5) 0 a 0 d 0x5B
  | .vneg ty d a => mkR (ty.bits ++ 12#5) 0 a 0 d 0x5B
  | .vexp2 ty d a => mkR (ty.bits ++ 13#5) 0 a 0 d 0x5B
  | .vlog2 ty d a => mkR (ty.bits ++ 14#5) 0 a 0 d 0x5B
  | .vrcp ty d a => mkR (ty.bits ++ 15#5) 0 a 0 d 0x5B
  | .vrsq ty d a => mkR (ty.bits ++ 16#5) 0 a 0 d 0x5B
  | .vmov ty d a => mkR (ty.bits ++ 17#5) 0 a 0 d 0x5B
  | .vbcast ty d a => mkR (ty.bits ++ 18#5) 0 a 0 d 0x5B
  | .vfma d a b c => mkR4 c 0 b a 1 d 0x5B
  | .vfms d a b c => mkR4 c 1 b a 1 d 0x5B
  | .vsel d a b m => mkR4 (wide3 m) 2 b a 1 d 0x5B
  | .vld d a i => mkI i a 2 d 0x5B
  | .vst b a i => mkS i b a 3 0x5B
  | .vredsum d a => mkR 0 0 a 4 d 0x5B
  | .vredmax d a => mkR 1 0 a 4 d 0x5B
  | .vredmin d a => mkR 2 0 a 4 d 0x5B
  | .vmvx d a b => mkR 3 b a 4 d 0x5B
  | .vmvf d a b => mkR 4 b a 4 d 0x5B
  | .vins d a b => mkR 5 b a 4 d 0x5B
  | .vperm d a b => mkR 6 b a 4 d 0x5B
  | .vslide d a b => mkR 7 b a 4 d 0x5B
  | .vhad d a b => mkR 0 b a 5 d 0x5B
  | .vtopk d a b => mkR 1 b a 5 d 0x5B
  | .vtmask d a b => mkR 2 b a 5 (wide3 d) 0x5B
  | .vcvt c d a => mkR c.code 0 a 6 d 0x5B
  | .vcmpeq d a b => mkR 0 b a 7 (wide3 d) 0x5B
  | .vcmpne d a b => mkR 1 b a 7 (wide3 d) 0x5B
  | .vcmplt d a b => mkR 2 b a 7 (wide3 d) 0x5B
  | .vcmple d a b => mkR 3 b a 7 (wide3 d) 0x5B
  | .mand d a b => mkR 4 (wide3 b) (wide3 a) 7 (wide3 d) 0x5B
  | .mor d a b => mkR 5 (wide3 b) (wide3 a) 7 (wide3 d) 0x5B
  | .mnot d a => mkR 6 0 (wide3 a) 7 (wide3 d) 0x5B
  | .mpop d a => mkR 7 0 (wide3 a) 7 d 0x5B
  | .vldx d a b => mkR 8 b a 7 d 0x5B
  | .vstx d a b => mkR 9 b a 7 d 0x5B
  | .vlds d a b => mkR 10 b a 7 d 0x5B
  | .mxstrm p acc c b f => mkR4 f (p.code.extractLsb' 0 2) b (wide4 c) 0 (p.code.extractLsb' 2 3 ++ acc) 0x7B
  | .mxldw c b => mkR 0 b (wide4 c) 1 0 0x7B
  | .mxswap => mkR 1 0 0 1 0 0x7B
  | .mxzero s => mkR 2 0 0 1 (wide2 s) 0x7B
  | .mxwb c s b => mkR 3 b (wide2 s) 1 (wide4 c) 0x7B
  | .mxrd d s b => mkR 4 b (wide2 s) 1 d 0x7B
  | .mxwait d => mkR 5 0 0 1 d 0x7B
  | .mxstat d s => mkR 6 0 (wide2 s) 1 d 0x7B
  | .smbind a => mkR 0 0 a 2 0 0x7B
  | .smcommit d a b => mkR 1 b a 2 d 0x7B
  | .smplay a => mkR 2 0 a 2 0 0x7B
  | .smframe d a => mkR 3 0 a 2 d 0x7B
  | .smtrunc d => mkR 4 0 0 2 d 0x7B
  | .smsnap a => mkR 5 0 a 2 0 0x7B
  | .smstat d a => mkR 6 0 a 2 d 0x7B
  | .smkv d a => mkR 7 0 a 2 d 0x7B
  | .phash d a b => mkR 0 b a 3 d 0x7B
  | .pfxlook d a b => mkR 1 b a 3 d 0x7B
  | .pfxins d a b => mkR 2 b a 3 d 0x7B
  | .pfxpin a => mkR 3 0 a 3 0 0x7B
  | .pfxunpin a => mkR 4 0 a 3 0 0x7B
  | .sdraw d a b => mkR 0 b a 4 d 0x7B
  | .topkmrg d a b => mkR 1 b a 4 d 0x7B
  | .treegen d a b => mkR 2 b a 4 d 0x7B
  | .daccept d a b => mkR 3 b a 4 d 0x7B
  | _ => 0

end Sys2Proof
end

