-- ==== Sys2Proof/Machine/Mem.lean ====
section
/-! DEFINITION. The bytes of every memory as one sorted list of cells.  An address that is not listed
reads 0 (log 3); a cell that would hold 0 is not listed, so equal memories are equal lists. -/

namespace Sys2Proof.Machine

abbrev Memory := List Host.Cell

/-- What an unlisted address reads as (log 3). -/
def Memory.unlisted : Byte := 0

/-- The canonical form: addresses strictly rising, and no cell equal to what it would read unlisted. -/
def Memory.wf : Memory → Bool
  | [] => true
  | [c] => c.2 != Memory.unlisted
  | c :: d :: m => c.2 != Memory.unlisted && decide (c.1 < d.1) && Memory.wf (d :: m)

/-- One byte. -/
def Memory.read : Memory → Nat → Byte
  | [], _ => Memory.unlisted
  | c :: m, a => if c.1 = a then c.2 else if a < c.1 then Memory.unlisted else Memory.read m a

/-- The cells of a run of bytes: those that are not what they would read unlisted. -/
def Memory.cells : Nat → List Byte → Memory
  | _, [] => []
  | a, b :: bs =>
    if b = Memory.unlisted then Memory.cells (a + 1) bs else (a, b) :: Memory.cells (a + 1) bs

/-- The cells below an address. -/
def Memory.below (m : Memory) (a : Nat) : Memory := m.takeWhile (fun c => decide (c.1 < a))

/-- The cells at or above an address. -/
def Memory.from_ (m : Memory) (a : Nat) : Memory := m.dropWhile (fun c => decide (c.1 < a))

/-- Write a run of bytes, in one pass. -/
def Memory.write (m : Memory) (a : Nat) (bs : List Byte) : Memory :=
  m.below a ++ (Memory.cells a bs ++ m.from_ (a + bs.length))

/-- `n` bytes from `a` out of cells that all lie at or above `a`. -/
def Memory.run : Memory → Nat → Nat → List Byte
  | _, _, 0 => []
  | [], a, n + 1 => Memory.unlisted :: Memory.run [] (a + 1) n
  | c :: m, a, n + 1 =>
    if c.1 = a then c.2 :: Memory.run m (a + 1) n
    else Memory.unlisted :: Memory.run (c :: m) (a + 1) n

/-- `n` bytes from `a`, in one pass. -/
def Memory.reads (m : Memory) (a n : Nat) : List Byte := Memory.run (m.from_ a) a n

/-- The little-endian number of some bytes (R1). -/
def leNat : List Byte → Nat
  | [] => 0
  | b :: bs => b.toNat + 256 * leNat bs

/-- The `n` little-endian bytes of a number (R1). -/
def leBytes : Nat → Nat → List Byte
  | 0, _ => []
  | n + 1, v => BitVec.ofNat 8 v :: leBytes n (v / 256)

/-! Locations: device memory stands at its physical address; the other memories above it. -/

def locSram : Nat := 0x1000000000000
def locSp : Nat := 0x2000000000000
def locTl : Nat := 0x4000000000000
def locHost : Nat := 0x100000000000000

/-- Location of a scratchpad offset of cluster 16d + c. -/
def spLoc (cl off : Nat) : Nat := locSp + cl * 0x400000 + off
/-- Location of a tile-local address of tile 256d + 16c + t. -/
def tlLoc (l a : Nat) : Nat := locTl + l * 0x80000 + a

/-- 64-byte units of a range (R388). -/
def unitsOf (a n : Nat) : List Nat :=
  if n = 0 then [] else (List.range ((a + n - 1) / 64 - a / 64 + 1)).map (fun i => a / 64 + i)

/-- Units that a range covers whole. -/
def wholeUnits (a n : Nat) : List Nat :=
  (unitsOf a n).filter (fun u => decide (a ≤ 64 * u ∧ 64 * u + 64 ≤ a + n))

/-- The lowest address in [a, a + n) that lies in a unit for which `bad` holds. -/
def firstBad (bad : Nat → Bool) (a n : Nat) : Option Nat :=
  ((unitsOf a n).find? bad).map (fun u => max a (64 * u))

namespace State

/-- `n` bytes at a location. -/
def bytesAt (s : State) (a n : Nat) : List Byte := Memory.reads s.mem a n
/-- A processor write: the bytes change, poison stays (R388). -/
def putBytes (s : State) (a : Nat) (bs : List Byte) : State := { s with mem := Memory.write s.mem a bs }
/-- An engine write: whole units lose their poison (R388). -/
def putClean (s : State) (a : Nat) (bs : List Byte) : State :=
  { s with mem := Memory.write s.mem a bs
           poison := s.poison.filter (fun u => !(wholeUnits a bs.length).contains u) }
/-- A little-endian number at a location. -/
def numAt (s : State) (a n : Nat) : Nat := leNat (s.bytesAt a n)
/-- Write a little-endian number. -/
def putNum (s : State) (a n v : Nat) : State := s.putBytes a (leBytes n v)
/-- Mark units poisoned. -/
def addPoison (s : State) (us : List Nat) : State :=
  { s with poison := us.foldl (fun p u => if p.contains u then p else u :: p) s.poison }
/-- Is a unit poisoned (R388), or in the range of a channel mapped out (R414)? -/
def badUnit (s : State) (u : Nat) : Bool :=
  s.poison.contains u || s.hbmLost.any (fun r => decide (r.1 < 64 * u + 64 ∧ 64 * u < r.1 + r.2))
/-- The lowest address of a range of locations whose reading meets poison. -/
def poisonIn (s : State) (a n : Nat) : Option Nat := firstBad s.badUnit a n

end State
end Sys2Proof.Machine
end

