-- ==== Sys2Proof/Machine/Ops.lean ====
section
/-! DEFINITION. Named operations on the device: reading and writing its records and registers,
the links between dies (R9, R13), births and returns of weight (R30, R31), cancellation (R34, R35), ending
a thread (R178), placing one (R180), and taking a fault: delivery, scope fault, map-out (R360, R364, R413). -/

namespace Sys2Proof.Machine

abbrev Out := Host.Outcome State Fault Refusal

/-! ### Words -/

/-- The number of a bit as a word. -/
def bit01 (b : Bool) : Word := if b then 1 else 0
/-- A word from a number. -/
def wOf (n : Nat) : Word := BitVec.ofNat 64 n
/-- bits(v, hi, lo) of R164. -/
def fld (v : Word) (hi lo : Nat) : Nat := (v.toNat >>> lo) % 2 ^ (hi + 1 - lo)
/-- sext(v, n) of R164 to 64 bits, from a number of n bits. -/
def sextN (n v : Nat) : Word := (BitVec.ofNat n v).signExtend 64
/-- Two's complement value of the low n bits of a number. -/
def sint (n v : Nat) : Int := (BitVec.ofNat n v).toInt

/-- The Kiln's standby replays a decision against its own copy of the scheduler state (R339). -/
def Sched.replay (r : Sched) : Decision → Sched
  | .take q i => { r with ridx := tset r.ridx q (i + 1) }
  | .place q id => { r with placed := r.placed ++ [(q, id)] }
  | .prio q p => { r with prio := tset r.prio q p }
  | .complete q id => { r with cwidx := tset r.cwidx q ((tfind r.cwidx q).getD 0 + 1)
                               placed := r.placed.filter (· != (q, id)) }
  | .token f n v => { r with tokens := tset r.tokens (256 * f + n) v }
  | .fire k => { r with fired := k :: r.fired.filter (· != k) }
  | .failed q => { r with cwidx := tset r.cwidx q ((tfind r.cwidx q).getD 0 + 1) }
  | .enable q => { r with ridx := tset r.ridx q 0, cwidx := tset r.cwidx q 0 }
  | .wipe f toks => { r with
      ridx := r.ridx.filter (fun p => p.1 / 16 != f), cwidx := r.cwidx.filter (fun p => p.1 / 16 != f)
      prio := r.prio.filter (fun p => p.1 / 16 != f)
      tokens := if toks then r.tokens.filter (fun p => p.1 / 256 != f) else r.tokens
      placed := r.placed.filter (fun p => p.1 / 16 != f) }
  | .silence f => { r with placed := r.placed.filter (fun p => f != 0 && p.1 / 16 != f) }

namespace State

/-! ### Records with defaults -/

def thread? (s : State) (t : Nat) : Option Thread := tfind s.threads t
def setTh (s : State) (t : Nat) (th : Thread) : State := { s with threads := tset s.threads t th }
def tile (s : State) (l : Nat) : Tile := (tfind s.tiles l).getD Tile.idle
def setTile (s : State) (l : Nat) (x : Tile) : State := { s with tiles := tset s.tiles l x }
def cluster (s : State) (c : Nat) : Cluster := (tfind s.clusters c).getD Cluster.idle
def setCluster (s : State) (c : Nat) (x : Cluster) : State := { s with clusters := tset s.clusters c x }
def die (s : State) (d : Nat) : Die := (tfind s.dies d).getD (Die.boot (dieTop d) 0)
def setDie (s : State) (d : Nat) (x : Die) : State := { s with dies := tset s.dies d x }
def func (s : State) (f : Nat) : Func := (tfind s.funcs f).getD Func.idle
def setFunc (s : State) (f : Nat) (x : Func) : State := { s with funcs := tset s.funcs f x }
def queue (s : State) (q : Nat) : Queue := (tfind s.queues q).getD Queue.idle
def setQueue (s : State) (q : Nat) (x : Queue) : State := { s with queues := tset s.queues q x }
/-- A decision goes into the journal, and to the standby where there is one, which replays it against its own
copy of the scheduler state (R339). -/
def journalAdd (s : State) (d : Decision) : State :=
  { s with journal := (d :: s.journal).take Config.journalDepth
           replica := if s.standby then (d :: s.replica).take Config.journalDepth else s.replica
           shadow := if s.standby then s.shadow.replay d else s.shadow }

/-- The scheduler state as the Kiln that serves has it (R339): what a standby that is loaded anew copies (R410). -/
def sched (s : State) : Sched where
  ridx := s.queues.map (fun p => (p.1, p.2.ridx))
  cwidx := s.queues.map (fun p => (p.1, p.2.cwidx))
  prio := s.queues.map (fun p => (p.1, p.2.prio))
  tokens := s.funcs.flatMap (fun p => p.2.tokens.map (fun k => (256 * p.1 + k.1, k.2)))
  placed := (s.cmds.filter (fun p => p.2.root != 0 && !p.2.silent)).map (fun p => (p.2.queue, p.1))
  fired := (s.thresholds.filter (fun p => !p.2.armed)).map (·.1)

/-- Post an output. -/
def send (s : State) (m : Sent) : State := { s with sent := m :: s.sent }

/-- Is tile l in service (R21)? -/
def inService (s : State) (l : Nat) : Bool := decide (l < 1024) && s.booted && !(s.tile l).outOfService
/-- Tiles in service (R335). -/
def tilesIn (s : State) : Nat := ((List.range 1024).filter s.inService).length
/-- Lanes of a port in service (R415). -/
def portLanes (s : State) (p : Nat) : Nat := (tfind s.lanes p).getD 8
/-- Fabric lanes in service (R335). -/
def lanesIn (s : State) : Nat := ((List.range 18).map s.portLanes).sum

end State

/-! ### Numbers of units -/

def tileDie (l : Nat) : Nat := l / 256
def tileCluster (l : Nat) : Nat := l / 16
def tileT (l : Nat) : Nat := l % 16
/-- Tiles of cluster 16d + c, ascending t. -/
def clusterTiles (cl : Nat) : List Nat := (List.range 16).map (fun t => 16 * cl + t)

/-! ### Links (R9, R13) -/

/-- A die's range of physical addresses (R58). -/
def dieRange : Nat := 0x3000000000
/-- The die that holds a fabric port: ports 0 to 5 on D1, 6 to 11 on D2, 12 to 17 on D3 (R9). -/
def portDie (p : Nat) : Nat := 1 + p / 6
/-- The die a location stands on: of device memory by its address, of die-shared SRAM 64 MiB a die (R49),
of a scratchpad and of tile-local memory by their tile; host memory stands on none. -/
def homeDie (x : Nat) : Option Nat :=
  if x < locSram then some (x / dieRange)
  else if x < locSp then some ((x - locSram) / 0x4000000)
  else if x < locTl then some ((x - locSp) / 0x400000 / 16)
  else if x < locHost then some ((x - locTl) / 0x80000 / 256)
  else none
/-- The die that holds a scope's record (R9, R26). -/
def scopeDie (sid : Nat) : Nat := sid / 0x40000000

namespace State

/-- The clock-crossing FIFOs of a die stall after a frequency step (R13). -/
def stalledDie (s : State) (d : Nat) : Bool := decide (s.time < (s.die d).stallUntil)
/-- Does traffic pass between two dies: on one die, or over a direct link of which neither end stalls (R13)? -/
def linkOpen (s : State) (a b : Nat) : Bool := a == b || (!s.stalledDie a && !s.stalledDie b)
/-- Does traffic pass between a die and the host, over the port on D0 (R9, R13)? -/
def hostLink (s : State) (d : Nat) : Bool := !s.stalledDie 0 && s.linkOpen d 0
/-- Does traffic pass between a die and a location? -/
def homeOpen (s : State) (d x : Nat) : Bool :=
  match homeDie x with
  | some h => s.linkOpen d h
  | none => s.hostLink d
/-- Does traffic pass between a die and the fabric?  It uses a port that works, on a die whose FIFOs do not
stall, over the direct link to that die (R9, R13); which port is the model's choice (log 47).  With no port
working there is no FIFO to wait for, and the operation times out (R415). -/
def fabricOpen (s : State) (d : Nat) : Bool :=
  let ports := (List.range 18).filter (fun p => decide (0 < s.portLanes p))
  ports.isEmpty || ports.any (fun p => !s.stalledDie (portDie p) && s.linkOpen d (portDie p))
/-- Does a flit enter the device over some port (R13, R415)? -/
def portOpen (s : State) : Bool :=
  (List.range 18).any (fun p => decide (0 < s.portLanes p) && !s.stalledDie (portDie p))

/-- What a post does when it reaches D0: a vector is signalled, vector 0 of function 0 for a device event (R409), and a
session's for a halt event (R420); a debug response enters its mailbox (R418). -/
def deliver (s : State) : Post → State
  | .msix f v => s.send (.msix f v)
  | .event b => { s with devEvents := s.devEvents ||| BitVec.ofNat 8 (2 ^ b) }.send (.msix 0 0)
  | .halted f tid why => match (s.func f).session with
    | some ss => (s.setFunc f { s.func f with session := some { ss with events := ss.events ++ [(tid, why)] } }).send
        (.msix f ss.vector)
    | none => s
  | .answer f ws => s.setFunc f { s.func f with dbgOut := (s.func f).dbgOut ++ ws }
/-- Send a post from a die to the host port on D0: while a clock step stalls the link to D0 or the port, it waits
(R13). -/
def toHost (s : State) (d : Nat) (p : Post) : State :=
  if s.hostLink d then s.deliver p else { s with posts := s.posts ++ [(d, p)] }
/-- Posts whose way is open reach D0, in their order (R13). -/
def drainPosts (s : State) : State :=
  (s.posts.filter (fun p => s.hostLink p.1)).foldl (fun s p => s.deliver p.2)
    { s with posts := s.posts.filter (fun p => !s.hostLink p.1) }
/-- Set a bit of the device event register, from a die (R409); a bit on its way is not sent again. -/
def event (s : State) (d b : Nat) : State :=
  if s.posts.contains (d, .event b) then s else s.toHost d (.event b)

end State

/-! ### Registers -/

namespace Thread

/-- x registers; x0 reads zero and is never void (R147). -/
def rx (th : Thread) (r : XReg) : VWord 64 := if r = 0 then ⟨0, false⟩ else th.x[r.toNat]'r.isLt
/-- writex: x0 discards (R164). -/
def wx (th : Thread) (r : XReg) (v : VWord 64) : Thread :=
  if r = 0 then th else { th with x := th.x.set r.toNat v r.isLt }
def rf (th : Thread) (r : FReg) : VWord 32 := th.f[r.toNat]'r.isLt
def wf (th : Thread) (r : FReg) (v : VWord 32) : Thread := { th with f := th.f.set r.toNat v r.isLt }
def rv (th : Thread) (r : VReg) : Vector (VWord 32) 64 := th.v[r.toNat]'r.isLt
def wv (th : Thread) (r : VReg) (v : Vector (VWord 32) 64) : Thread :=
  { th with v := th.v.set r.toNat v r.isLt }
/-- m registers; m0 reads all ones (R4). -/
def rm (th : Thread) (r : MReg) : Word := if r = 0 then BitVec.allOnes 64 else th.m[r.toNat]'r.isLt
def wm (th : Thread) (r : MReg) (v : Word) : Thread :=
  if r = 0 then th else { th with m := th.m.set r.toNat v r.isLt }
def rq (th : Thread) (r : QReg) : Word := th.q[r.toNat]'r.isLt
def wq (th : Thread) (r : QReg) (v : Word) : Thread := { th with q := th.q.set r.toNat v r.isLt }
def rk (th : Thread) (r : KReg) : Handle := th.k[r.toNat]'r.isLt
def wk (th : Thread) (r : KReg) (h : Handle) : Thread := { th with k := th.k.set r.toNat h r.isLt }

/-- The thread's identifier (R23). -/
def tid (th : Thread) (t : Nat) : Nat := t * 256 + th.reuse
/-- The scope the thread was born into (SCOPE0). -/
def sid0 (th : Thread) : Nat := (th.k[0]'(by decide)).sid
/-- The instruction completes: the next one follows, and is checked against breakpoints and watchpoints
again (R422). -/
def advance (th : Thread) : Thread :=
  { th with pc := th.pc + 4, stalled := false, peer := [], skipCheck := false }
/-- Set bits of VOIDSEEN (R151). -/
def see (th : Thread) (bits : BitVec 6) : Thread := { th with voidseen := th.voidseen ||| bits }
/-- Set a breakpoint or a watchpoint for the session of a function (R421). -/
def setBp (th : Thread) (f i : Nat) (w : Word) : Thread :=
  if h : i < 8 then { th with bp := th.bp.set i w h, bpBy := th.bpBy.set i f h } else th
def setWp (th : Thread) (f i : Nat) (w : Watch) : Thread :=
  if h : i < 4 then { th with wp := th.wp.set i w h, wpBy := th.wpBy.set i f h } else th
/-- Is lane i active under VPRED (R231)? -/
def active (th : Thread) (i : Nat) : Bool := (th.rm th.vpred).getLsbD i

end Thread

/-- VOIDSEEN bits (R151). -/
def sawProp : BitVec 6 := 1
def sawMem : BitVec 6 := 2
def sawBranch : BitVec 6 := 4
def sawJump : BitVec 6 := 8
def sawCsr : BitVec 6 := 16
def sawSvc : BitVec 6 := 32

def Handle.none : Handle := ⟨.empty, 0, 0⟩

namespace State

/-- The instruction completes with thread value `th`. -/
def done (s : State) (t : Nat) (th : Thread) : State := s.setTh t th.advance
/-- A nullified instruction without x destination (R149). -/
def nullify (s : State) (t : Nat) (th : Thread) (bits : BitVec 6) : State := s.done t (th.see bits)
/-- A nullified instruction whose x destination becomes void (R149). -/
def nullifyX (s : State) (t : Nat) (th : Thread) (rd : XReg) (bits : BitVec 6) : State :=
  s.done t ((th.wx rd .voidword).see bits)
/-- The instruction waits at issue, without any effect (R373). -/
def stall (s : State) (t : Nat) (th : Thread) : State := s.setTh t { th with stalled := true }

/-! ### Scopes -/

/-- The live record an identifier names (R26). -/
def scope? (s : State) (sid : Nat) : Option Scope :=
  match tfind s.scopes (sid / 16384) with
  | some c => if c.reuse = sid % 16384 ∧ c.state ≠ .free ∧ sid ≠ 0 then some c else none
  | none => none
def setScope (s : State) (sid : Nat) (c : Scope) : State :=
  { s with scopes := tset s.scopes (sid / 16384) c }
/-- CANCELLED of a scope. -/
def scopeCancelled (s : State) (sid : Nat) : Bool :=
  match s.scope? sid with | some c => c.cancelled | none => false

/-- Is scope `sid` the scope `anc` or below it?  `fuel` is the deepest tree (R17). -/
def under (s : State) (anc : Nat) : Nat → Nat → Bool
  | 0, sid => sid == anc
  | fuel + 1, sid =>
    if sid = anc then true
    else match s.scope? sid with
      | some c => if c.parent = 0 then false else s.under anc fuel c.parent
      | none => false

/-- Identifier of a record. -/
def scopeId (rec reuse : Nat) : Nat := rec * 16384 + reuse

/-- A thread is cancelled by its own bit or by its birth scope (R36). -/
def cancelled (s : State) (th : Thread) : Bool := th.cancel || s.scopeCancelled th.sid0
/-- A cancellation point diverts (R36, R166). -/
def diverts (s : State) (th : Thread) : Bool := s.cancelled th && th.shieldn == 0
/-- What every cancellation point does, diverting or not: the watchdog restarts and fault service ends
(R373, R375). -/
def pointSeen (th : Thread) : Thread := { th with watch := 0, service := false }
/-- Divert to CLAND; the instruction has no other effect (R36). -/
def divert (s : State) (t : Nat) (th : Thread) : State :=
  s.setTh t { pointSeen th with
    pc := th.cland, wait := none, stalled := false, peer := [], skipCheck := false }

/-- A cancellation point: divert, or go on with the watchdog restarted (R36, R166, R373). -/
def point (s : State) (t : Nat) (th : Thread) (k : Thread → State) : State :=
  if s.diverts th then s.divert t th else k (pointSeen th)
/-- The record of a thread after the device changed. -/
def again (s : State) (t : Nat) (th : Thread) : Thread := (s.thread? t).getD th

/-- A return of weight starts from a die toward its home record (R29). -/
def giveBack (s : State) (d sid w : Nat) : State :=
  if w = 0 then s else { s with returns := s.returns ++ [⟨sid, w, .member, d⟩] }

/-- The birth of R30 on handle `k`: the member's weight, and the creator after the split. -/
def birth (s : State) (th : Thread) (k : KReg) : Nat × Thread × State :=
  let h := th.rk k
  if h.weight = 1 then
    let w := h.weight + 0x1000000
    let s := match s.scope? h.sid with
      | some c => s.setScope h.sid { c with o := c.o + 0x1000000 }
      | none => s
    (w / 2, th.wk k { h with weight := w - w / 2 }, s)
  else (h.weight / 2, th.wk k { h with weight := h.weight - h.weight / 2 }, s)

/-- The lowest free scope record of a die (R26, log 10). -/
def freeScope (s : State) (d : Nat) : Option Nat :=
  let r := lowestUnlisted (fun c : Scope => c.state != .free) s.scopes (65536 * d)
  if r < 65536 * (d + 1) then some r else none

/-- The record for a new scope: on the issuing die, else on the lowest die with a free one (R170). -/
def pickScope (s : State) (d : Nat) : Option Nat :=
  match s.freeScope d with
  | some r => some r
  | none => (List.range 4).findSome? s.freeScope

/-- Open a scope record (R28, R170): its identifier and the device. -/
def openScope (s : State) (rec parent depth opener pw cmd group : Nat) (canc : Bool) : Nat × State :=
  let reuse := match tfind s.scopes rec with
    | some c => if 16383 ≤ c.reuse then 1 else c.reuse + 1
    | none => 1
  let c : Scope := ⟨reuse, .opened, parent, depth, 0x10000000000, canc, false, 0, false, 0, opener,
    pw, false, false, cmd, group, 0⟩
  (scopeId rec reuse, { s with scopes := tset s.scopes rec c })

/-- Free a joined record once it is reported and its parent's weight has gone home (R28). -/
def settle (s : State) (sid : Nat) : State :=
  match s.scope? sid with
  | some c => if c.state = .joined ∧ c.reported ∧ c.parentReturned then
      s.setScope sid { c with state := .free } else s
  | none => s

/-- Report the join of a scope to its closer (R28). -/
def report (s : State) (sid : Nat) : State :=
  match s.scope? sid with
  | some c => (s.setScope sid { c with reported := true }).settle sid
  | none => s

/-- Close an opener's scope from a die: CLOSING, the handle's weight starts home (R28, R172). -/
def closeScope (s : State) (d sid w : Nat) : State :=
  match s.scope? sid with
  | some c => (if c.state = .opened then s.setScope sid { c with state := .closing } else s).giveBack d sid w
  | none => s

/-! ### Ready queues (R296) -/

def enqueue (s : State) (cl : Nat) (it : Item) : State :=
  let c := s.cluster cl
  s.setCluster cl { c with ready := c.ready ++ [it] }

/-- Remove a thread or task from a ready queue. -/
def unqueue (s : State) (cl : Nat) (isTask : Bool) (rec : Nat) : State :=
  let c := s.cluster cl
  s.setCluster cl { c with ready := c.ready.filter (fun i => !(i.isTask == isTask && i.record == rec)) }

/-- A spilled or spawned thread enters its cluster's queue at a tick (R301). -/
def readyThread (s : State) (t : Nat) (th : Thread) (place : Option Nat) (at_ : Nat) : State :=
  (s.setTh t { th with loc := .queued }).enqueue (tileCluster th.tile)
    ⟨false, t, th.prio, at_, 0, place, th.cls⟩

/-- A task becomes READY (R40). -/
def readyTask (s : State) (k : Nat) (x : Task) : State :=
  ({ s with tasks := tset s.tasks k { x with state := .ready, pending := none } }).enqueue x.cluster
    ⟨true, k, x.prio, s.time, 0, none, x.cls⟩

/-! ### Tasks (R182) -/

def taskId (rec reuse : Nat) : Nat := rec * 4096 + reuse
/-- The live record a task identifier names. -/
def task? (s : State) (id : Nat) : Option Task :=
  match tfind s.tasks (id / 4096) with
  | some x => if x.reuse = id % 4096 ∧ x.state ≠ .free ∧ id ≠ 0 then some x else none
  | none => none
def setTask (s : State) (id : Nat) (x : Task) : State := { s with tasks := tset s.tasks (id / 4096) x }
/-- Entries held in a cluster's pending-signal table (R41). -/
def pendingHeld (s : State) (cl : Nat) : Nat :=
  (s.tasks.filter (fun p => p.2.cluster == cl && p.2.pending.isSome && p.2.state != .free)).length

/-- Discard a task not yet run: its pending entry is freed and its weight returned.  The record stays
DISCARDED until its scope joins (R40, R184). -/
def discardTask (s : State) (k : Nat) (x : Task) : State :=
  let s := ({ s with tasks := tset s.tasks k { x with state := .discarded, pending := none } }).unqueue
    x.cluster true k
  { s with returns := s.returns ++ [⟨x.sid, x.weight, .member, x.cluster / 16⟩] }

/-- The records of a scope's discarded tasks are freed at its join (R184). -/
def freeDiscarded (s : State) (sid : Nat) : State :=
  { s with tasks := s.tasks.map (fun p =>
      if p.2.sid == sid && p.2.state == .discarded then (p.1, { p.2 with state := .free }) else p) }

/-- May a task still be discarded (R40)? -/
def unrun (x : Task) : Bool := x.state == .created || x.state == .published || x.state == .ready

/-! ### Cancellation (R34, R35, R37, R264) -/

/-- Mark the engine work of chosen members: copies, array commands, relocations. -/
def cancelWork (s : State) (hit : Nat → Nat → Bool) : State :=
  { s with
    tiles := s.tiles.map (fun p => (p.1, { p.2 with
      copies := p.2.copies.map (fun c => if hit c.sid c.tid then { c with cancelled := true } else c)
      weightQ := p.2.weightQ.map (fun c => if hit c.sid c.tid then { c with cancelled := true } else c)
      rowQ := p.2.rowQ.map (fun c => if hit c.sid c.tid then { c with cancelled := true } else c) }))
    dies := s.dies.map (fun p => (p.1, { p.2 with
      weevil := p.2.weevil.map (fun r =>
        if hit r.sid r.issuer && r.phase != .flipping then { r with abandon := true } else r) })) }

/-- Discard the unrun tasks of chosen members (R40). -/
def discardTasks (s : State) (hit : Nat → Nat → Bool) : State :=
  s.tasks.foldl (fun s p =>
    if unrun p.2 && hit p.2.sid p.2.issuer then s.discardTask p.1 p.2 else s) s

/-- Set the cancel bits of chosen threads. -/
def cancelThreads (s : State) (hit : Nat → Nat → Bool) : State :=
  { s with threads := s.threads.map (fun p =>
      if hit p.2.sid0 (p.2.tid p.1) then (p.1, { p.2 with cancel := true }) else p) }

/-- Carry the cancellation of a grouped root to the group's devices, once (R337). -/
def cancelGroup (s : State) (g : Nat) : State :=
  if g = 0 ∨ s.groupsSent.contains g then s
  else match tfind s.groups g with
    | some m =>
      { s with groupsSent := g :: s.groupsSent
               sent := (((List.range 768).filter (fun d => m.testBit d && d != s.devNum)).map
                 (fun d => Sent.groupCancel g d)).reverse ++ s.sent }
    | none => s

/-- SCANCEL's effect on a scope and everything below it (R34).  A joined record is left alone. -/
def cancelTree (s : State) (sid : Nat) : State :=
  let hit := fun x => s.under sid 256 x
  let groups := (s.scopes.filter (fun p => hit (scopeId p.1 p.2.reuse) && p.2.state != .free
      && p.2.state != .joined && p.2.depth == 1)).map (fun p => p.2.group)
  let s1 : State := { s with scopes := s.scopes.map (fun p =>
      if hit (scopeId p.1 p.2.reuse) && p.2.state != .free && p.2.state != .joined then
        (p.1, { p.2 with cancelled := true }) else p) }
  let s2 := ((s1.cancelThreads (fun x _ => hit x)).cancelWork (fun x _ => hit x)).discardTasks
    (fun x _ => hit x)
  groups.foldl cancelGroup s2

/-- A winning SUCCEED cancels every member of the scope outside the caller's subtree (R35). -/
def cancelOthers (s : State) (sid tid : Nat) : State :=
  let mine := fun x y => x == sid && y != tid
  let kids := (s.scopes.filter (fun p => p.2.parent == sid && p.2.opener != tid && p.2.state != .free
      && p.2.state != .joined)).map (fun p => scopeId p.1 p.2.reuse)
  let s := ((s.cancelThreads mine).cancelWork mine).discardTasks mine
  kids.foldl cancelTree s

/-! ### What a stalled link holds back (R13) -/

/-- Does the clock step of some die stall links? -/
def anyStall (s : State) : Bool := (List.range 4).any s.stalledDie
/-- Does traffic pass from a die to every die? -/
def allOpen (s : State) (d : Nat) : Bool := (List.range 4).all (s.linkOpen d)
/-- The dies that a cancellation reaches: of the scopes it marks, and of the threads, engine work, relocations
and tasks that `hit` picks by scope and issuer. -/
def markedDies (s : State) (scopes : Nat → Bool) (hit : Nat → Nat → Bool) : List Nat :=
  (s.scopes.filter (fun p => p.2.state != .free && p.2.state != .joined && scopes (scopeId p.1 p.2.reuse))).map
    (fun p => p.1 / 65536) ++
  (s.threads.filter (fun p => hit p.2.sid0 (p.2.tid p.1))).map (fun p => tileDie p.2.tile) ++
  (s.tiles.filter (fun p => p.2.copies.any (fun c => hit c.sid c.tid) ||
    (p.2.weightQ ++ p.2.rowQ).any (fun c => hit c.sid c.tid))).map (fun p => tileDie p.1) ++
  (s.dies.filter (fun p => p.2.weevil.any (fun r => hit r.sid r.issuer))).map (·.1) ++
  (s.tasks.filter (fun p => unrun p.2 && hit p.2.sid p.2.issuer)).map (fun p => p.2.cluster / 16)
/-- Does a cancellation of such scopes go to other devices, and is the fabric not reached (R337)? -/
def groupFar (s : State) (d : Nat) (scopes : Nat → Bool) : Bool :=
  !s.fabricOpen d && s.scopes.any (fun p => p.2.state != .free && p.2.state != .joined && p.2.depth == 1 &&
    p.2.group != 0 && (tfind s.groups p.2.group).isSome && !s.groupsSent.contains p.2.group &&
    scopes (scopeId p.1 p.2.reuse))
/-- Does a cancellation of a scope and all below it wait, from a die, for a link (R13, R34, log 47)? -/
def treeHeld (s : State) (d sid : Nat) : Bool :=
  s.anyStall && ((s.markedDies (s.under sid 256) (fun x _ => s.under sid 256 x)).any (fun x => !s.linkOpen d x) ||
    s.groupFar d (s.under sid 256))
/-- Does a winning SUCCEED wait for a link to a member outside the caller's subtree (R13, R35)? -/
def othersHeld (s : State) (d sid tid : Nat) : Bool :=
  s.anyStall &&
    (let kids := (s.scopes.filter (fun p => p.2.parent == sid && p.2.opener != tid && p.2.state != .free
        && p.2.state != .joined)).map (fun p => scopeId p.1 p.2.reuse)
     let below := fun x => kids.any (fun k => s.under k 256 x)
     (s.markedDies below (fun x y => (x == sid && y != tid) || below x)).any (fun x => !s.linkOpen d x))
/-- Do the scopes that a thread's handles close or report stand behind a stalled link (R13, R178)? -/
def handlesFar (s : State) (th : Thread) : Bool :=
  (List.range 7).any (fun i => match th.k[i + 1]? with
    | some h => (h.kind == .opener || h.kind == .closed) && !s.linkOpen (tileDie th.tile) (scopeDie h.sid)
    | none => false)
/-- Does the end of a thread by a scope fault wait for a link (R13, R364)? -/
def endHeld (s : State) (th : Thread) : Bool := s.handlesFar th || s.treeHeld (tileDie th.tile) th.sid0
/-- Does the map-out of a tile wait for a link: that of a thread it ends (R13, R413)? -/
def mapHeld (s : State) (l : Nat) : Bool := s.anyStall && s.threads.any (fun p => p.2.tile == l && s.endHeld p.2)
/-- Has thread t, whose record was th, come to an end in s' by a fault that waits for a link? -/
def endsHeld (s s' : State) (t : Nat) (th : Thread) : Bool :=
  (match s'.thread? t with | none => true | some x => x.ending) &&
    (if th.mode = .machine then s.mapHeld th.tile else s.endHeld th)
/-- What a fault leads to, or, while a link holds it back, something else. -/
def orHeld (s s' : State) (t : Nat) (th : Thread) (alt : State) : State := if s.endsHeld s' t th then alt else s'
/-- Does a halt of a scope and all below it wait, from a die, for a link to one of its threads (R13, R424)? -/
def haltFar (s : State) (d sid : Nat) : Bool :=
  s.anyStall && s.threads.any (fun p => s.under sid 256 p.2.sid0 && !s.linkOpen d (tileDie p.2.tile))

/-! ### Contexts (R180, R292) -/

/-- Contexts of a class that threads hold on a tile. -/
def heldCtx (s : State) (l : Nat) (c : CoreClass) : List Nat :=
  s.threads.filterMap (fun p => match p.2.loc with
    | .resident x => if p.2.tile == l && p.2.cls == c then some x else none
    | _ => none)
/-- Free contexts of a class on a tile. -/
def freeCtx (s : State) (l : Nat) (c : CoreClass) : Nat := 4 - (s.heldCtx l c).length
/-- The lowest free context. -/
def lowCtx (s : State) (l : Nat) (c : CoreClass) : Option Nat :=
  let held := s.heldCtx l c
  (List.range 4).find? (fun x => !held.contains x)

/-- The first number of a list with the largest measure. -/
def argMax (f : Nat → Nat) : List Nat → Option Nat
  | [] => none
  | a :: as => match argMax f as with
    | none => some a
    | some b => if f a ≥ f b then some a else some b

/-- In-service tile of a cluster with the most free contexts, ties to the lowest t (R180). -/
def bestTile (s : State) (cl : Nat) (c : CoreClass) : Option Nat :=
  argMax (fun l => s.freeCtx l c) ((clusterTiles cl).filter s.inService)
/-- Cluster of a die with a tile in service and the most free contexts (R180). -/
def bestCluster (s : State) (d : Nat) (c : CoreClass) : Option Nat :=
  argMax (fun cl => ((clusterTiles cl).map (fun l => if s.inService l then s.freeCtx l c else 0)).sum)
    (((List.range 16).map (fun i => 16 * d + i)).filter
      (fun cl => (clusterTiles cl).any s.inService))

/-- Put a thread into a context of a tile. -/
def seat (s : State) (t : Nat) (th : Thread) (l ctx : Nat) : State :=
  s.setTh t { th with tile := l, loc := .resident ctx, sliceStart := s.time, dispatched := s.time }

/-- Place a new thread on one tile, or leave it queued for that tile (R180). -/
def placeOn (s : State) (t : Nat) (th : Thread) (l : Nat) : State :=
  match s.lowCtx l th.cls with
  | some x => s.seat t th l x
  | none => s.readyThread t { th with tile := l } (some l) s.time

/-- Place a new thread in one cluster, or leave it queued for any of its tiles (R180). -/
def placeIn (s : State) (t : Nat) (th : Thread) (cl : Nat) : State :=
  match s.bestTile cl th.cls with
  | some l => match s.lowCtx l th.cls with
    | some x => s.seat t th l x
    | none => s.readyThread t { th with tile := 16 * cl } none s.time
  | none => s.readyThread t { th with tile := 16 * cl } none s.time

/-- Place a spawned thread under a placement word of mode `mode` naming tile `l` (R180). -/
def placeThread (s : State) (t : Nat) (th : Thread) (mode l spawner : Nat) : State :=
  if mode = 0 then s.placeOn t th spawner
  else if mode = 1 then s.placeOn t th l
  else if mode = 2 then s.placeIn t th (tileCluster l)
  else match s.bestCluster (tileDie spawner) th.cls with
    | some cl => s.placeIn t th cl
    | none => s.placeIn t th (tileCluster spawner)

/-! ### Thread records (R24) -/

/-- The lowest free thread record (R17, log 10). -/
def freeThread (s : State) : Option Nat :=
  let r := lowestUnlisted (fun _ : Thread => true) s.threads 0
  if r < 0x100000 then some r else none
/-- Reuse count of a record's next allocation (R24). -/
def nextReuse (s : State) (r : Nat) : Nat :=
  match tfind s.threadReuse r with
  | some n => if 255 ≤ n then 1 else n + 1
  | none => 1
/-- The live thread an identifier names. -/
def byTid (s : State) (tid : Nat) : Option (Nat × Thread) :=
  match s.thread? (tid / 256) with
  | some th => if th.reuse = tid % 256 then some (tid / 256, th) else none
  | none => none

/-- A thread at birth, before it takes anything from its spawner (R25): registers zero and not void,
handles empty but k0, armed, no windows. -/
def fresh (reuse : Nat) (entry arg : Word) (sid w : Nat) (c : CoreClass) (l : Nat) : Thread where
  reuse := reuse
  pc := entry
  x := (Vector.replicate 32 (VWord.of 0)).set 10 (.of arg)
  f := Vector.replicate 32 (.of 0)
  v := Vector.replicate 32 (Vector.replicate 64 (.of 0))
  m := Vector.replicate 8 0
  q := Vector.replicate 16 0
  k := (Vector.replicate 8 Handle.none).set 0 ⟨.birth, sid, w⟩
  fflags := 0
  frm := 0
  waittmo := 0
  vpred := 0
  cland := 0
  utvec := 0
  uepc := 0
  ucause := 0
  utval := 0
  voidseen := 0
  shieldn := 0
  stream := 0
  seedkey := 0
  cancel := false
  armed := true
  ver := .v3
  mode := .user
  mepc := 0
  mie := false
  mpie := false
  mpp := .user
  cls := c
  tile := l
  loc := .queued
  saving := false
  wait := none
  stalled := false
  remoteOut := none
  peer := []
  windows := []
  savingFor := none
  saved := none
  inbox := []
  overflow := []
  prio := 0
  slice := 0
  latlim := 0
  sliceStart := 0
  dispatched := 0
  watch := 0
  service := false
  task := none
  aspace := 0
  cmd := 0
  bp := Vector.replicate 8 0
  wp := Vector.replicate 4 ⟨0, 0, 0⟩
  bpBy := Vector.replicate 8 0
  wpBy := Vector.replicate 4 0
  halted := none
  haltedBy := 0
  halting := false
  skipCheck := false
  stepping := none
  mxCancelled := false
  mxFailed := false
  pendMx := []
  ending := false

/-- A thread halted for a session at an instruction boundary: one stalled at issue is abandoned with what it
had read of peers, and its first instruction after that is not checked again (R422, R424). -/
def haltedTh (th : Thread) (why : HaltReason) (f : Nat) : Thread :=
  { th with halted := some why, haltedBy := f, halting := false, stalled := false, skipCheck := true
            stepping := none, peer := [] }

/-- Breakpoints, watchpoints and halts that debug sessions hold for a thread born into a scope: of several for one
entry, the one written last stands (R421, R424). -/
def bornUnder (s : State) (th : Thread) : Thread :=
  s.dbgScopes.foldr (fun e th =>
    if s.under e.2.1 256 th.sid0 then match e.2.2 with
      | .bp i w => th.setBp e.1 i w
      | .wp i w => th.setWp e.1 i w
      | .halt => haltedTh th .request e.1
    else th) th

/-! ### Ending a thread (R178, R364) -/

/-- The answer to a STEP of a thread, if function f has one to give (R427). -/
def answerStep (s : State) (d f tid status : Nat) : State :=
  let x := s.func f
  (s.setFunc f { x with dbgWait := x.dbgWait.filter (fun k => k != .step tid) }).toHost d (.answer f [wOf status])
/-- What a debugger asked for at the end of an instruction: a stepped thread halts and its STEP is answered,
and a halt that waited for the boundary takes effect (R424, R427). -/
def boundary (s : State) (t : Nat) (th : Thread) (status : Nat) : State :=
  match th.stepping with
  | some f => (s.setTh t (haltedTh th (th.halted.getD .stepped) (if th.halting then th.haltedBy else f))).answerStep
      (tileDie th.tile) f (th.tid t) status
  | none => if th.halting then s.setTh t (haltedTh th .request th.haltedBy) else s

/-- What one instruction came to for a STEP (R427): the request's status, or nothing while the instruction
is not at its end: stalled, out to a peer, or waiting for a stolen range. -/
def stepResult (old : Thread) : Option Thread → Option Nat
  | none => some 6
  | some th =>
    if th.ending then some 6
    else if th.stalled || th.remoteOut.isSome then none
    else match th.wait with
      | some ⟨.steal _, _, _⟩ => none
      | some _ => some 4
      | none => if old.armed && !th.armed then some 5 else some 0

/-- A thief that ends, halts or is pre-empted asks no more (log 20). -/
def dropSteal (s : State) (t : Nat) (th : Thread) : State :=
  match th.wait with
  | some ⟨.steal l, _, _⟩ =>
    let x := s.tile l
    if x.ranges.thief = some (th.tid t) then s.setTile l { x with ranges := { x.ranges with thief := none } }
    else s
  | _ => s
/-- Is a thread inside an instruction that its next boundary ends: one whose remote operations are out or
answered, and that no wait holds (R424)? -/
def midInstruction (th : Thread) : Bool := th.wait.isNone && (th.remoteOut.isSome || !th.peer.isEmpty)
/-- A thread under HALT: at an instruction boundary or stalled at issue it halts at once, in a wait it halts
in the wait, and inside an instruction at the end of it (R424).  A thread waiting for a stolen range is
stalled at issue, since that is no wait_until (R187, R373): it asks anew when it goes on. -/
def underHalt (th : Thread) (f : Nat) : Thread :=
  if midInstruction th then { th with halting := true, haltedBy := f }
  else match th.wait with
    | some ⟨.steal _, _, _⟩ => haltedTh { th with wait := none } .request f
    | _ => haltedTh th .request f
/-- HALT of one thread. -/
def halt (s : State) (f t : Nat) (th : Thread) : State :=
  if th.halted.isSome ∨ th.ending then s
  else (s.dropSteal t th).setTh t (underHalt th f)
/-- At the end of an instruction a debugger's STEP or HALT of its thread takes effect (R424, R427).  A HALT that
came inside an instruction which now stalls at issue abandons it (R376, R424). -/
def ended (s : State) (t : Nat) (old : Thread) : State :=
  match stepResult old (s.thread? t) with
  | none => match s.thread? t with
    | some th => if th.halting then s.halt th.haltedBy t th else s
    | none => s
  | some st => match (s.thread? t).filter (fun th => !th.ending) with
    | some th => s.boundary t th st
    | none => match old.stepping with
      | some f => s.answerStep (tileDie old.tile) f (old.tid t) st
      | none => s

/-- Write an answered steal into the waiting thief: the range word, and on to its next instruction
(R187). -/
def answerThief (s : State) (tid first count : Nat) : State :=
  match s.byTid tid with
  | some (t, th) => match th.wait with
    | some ⟨.steal _, rd, _⟩ =>
      let th : Thread := { (th.wx rd (.of (wOf (count * 2 ^ 32 + (if count = 0 then 0 else first))))).advance
        with wait := none }
      (s.setTh t th).boundary t th 0
    | _ => s
  | none => s

/-- Unbind a tile's range registers, handing a waiting thief the whole remainder (R178, R188). -/
def unbindRanges (s : State) (l : Nat) : State :=
  let x := s.tile l
  let s1 := s.setTile l { x with ranges := ⟨0, 0, 0, none, none⟩ }
  match x.ranges.thief with
  | some tid => s1.answerThief tid x.ranges.lo (x.ranges.hi - x.ranges.lo)
  | none => s1

/-- The handles k1 to k7 as EXIT leaves them: openers closed, grants returned, closed ones dropped. -/
def dropHandles (s : State) (d : Nat) (hs : List Handle) : State :=
  hs.foldl (fun s h => match h.kind with
    | .opener => (s.closeScope d h.sid h.weight).report h.sid
    | .entered => s.giveBack d h.sid h.weight
    | .closed => s.report h.sid
    | _ => s) s

/-- Room in a tile's retirement tracker (R32). -/
def trackerRoom (s : State) (l : Nat) : Bool := decide ((s.tile l).tracker.length < 32)

/-- The parts of EXIT that need no tracker entry; the thread keeps its k0 weight and its windows. -/
def closeThread (s : State) (t : Nat) (th : Thread) : State :=
  let s := (s.dropSteal t th).dropHandles (tileDie th.tile)
    ((List.range 7).map (fun i => (th.k[i + 1]?).getD Handle.none))
  let s := if (s.tile th.tile).ranges.bound = some (th.tid t) then s.unbindRanges th.tile else s
  (th.inbox ++ th.overflow).foldl (fun s m => s.giveBack (tileDie th.tile) m.sid m.weight) s

/-- A task is DONE: the tracker returned the weight of the thread that ran it (R40, R178). -/
def taskDone (s : State) (task : Option Nat) : State :=
  match task with
  | some id => match s.task? id with
    | some x => s.setTask id { x with state := .done }
    | none => s
  | none => s

/-- Free the record; the k0 weight and the windows pass to the tile's tracker (R32). -/
def retire (s : State) (t : Nat) (th : Thread) : State :=
  let x := s.tile th.tile
  let s := s.setTile th.tile { x with tracker := x.tracker ++
    [⟨th.tid t, th.sid0, (th.k[0]'(by decide)).weight, th.windows, th.task⟩] }
  { (s.unqueue (tileCluster th.tile) false t) with
    threads := tdel s.threads t, threadReuse := tset s.threadReuse t th.reuse }

/-- End a thread as by EXIT (R178).  While the tracker is full its context is held (R364).  DESIGN CHOICE (log 59): a
spilled or queued thread, which has no context, stays ending in its ready queue meanwhile, and may be dispatched into a
context that it then holds until an entry frees. -/
def endThread (s : State) (t : Nat) (th : Thread) : State :=
  let s := s.closeThread t th
  if s.trackerRoom th.tile then s.retire t th
  else s.setTh t { th with
    ending := true, wait := none, stalled := true, inbox := [], overflow := [], saved := none
    k := Vector.ofFn (fun i : Fin 8 => if i.val = 0 then th.k[0]'(by decide) else Handle.none) }

/-- FAULTED and Cause of a scope, the first fault only (R364). -/
def markFault (s : State) (sid cause : Nat) : State :=
  match s.scope? sid with
  | some c => if c.faulted then s else s.setScope sid { c with faulted := true, cause := cause }
  | none => s

/-- A scope fault without a thread: mark and cancel (R364, R396, R415). -/
def scopeFault (s : State) (sid cause : Nat) : State := (s.markFault sid cause).cancelTree sid

/-- A scope fault by a thread: its k0 scope is faulted and cancelled, the thread ends (R364).  One that a full
tracker holds in EXIT has ended already. -/
def faultThread (s : State) (t cause : Nat) : State :=
  match s.thread? t with
  | none => s
  | some th =>
    let s := s.scopeFault th.sid0 cause
    if th.ending then s else
    match s.thread? t with
    | some th => s.endThread t th
    | none => s

/-! ### Map-out of a tile (R413) -/

end State

/-- Key of a core's tag in its tile's table. -/
def tagKey (c : CoreClass) (n : Nat) : Nat := (if c = .stage then 0 else 64) + n
/-- A descriptor of a tile. -/
def Tile.cb (x : Tile) (b : Nat) : Cb := (x.cbs[b]?).getD Cb.idle
def Tile.setCb (x : Tile) (b : Nat) (d : Cb) : Tile :=
  if h : b < 16 then { x with cbs := x.cbs.set b d h } else x
/-- An engine's advance of the producer side, not made when FREE is 0 (R64). -/
def Cb.produce (d : Cb) : Cb :=
  if d.free = 0 ∨ d.count = 0 then d
  else { d with free := d.free - 1, fill := d.fill + 1, pidx := (d.pidx + 1) % d.count }
/-- An engine's advance of the consumer side, not made when FILL is 0 (R64).  The row position stays (R6): MXSTRM's own
advance puts it to 0 (R256). -/
def Cb.consume (d : Cb) : Cb :=
  if d.fill = 0 ∨ d.count = 0 then d
  else { d with fill := d.fill - 1, free := d.free + 1, cidx := (d.cidx + 1) % d.count }

namespace State

/-- Is a remote operation of copy `id` of tile `l` in flight (reads only, or any)? -/
def copyWaits (s : State) (l id : Nat) (readsOnly : Bool) : Bool :=
  s.remotes.any (fun r => r.tile == l && match r.kind with
    | .copyRead k => k == id
    | .copyWrite k _ => k == id && !readsOnly
    | _ => false)
/-- Finish a copy: tag, buffer, lock and weight in one step (R206, R390).  status: 0 COMPLETE,
1 CANCELLED, 2 ERROR.  A tile out of service has no tags (R413). -/
def finishCopy (s : State) (l : Nat) (c : Copy) (status : Nat) : State :=
  let x := s.tile l
  let x := match c.cb with
    | some b => if status = 0 then x.setCb b (x.cb b).produce else x
    | none => x
  (s.setTile l { x with
      tags := if x.outOfService then x.tags else tset x.tags (tagKey c.cls c.tag) (.set status c.done)
      locks := x.locks.filter (fun k => k.op != c.id)
      copies := x.copies.filter (fun k => k.id != c.id) }).giveBack (tileDie l) c.sid c.weight

/-- A tile goes out of service: its threads end with cause 55, its engines stop as under cancellation, so that a
copy with operations at a peer finishes when they are over, its handles become FREE, its local memory and tags
are lost (R37, R206, R413). -/
def mapOut (s : State) (l : Nat) : State :=
  if !(s.inService l) then s else
  let s : State := { s with remotes := s.remotes.map (fun r =>
    if r.tile = l then { r with t := 0x100000 } else r) }
  let s : State := (s.tile l).copies.foldl (fun s c => if s.copyWaits l c.id false then s else s.finishCopy l c 1) s
  let victims := (s.threads.filter (fun p => p.2.tile == l && (match p.2.loc with
    | .queued => ((s.cluster (tileCluster l)).ready.any (fun i =>
        !i.isTask && i.record == p.1 && i.place == some l))
    | _ => true))).map (·.1)
  let s : State := victims.foldl (fun s t => s.faultThread t 55) s
  let x := s.tile l
  let s : State := s.setTile l { Tile.idle with
    outOfService := true, tracker := x.tracker, copies := x.copies.map (fun c => { c with cancelled := true }) }
  let s : State := { s with
    mem := Memory.below s.mem (tlLoc l 0) ++ Memory.from_ s.mem (tlLoc l 0x60000)
    poison := s.poison.filter (fun u => decide (u < tlLoc l 0 / 64 ∨ tlLoc l 0x60000 / 64 ≤ u)) }
  let cl := s.cluster (tileCluster l)
  let s : State := s.setCluster (tileCluster l) { cl with owns := cl.owns.map (fun p =>
    if p.2.state == .held && p.2.holder == tileT l then (p.1, { p.2 with state := OwnState.free }) else p) }
  s.event (tileDie l) 2

/-! ### Taking a fault (R360 to R364) -/

/-- Causes after whose delivery a thread is in fault service (R375). -/
def servicedCause (c : Nat) : Bool := c == 12 || c == 13 || c == 15 || c == 56

/-- A precise fault of the current instruction.  In user mode it is delivered to UTVEC, or becomes a
scope fault where there is no handler or the armed bit is clear.  A fault of the resident handler maps
its tile out (R362, R412). -/
def trap (s : State) (t : Nat) (th : Thread) (cause : Nat) (tval : Word) : State :=
  if th.mode = .machine then s.mapOut th.tile
  else if th.utvec = 0 ∨ th.armed = false then s.faultThread t cause
  else s.setTh t { th with
    uepc := th.pc, ucause := BitVec.ofNat 8 cause, utval := tval, armed := false, pc := th.utvec
    watch := 0, wait := none, stalled := false, peer := [], skipCheck := false
    service := th.service || servicedCause cause }

/-- Return from the resident handler, as the RISC-V base has it: pc from mepc, mode from MPP, MIE from
MPIE (R140, R141, log 12). -/
def handlerReturn (s : State) (t : Nat) (th : Thread) : State :=
  s.setTh t { th with pc := th.mepc, mode := th.mpp, mie := th.mpie, mpie := true, mpp := .user
                      stalled := false, peer := [], skipCheck := false }

/-! ### Halting (R422 to R425) -/

/-- Function that owns a command's queue (R328). -/
def ownerOf (s : State) (id : Nat) : Nat :=
  match tfind s.cmds id with | some c => c.queue / 16 | none => 0
/-- The debug session that covers a command's threads, by its function (R419). -/
def sessionFor (s : State) (cmd : Nat) : Option Nat :=
  let f := s.ownerOf cmd
  if (s.func f).session.isSome then some f
  else if (s.func 0).session.isSome ∧
      !(f != 0 && ((s.func f).tdisp == .locked || (s.func f).tdisp == .run)) then some 0
  else none
/-- Halt every thread of a scope and below it, and those born into it while the halt stands (R424). -/
def haltScope (s : State) (f sid : Nat) : State :=
  let s : State := (s.threads.filter (fun p => s.under sid 256 p.2.sid0)).foldl
    (fun s p => s.halt f p.1 p.2) s
  if (s.func f).session.isSome then
    { s with dbgScopes := (f, sid, .halt) :: s.dbgScopes.filter (fun e => e != (f, sid, .halt)) }
  else s
/-- Weight that reads at peers took from k0 for the instruction being executed (R31). -/
def readWeight (th : Thread) : Nat := ((th.peer.filter (fun v => !v.amo)).map (·.weight)).sum
/-- Does undoing them wait for the link to the scope's home (R13)? -/
def undoHeld (s : State) (th : Thread) : Bool :=
  readWeight th != 0 && !s.linkOpen (tileDie th.tile) (scopeDie th.sid0)
/-- An instruction without effect: the weight that its reads at peers took, and that went home with their answers, is
in k0 again, and in its scope's O (R31, R422). -/
def undoReads (s : State) (th : Thread) : Thread × State :=
  let w := readWeight th
  if w = 0 then (th, s)
  else match s.scope? th.sid0 with
    | some c => (th.wk 0 { th.rk 0 with weight := (th.rk 0).weight + w }, s.setScope th.sid0 { c with o := c.o + w })
    | none => (th, s)
/-- A breakpoint, watchpoint or EBREAK halts the thread with pc at the instruction, or its whole k0
scope when the entry's ACTION says so (R422, R424), for the session that set the entry.  What the instruction read of
peers is undone.  While a thread of the scope, or what is undone, is behind a stalled link the instruction is stalled
at issue (R13). -/
def haltThread (s : State) (t : Nat) (th : Thread) (why : HaltReason) (scope : Bool) (f : Nat) : State :=
  if (scope && s.haltFar (tileDie th.tile) th.sid0) || s.undoHeld th then s.stall t th else
  let (th, s) := s.undoReads th
  let s := (s.setTh t (haltedTh th why f)).toHost (tileDie th.tile) (.halted f (th.tid t) why)
  if scope then s.haltScope f th.sid0 else s

end State

/-- Run a meaning for the current thread; without one the machine stops. -/
def withTh (s : State) (k : Nat → Thread → State) : Out :=
  match s.cur with
  | none => .fault .noThread
  | some t => match s.thread? t with
    | none => .fault .noThread
    | some th => .next (k t th)

end Sys2Proof.Machine
end

