-- ==== Sys2Proof/Machine/Operands.lean ====
section
/-! DEFINITION. Memory operands: windows (R49), translation (R55 to R58), region classes (R59, R60),
the checks of R165 in their order, fetches (R430), and the ranges of engine operations (R205, R384). -/

namespace Sys2Proof.Machine

/-! ### Windows (R49) -/

/-- One past the last address of the window that holds an address. -/
def windowEnd (a : Nat) : Option Nat :=
  if a < 0x60000 then some 0x60000
  else if 0x10000000 ≤ a ∧ a < 0x10400000 then some 0x10400000
  else if 0x20000000 ≤ a ∧ a < 0x30000000 then some 0x30000000
  else if 0x100000000 ≤ a ∧ a < 0x100000000000000 then some 0x100000000000000
  else none
/-- Is an address in the translated window? -/
def translated (a : Nat) : Bool := decide (0x100000000 ≤ a ∧ a < 0x100000000000000)
/-- Location of an untranslated address, as seen from a tile (R49). -/
def windowLoc (l a : Nat) : Nat :=
  if a < 0x60000 then tlLoc l a
  else if a < 0x20000000 then spLoc (tileCluster l) (a - 0x10000000)
  else locSram + (a - 0x20000000)

/-! ### Translation (R55 to R58) -/

/-- A leaf entry: its word, where it stands, and the page it maps. -/
structure Leaf where
  word : Word
  entry : Nat
  va : Nat
  size : Nat
  deriving DecidableEq, Repr

def Leaf.cls (f : Leaf) : Nat := fld f.word 63 61
def Leaf.dev (f : Leaf) : Nat := fld f.word 60 51
def Leaf.addr (f : Leaf) : Nat := fld f.word 50 16 * 65536
def Leaf.repl (f : Leaf) : Nat := fld f.word 11 8
def Leaf.bit (f : Leaf) (i : Nat) : Bool := f.word.getLsbD i

/-- Bytes of memory of a die (R58). -/
def dieBytes : Nat := 0x2CB4178000
/-- Is [a, a + n) device memory of one die? -/
def inMemory (a n : Nat) : Bool := decide (a < 4 * dieRange ∧ a % dieRange + n ≤ dieBytes)

/-- Is a leaf of this size one the service core treats as valid (R56, R58)?  DESIGN CHOICE (log 48): a leaf of
a reserved class 6 or 7, and one of a class in device memory whose address lies above every die, are not
valid either. -/
def Leaf.ok (f : Leaf) : Bool :=
  decide (f.cls ≤ 5) && decide (f.addr % f.size = 0) &&
    (if f.cls = 5 then f.repl != 0 else true) &&
    (if f.cls = 3 ∨ f.cls = 4 then true else inMemory f.addr f.size)

/-- Index bits and leaf size of the four levels (R55). -/
def levels : List (Nat × Nat × Nat) :=
  [(55, 39, 0), (38, 30, 0x40000000), (29, 21, 0x200000), (20, 16, 0x10000)]

/-- Walk from a table at the given levels: the valid leaf, if there is one (R55, R56).  DESIGN CHOICE (log 48):
an entry of the last level with V set and LEAF clear is no valid leaf, and a table address outside device
memory is read as any other location. -/
def walkGo (s : State) (va : Nat) : List (Nat × Nat × Nat) → Nat → Option Leaf
  | [], _ => none
  | (hi, lo, size) :: rest, tbl =>
    let e := tbl + 8 * fld (wOf va) hi lo
    let w := wOf (s.numAt e 8)
    if !w.getLsbD 0 then none
    else if w.getLsbD 1 then
      if size = 0 then none
      else
        let f : Leaf := ⟨w, e, va - va % size, size⟩
        if f.ok then some f else none
    else walkGo s va rest (fld w 50 16 * 65536)

/-- The entries that a walk reads. -/
def walkPath (s : State) (va : Nat) : List (Nat × Nat × Nat) → Nat → List Nat
  | [], _ => []
  | (hi, lo, _) :: rest, tbl =>
    let e := tbl + 8 * fld (wOf va) hi lo
    let w := wOf (s.numAt e 8)
    if w.getLsbD 0 && !w.getLsbD 1 then e :: walkPath s va rest (fld w 50 16 * 65536) else [e]

namespace State

/-- The root table of an address space. -/
def root (s : State) (as : Nat) : Option Nat :=
  match tfind s.aspaces as with
  | some a => if a.root = 0 then none else some a.root
  | none => none
/-- The walk of the translation service core (R57). -/
def walk (s : State) (as va : Nat) : Option Leaf :=
  match s.root as with
  | some r => walkGo s va levels r
  | none => none

/-- The entry of a tile's translation buffer for an address. -/
def buffered (s : State) (l as va : Nat) : Option Tlb :=
  (s.tile l).tlb.find? (fun e => e.aspace == as && decide (e.base ≤ va ∧ va < e.base + e.size))

/-- The leaf a tile uses: its translation buffer's, else the walk's (R57, log 5). -/
def leafOf (s : State) (l as va : Nat) : Option Leaf :=
  match s.buffered l as va with
  | some e => some ⟨e.leaf, 0, e.base, e.size⟩
  | none => s.walk as va

/-- Put a leaf into a tile's buffer: the oldest of 64 entries makes room (log 5). -/
def fill (s : State) (l as : Nat) (f : Leaf) : State :=
  let x := s.tile l
  let old := x.tlb.filter (fun e => !(e.aspace == as && e.base == f.va))
  s.setTile l { x with tlb := (⟨as, f.va, f.size, f.word⟩ :: old).take 64 }

/-- The dirty-page log ring a leaf's first store goes to (R334): function, ring base, entries. -/
def logRing (s : State) (as : Nat) : Option (Nat × Func × Nat) :=
  match tfind s.aspaces as with
  | some a => match a.grant with
    | some f => match (s.func f).logSize with
      | some n => some (f, s.func f, n)
      | none => none
    | none => none
  | none => none

/-- Does a page-table entry that a walk of this address from a die reads stand behind a stalled link (R13)? -/
def walkFar (s : State) (d as va : Nat) : Bool :=
  match s.root as with
  | some r => (walkPath s va levels r).any (fun e => !s.homeOpen d e)
  | none => false
/-- The same for a tile's walk. -/
def walkBehind (s : State) (l as va : Nat) : Bool := s.walkFar (tileDie l) as va
/-- Does the translation of an address wait for a link? -/
def walkHeld (s : State) (l as va : Nat) : Bool := (s.buffered l as va).isNone && s.walkBehind l as va

/-- Is a store through a leaf the first to its page: neither the leaf nor the table's entry has D (R56)? -/
def firstStore (s : State) (as va : Nat) (f : Leaf) : Bool :=
  !f.bit 5 && !(match s.walk as va with | some w => w.bit 5 | none => false)
/-- Does a first store wait for a link, to the table or to the log ring in host memory (R13, R334)? -/
def dirtyHeld (s : State) (l as va : Nat) (f : Leaf) : Bool :=
  !f.bit 5 && (s.walkBehind l as va || ((s.logRing as).isSome && !s.hostLink (tileDie l)))

/-- The pages that stores at some addresses make dirty, each once. -/
def newlyDirty (s : State) (l as : Nat) (vas : List Nat) : List Nat :=
  (vas.filterMap (fun va => if !translated va then none else
    match s.leafOf l as va with
    | some f => if s.firstStore as va f then some f.va else none
    | none => none)).eraseDups
/-- Has the log ring room for all pages that stores at some addresses make dirty, if there are any (R334)? -/
def logFits (s : State) (l as : Nat) (vas : List Nat) : Bool :=
  match s.logRing as with
  | some (_, fn, n) =>
    let pages := s.newlyDirty l as vas
    pages.isEmpty || decide (fn.logTail - fn.logHead + pages.length ≤ 2 ^ n)
  | none => true
/-- Would a store through this leaf wait for room in a full log ring (R334)? -/
def logBlocks (s : State) (as va : Nat) (f : Leaf) : Bool :=
  match s.logRing as with
  | some (_, fn, n) => s.firstStore as va f && decide (fn.logTail - fn.logHead ≥ 2 ^ n)
  | none => false

/-- Append a log entry for a page: bits [63:16] of the address, and the address space (R334). -/
def logDirty (s : State) (as va : Nat) : State :=
  match s.logRing as with
  | some (f, fn, n) =>
    (s.setFunc f { fn with logTail := fn.logTail + 1 }).putNum
      (locHost + fn.logBase + 8 * (fn.logTail % 2 ^ n)) 8 (va / 65536 * 65536 + as)
  | none => s

/-- An access through a leaf was made: the tile's buffer holds the leaf, and the first store sets D in
the table and logs the page (R56, R57, R334). -/
def touch (s : State) (l as va : Nat) (store : Bool) : State :=
  if !translated va then s else
  match s.leafOf l as va with
  | none => s
  | some f =>
    if store && !f.bit 5 then
      let g : Leaf := { f with word := f.word ||| 0x20 }
      if s.firstStore as va f then
        let s := match s.walk as va with
          | some w => s.putNum w.entry 8 (w.word ||| 0x20).toNat
          | none => s
        (s.logDirty as f.va).fill l as g
      else s.fill l as g
    else if f.entry = 0 then s else s.fill l as f

end State

/-! ### The checks of R165 -/

/-- Kinds of an access by a thread (R165); engine operations have checks of their own below. -/
inductive Kind where
  | base | lds | ref
  deriving DecidableEq, Repr

/-- What an access does. -/
inductive Use where
  | load | store | amo
  deriving DecidableEq, Repr

/-- Where a location stands: in this device's memories, or in a peer's memory. -/
inductive Place where
  | loc (a : Nat)
  | peer (dev addr : Nat)
  deriving DecidableEq, Repr

/-- Why an access does not go through: a fault, an LDS's void, a watchpoint, an answer of a peer that
is still to come, a full log ring, or a stalled link between dies. -/
inductive Stop where
  | trap (cause : Nat) (tval : Word)
  | void
  | watch (i : Nat)
  | need (va : Word) (n dev addr : Nat) (kind : RemoteKind)
  | logFull
  | link
  deriving DecidableEq, Repr

/-- The die whose replica a core of a tile reads and plainly writes (R60). -/
def replicaDie (l repl : Nat) : Nat :=
  if repl.testBit (tileDie l) then tileDie l
  else ((List.range 4).find? (fun d => repl.testBit d)).getD 0
/-- Location of a replica: the same offset in each die's memory (R60). -/
def replicaLoc (d addr : Nat) : Nat := d * dieRange + addr % dieRange

/-- Where an address stands under its leaf (R58, R60). -/
def Leaf.place (f : Leaf) (l va : Nat) : Place :=
  let a := f.addr + (va - f.va)
  if f.cls = 3 then .loc (locHost + a)
  else if f.cls = 4 then .peer f.dev a
  else if f.cls = 5 then .loc (replicaLoc (replicaDie l f.repl) a)
  else .loc a

/-- Is [a, a + n) inside one of the thread's pin windows, writable if need be (R223)? -/
def Thread.pinned (th : Thread) (a n : Nat) (write : Bool) : Bool :=
  th.windows.any (fun w => decide (w.base ≤ a ∧ a + n ≤ w.base + w.size) && !(write && w.readOnly))

/-- The lowest offset of [off, off + n) of a cluster's scratchpad that a tile may not access (R54). -/
def State.ownerBlock (s : State) (l off n : Nat) : Option Nat :=
  let bad := (s.cluster (tileCluster l)).owns.filter (fun p =>
    p.2.state != .free && !(p.2.state == .held && p.2.holder == tileT l) &&
      decide (p.2.base < off + n ∧ off < p.2.base + 256 * p.2.len))
  (bad.map (fun p => max off p.2.base)).min?

/-- Do two ranges overlap? -/
def overlap (r : Nat × Nat) (a n : Nat) : Bool :=
  decide (0 < r.2 ∧ 0 < n ∧ r.1 < a + n ∧ a < r.1 + r.2)

/-- Does an access meet the tile's range-lock table so that it may not proceed (R78)? -/
def State.lockHit (s : State) (l a n : Nat) (u : Use) : Bool :=
  (s.tile l).locks.any (fun k => overlap k.dst a n || (u != .load && overlap k.src a n))

/-- Watchpoint that an access hits (R421, R422). -/
def Thread.watchHit (th : Thread) (a n : Nat) (u : Use) (data : Option Word) : Option Nat :=
  if th.skipCheck then none else
  (List.range 4).find? (fun i => match th.wp[i]? with
    | none => false
    | some w =>
      let len := fld w.ctl 31 0
      w.ctl.getLsbD 32 && overlap (w.base.toNat, len) a n &&
        ((u != .store && w.ctl.getLsbD 33) ||
         (u != .load && w.ctl.getLsbD 34 &&
           (!w.ctl.getLsbD 36 || match data with
             | some d => fld d (8 * n - 1) 0 == fld w.value (8 * n - 1) 0
             | none => true))))

/-- Checks 3 and 4 of R165 for a translated address: translation and permission, then region class. -/
def State.checkPage (s : State) (th : Thread) (va : Word) (n : Nat) (u : Use) (k : Kind) :
    Except Stop Place :=
  let a := va.toNat
  let fault (c : Nat) : Except Stop Place := if k = .lds then .error .void else .error (.trap c va)
  if s.walkHeld th.tile th.aspace a then .error .link else
  match s.leafOf th.tile th.aspace a with
  | none => fault (if u = .load then 13 else 15)
  | some f =>
    if (u != .store && !f.bit 2) || (u != .load && !f.bit 3) then fault (if u = .load then 13 else 15)
    else if k = .ref ∧ f.cls ≠ 1 then .error (.trap (if u = .load then 5 else 7) va)
    else if k ≠ .ref ∧ f.cls = 1 ∧ !th.pinned a n (u != .load) then fault 49
    else if u = .amo ∧ f.cls = 5 then .error (.trap 55 va)
    else if u ≠ .load ∧ s.dirtyHeld th.tile th.aspace a f then .error .link
    else if u ≠ .load ∧ s.logBlocks th.aspace a f then .error .logFull
    else .ok (f.place th.tile a)

/-- Does traffic pass between a thread and a place (R9, R13)?  A birth from a weight of 1 also asks the scope's
home (R30), and an answer that has come needs no link again. -/
def State.placeOpen (s : State) (th : Thread) (va : Nat) : Place → Bool
  | .loc x => s.homeOpen (tileDie th.tile) x
  | .peer _ _ => th.peer.any (fun v => v.addr == va) || (s.fabricOpen (tileDie th.tile) &&
      ((th.rk 0).weight != 1 || s.linkOpen (tileDie th.tile) (scopeDie th.sid0)))

/-- All checks of R165 for an access of a thread, in their order, and where the access goes.  Check 7 is made
at the location's home, once a link lets the access through (R13), so that a load of a peer has passed it, and may hit
a watchpoint (R422), with the peer's answer (`readVal`).  An atomic is checked as a read first: misaligned it raises
cause 4, and in no window cause 5, DEDUCED from the order of R201 (log 59).  `data` is the value a store writes, for
watchpoints. -/
def State.access (s : State) (th : Thread) (va : Word) (n : Nat) (u : Use) (k : Kind)
    (data : Option Word := none) : Except Stop Place := do
  let a := va.toNat
  let soft (c : Nat) : Except Stop Unit := if k = .lds then .error .void else .error (.trap c va)
  if a % n ≠ 0 then .error (.trap (if u = .store then 6 else 4) va)
  else if (windowEnd a).isNone then do
    soft (if u = .store then 7 else 5)
    .error .void
  else
    let p ← if translated a then s.checkPage th va n u k
      else if k = .ref then .error (.trap (if u = .load then 5 else 7) va)
      else .ok (.loc (windowLoc th.tile a))
    if 0x10000000 ≤ a ∧ a < 0x10400000 ∧ (s.ownerBlock th.tile (a - 0x10000000) n).isSome then
      .error (.trap 25 va)
    else if s.lockHit th.tile a n u then do
      soft 24
      .error .void
    else if !s.placeOpen th a p then .error .link
    else match p with
      | .loc x =>
        if u ≠ .store then
          match s.poisonIn x n with
          | some b => if k = .lds then .error .void
                      else .error (.trap 30 (va + wOf (b - x)))
          | none => match th.watchHit a n u data with
            | some i => .error (.watch i)
            | none => .ok p
        else match th.watchHit a n u data with
          | some i => .error (.watch i)
          | none => .ok p
      | .peer _ _ => match (if u = .load then none else th.watchHit a n u data) with
        | some i => .error (.watch i)
        | none => .ok p

/-- read(a, n, kind) of R165: the value, little-endian.  DESIGN CHOICE (log 16): an LDS that a peer refuses or never
acknowledges raises cause 55, as a load does (R415). -/
def State.readVal (s : State) (th : Thread) (va : Word) (n : Nat) (k : Kind) : Except Stop Nat := do
  let p ← s.access th va n .load k
  match p with
  | .loc x => .ok (s.numAt x n)
  | .peer dev addr =>
    match th.peer.find? (fun v => v.addr == va.toNat && v.n == n && !v.amo) with
    | some v => match v.ans with
      | .ok => match th.watchHit va.toNat n .load none with
        | some i => .error (.watch i)
        | none => .ok (leNat v.bs)
      | .poisoned => if k = .lds then .error .void else .error (.trap 30 va)
      | .failed => .error (.trap 55 va)
    | none => .error (.need va n dev addr .load)

/-- Several reads, all checked before any value is used. -/
def State.readVals (s : State) (th : Thread) (k : Kind) : List (Word × Nat) → Except Stop (List Nat)
  | [] => .ok []
  | (va, n) :: rest => do
    let v ← s.readVal th va n k
    let vs ← s.readVals th k rest
    .ok (v :: vs)

/-- The tile's buffer after reads at some addresses (R57). -/
def State.touched (s : State) (th : Thread) (store : Bool) (vas : List Word) : State :=
  vas.foldl (fun s va => s.touch th.tile th.aspace va.toNat store) s

/-- A remote operation starts: it is born from k0 and goes out over the fabric (R31, R336). -/
def State.startRemote (s : State) (t : Nat) (th : Thread) (va n dev addr : Nat) (kind : RemoteKind) :
    Nat × Thread × State :=
  let (w, th, s) := s.birth th 0
  let r : Remote := ⟨s.nextOp, th.tile, t, th.tid t, dev, addr, va, n, kind, th.sid0, w, s.time, false⟩
  (s.nextOp, th, ({ s with remotes := s.remotes ++ [r], nextOp := s.nextOp + 1 }).send
    (.remote r.id dev addr n kind))

/-- Are writes to peers under way that have not landed (R68, R336)?  Those of every thread count, since a
thread may have acquired another's. -/
def State.storesOut (s : State) : Bool :=
  s.remotes.any (fun r => match r.kind with | .store _ => true | _ => false)
/-- Does a release at a reach wait: at FABRIC and above every earlier write at a peer lands first (R68, R83)? -/
def State.releaseHeld (s : State) (reach : Nat) : Bool := decide (4 ≤ reach) && s.storesOut
/-- The number of a reach code (R3). -/
def Reach.num (r : Reach) : Nat := r.bits.toNat

/-- A write that passed its checks is performed: at its location, or sent to the peer (R165, R31). -/
def State.performWrite (s : State) (t : Nat) (th : Thread) (p : Place) (va : Word) (n v : Nat) :
    Thread × State :=
  match p with
  | .loc x => (th, (s.touch th.tile th.aspace va.toNat true).putNum x n v)
  | .peer dev addr =>
    let (_, th, s) := (s.touch th.tile th.aspace va.toNat true).startRemote t th va.toNat n dev addr
      (.store (leBytes n v))
    (th, s)

/-- A store waits for room in a full log ring: the device says so once, and the thread is stalled (R334). -/
def State.logWait (s : State) (t : Nat) (th : Thread) : State :=
  (if s.devEvents.getLsbD 0 then s else s.event (tileDie th.tile) 0).stall t th

/-- What a thread does when an access stops it.  An LDS handles its void itself. -/
def State.stop (s : State) (t : Nat) (th : Thread) : Stop → State
  | .trap c v => s.trap t th c v
  | .void => s.stall t th
  | .watch i => s.haltThread t th (.watchpoint i)
      (match th.wp[i]? with | some w => w.ctl.getLsbD 35 | none => false) ((th.wpBy[i]?).getD 0)
  | .need va n dev addr kind =>
    let (id, th, s) := s.startRemote t th va.toNat n dev addr kind
    s.setTh t { th with remoteOut := some id, stalled := true }
  | .logFull => s.logWait t th
  | .link => s.stall t th

/-- The word at pc, with the fetch checks of R430, or what stops the fetch.  A word of a PEER page is read by a
remote operation, as a load is (log 16). -/
def State.fetch (s : State) (th : Thread) : Except Stop W32 :=
  let a := th.pc.toNat
  if !translated a then .error (.trap 1 th.pc)
  else if s.walkHeld th.tile th.aspace a then .error .link
  else match s.leafOf th.tile th.aspace a with
    | none => .error (.trap 12 th.pc)
    | some f =>
      let p := f.place th.tile a
      if !f.bit 4 then .error (.trap 12 th.pc)
      else if !s.placeOpen th a p then .error .link
      else match p with
        | .loc x => match s.poisonIn x 4 with
          | some b => .error (.trap 30 (th.pc + wOf (b - x)))
          | none => .ok (BitVec.ofNat 32 (s.numAt x 4))
        | .peer dev addr => match th.peer.find? (fun v => v.addr == a && v.n == 4 && !v.amo) with
          | some v => match v.ans with
            | .ok => .ok (BitVec.ofNat 32 (leNat v.bs))
            | .poisoned => .error (.trap 30 th.pc)
            | .failed => .error (.trap 55 th.pc)
          | none => .error (.need th.pc 4 dev addr .load)

/-! ### Engine ranges (R165 kind ENGINE, R384) -/

/-- First byte of [a, e) that lies in no window. -/
def offWindow : Nat → Nat → Nat → Option Nat
  | 0, _, _ => none
  | fuel + 1, a, e =>
    if e ≤ a then none
    else match windowEnd a with
      | none => some a
      | some w => offWindow fuel w e

/-- The pieces of [a, e) by page, with the leaf of each translated one (check 3 of R165). -/
def State.enginePages (s : State) (l as : Nat) (write : Bool) : Nat → Nat → Nat →
    Except (Nat × Nat) (List (Nat × Nat × Option Leaf))
  | 0, _, _ => .ok []
  | fuel + 1, a, e =>
    if e ≤ a then .ok []
    else if !translated a then
      let w := min e ((windowEnd a).getD e)
      do
        let rest ← s.enginePages l as write fuel w e
        .ok ((a, w - a, none) :: rest)
    else match s.leafOf l as a with
      | none => .error (if write then 15 else 13, a)
      | some f =>
        if !f.bit (if write then 3 else 2) then .error (if write then 15 else 13, a)
        else
          let w := min e (f.va + f.size)
          do
            let rest ← s.enginePages l as write fuel w e
            .ok ((a, w - a, some f) :: rest)

/-- First byte of [a, e) outside the thread's pin windows (R223). -/
def unpinned (ws : List Window) (write : Bool) : Nat → Nat → Nat → Option Nat
  | 0, _, _ => none
  | fuel + 1, a, e =>
    if e ≤ a then none
    else match ws.find? (fun w => decide (w.base ≤ a ∧ a < w.base + w.size) && !(write && w.readOnly)) with
      | some w => unpinned ws write fuel (w.base + w.size) e
      | none => some a

/-- Check 4 of R165 over the pieces of a range: HEAP pages pinned, no plain write of a REPLICA page
(log 19). -/
def engineClass (th : Thread) (write : Bool) : List (Nat × Nat × Option Leaf) → Option (Nat × Nat)
  | [] => none
  | (a, n, some f) :: rest =>
    if f.cls = 1 then match unpinned th.windows write 10 a (a + n) with
      | some b => some (49, b)
      | none => engineClass th write rest
    else if f.cls = 5 ∧ write then some (55, a)
    else engineClass th write rest
  | (_, _, none) :: rest => engineClass th write rest

/-- Check 5 of R165 over the pieces of a range. -/
def State.engineOwner (s : State) (l : Nat) : List (Nat × Nat × Option Leaf) → Option (Nat × Nat)
  | [] => none
  | (a, n, f) :: rest =>
    if f.isNone ∧ 0x10000000 ≤ a ∧ a < 0x10400000 then
      match s.ownerBlock l (a - 0x10000000) n with
      | some b => some (25, 0x10000000 + b)
      | none => s.engineOwner l rest
    else s.engineOwner l rest

/-- A piece of a range as the engine will use it (R385). -/
def segOf (l : Nat) : Nat × Nat × Option Leaf → Seg
  | (a, n, none) => ⟨a, n, none, windowLoc l a, (0, 0)⟩
  | (a, n, some f) => match f.place l a with
    | .loc x => ⟨a, n, none, x, (f.va, f.size)⟩
    | .peer dev addr => ⟨a, n, some dev, addr, (f.va, f.size)⟩

/-- The checks of R165 with kind ENGINE over a range, without check 6 (R205): cause and lowest failing
byte, or the pieces of the range. -/
def State.engineRange (s : State) (th : Thread) (a n : Nat) (write : Bool) :
    Except (Nat × Nat) (List Seg) :=
  if n = 0 then .ok []
  else match offWindow 8 a (a + n) with
    | some b => .error (if write then 7 else 5, b)
    | none => match s.enginePages th.tile th.aspace write (n / 65536 + 8) a (a + n) with
      | .error e => .error e
      | .ok ps => match engineClass th write ps with
        | some e => .error e
        | none => match s.engineOwner th.tile ps with
          | some e => .error e
          | none => .ok (ps.map (segOf th.tile))

/-- Does the translation of a range wait for a link (R13)? -/
def State.rangeHeld (s : State) (th : Thread) (a n : Nat) (write : Bool) : Bool :=
  decide (0 < n) && !(List.range 4).all (fun d => !s.stalledDie d) &&
    (List.range ((a + n - 1) / 65536 + 1 - a / 65536)).any (fun i =>
      let va := max a ((a / 65536 + i) * 65536)
      translated va && (s.walkHeld th.tile th.aspace va || (write &&
        (match s.leafOf th.tile th.aspace va with
          | some f => s.dirtyHeld th.tile th.aspace va f
          | none => false))))

/-- The tile's buffer after an engine range was checked. -/
def State.touchSegs (s : State) (th : Thread) (store : Bool) (gs : List Seg) : State :=
  gs.foldl (fun s g => s.touch th.tile th.aspace g.va store) s

/-- Location of a virtual address under the pieces of a range. -/
def segLoc (gs : List Seg) (va : Nat) : Option (Option Nat × Nat × Nat) :=
  (gs.find? (fun g => decide (g.va ≤ va ∧ va < g.va + g.len))).map
    (fun g => (g.peer, g.at_ + (va - g.va), g.va + g.len - va))

/-- The runs of locations of [va, va + n) under some pieces: owner, location, length. -/
def segRuns (gs : List Seg) : Nat → Nat → Nat → List (Option Nat × Nat × Nat)
  | 0, _, _ => []
  | fuel + 1, va, n =>
    if n = 0 then []
    else match segLoc gs va with
      | none => []
      | some (p, x, left) =>
        let m := min n left
        (p, x, m) :: segRuns gs fuel (va + m) (n - m)

end Sys2Proof.Machine
end

