-- ==== Sys2Proof/Machine/Flags.lean ====
section
/-! DEFINITION. Flags: how F instructions accrue fflags and choose their rounding mode (R146, R158), and
the status words of scopes, tags, buffers and the array. -/

namespace Sys2Proof.Machine

/-- The rounding mode of an instruction: its own field, or frm; frm 5 to 7 has none (R146). -/
def roundMode (rm : Rm) (frm : BitVec 3) : Option Round :=
  match rm with
  | .rne => some .rne | .rtz => some .rtz | .rdn => some .rdn | .rup => some .rup | .rmm => some .rmm
  | .dyn => match frm with
    | 0 => some .rne | 1 => some .rtz | 2 => some .rdn | 3 => some .rup | 4 => some .rmm | _ => none

/-- fflags accrue (R146). -/
def Thread.accrue (th : Thread) (fl : BitVec 5) : Thread := { th with fflags := th.fflags ||| fl }

def ScopeState.code : ScopeState → Nat
  | .free => 0 | .opened => 1 | .closing => 2 | .joined => 3
def HKind.code : HKind → Nat
  | .empty => 0 | .birth => 1 | .opener => 2 | .entered => 3 | .closed => 4

/-- The status word of a scope seen through a handle (R179). -/
def statusWord (c : Scope) (kind : HKind) (cancelled : Bool) : Word :=
  wOf ((if c.succeeded then c.winner else 0) * 2 ^ 32 + (if c.faulted then c.cause else 0) * 2 ^ 24
    + c.depth * 2 ^ 16 + kind.code * 2 ^ 5 + (if c.faulted then 16 else 0)
    + (if c.succeeded then 8 else 0) + (if cancelled then 4 else 0) + c.state.code)

def TaskState.code : TaskState → Nat
  | .free => 0 | .created => 1 | .published => 2 | .ready => 3 | .running => 4 | .done => 5
  | .discarded => 6
/-- The word of TSKSTAT (R185). -/
def taskWord (x : Task) : Word :=
  wOf ((if x.state = .created then x.pending.getD 0 else 0) * 2 ^ 32 + x.count * 2 ^ 16 + x.state.code)

/-- The status word of a SET tag (R212). -/
def tagWord (n status bytes : Nat) : Word := wOf (2 ^ 63 + status * 2 ^ 38 + n * 2 ^ 32 + bytes)

/-- The configuration and state words of a buffer (R62). -/
def Cb.cfgWord (c : Cb) : Word := wOf (c.count * 2 ^ 32 + c.slotu * 2 ^ 21 + c.base)
def Cb.stateWord (c : Cb) : Word := wOf (c.pidx * 2 ^ 40 + c.cidx * 2 ^ 32 + c.free * 2 ^ 16 + c.fill)
/-- Bytes of a slot. -/
def Cb.slot (c : Cb) : Nat := c.slotu * 64

/-- The word of BSTAT (R217). -/
def Own.word (o : Own) : Word :=
  let st := match o.state with | .free => 0 | .held => 1 | .offered => 2
  wOf (st * 2 ^ 48 + o.recip * 2 ^ 44 + o.holder * 2 ^ 40 + o.len * 2 ^ 23 + o.base)

def Last.code : Last → Nat
  | .none => 0 | .running => 1 | .complete => 2 | .cancelled => 3 | .faulted => 4
/-- The word of MXSTAT (R263). -/
def mxWord (x : Tile) (st : AccStat) : Word :=
  let a := match x.active.state with | .empty => 0 | .valid => 1 | .invalid => 2 | .loading => 0
  let s := match x.shadow.state with | .empty => 0 | .loading => 1 | .valid => 2 | .invalid => 3
  wOf (x.active.fmt * 2 ^ 36 + a * 2 ^ 34 + x.shadow.fmt * 2 ^ 30 + s * 2 ^ 28
    + (if st.sat then 2 ^ 19 else 0) + st.last.code * 2 ^ 16 + st.rows)

/-- The placement of a thread as PLACE shows it (R159). -/
def Thread.place (th : Thread) (dev : Nat) : Word :=
  let ctx := match th.loc with | .resident c => c | _ => 0
  wOf (dev * 2 ^ 13 + th.tile * 2 ^ 3 + (if th.cls = .compute then 4 else 0) + ctx)

/-- An instruction's own word, as UTVAL holds it (R366, R371). -/
def wordOf (i : Instr) : Word := (encode i).setWidth 64

/-- Are engine operations of a thread under way (R66, R73, R249)? -/
def State.engineBusy (s : State) (l tid : Nat) : Bool :=
  let x := s.tile l
  x.copies.any (fun c => c.tid == tid) || x.weightQ.any (fun c => c.tid == tid) ||
    x.rowQ.any (fun c => c.tid == tid)
/-- Are remote operations of a thread in flight (R336)? -/
def State.remoteBusy (s : State) (tid : Nat) : Bool := s.remotes.any (fun r => r.tid == tid)
/-- Are stores of a thread under way: writes to peers, or rows of its MXWB commands (R73, R249)? -/
def State.storesBusy (s : State) (l tid : Nat) : Bool :=
  s.remotes.any (fun r => r.tid == tid && match r.kind with | .store _ => true | _ => false) ||
    (s.tile l).rowQ.any (fun c => c.tid == tid && match c.op with | .wb _ _ _ _ _ _ => true | _ => false)

end Sys2Proof.Machine
end

