-- ==== Sys2Proof/Machine/Issue.lean ====
section
/-! DEFINITION. Issue on a core: the rotation over contexts (R299), the watchdog's fault (R374), delivery of a
pending matrix fault (R391), breakpoints (R422), the fetch (R430), decoding under the thread's encoding version
(R366), and time: clocks, counters, watchdogs and time flits as ticks pass (R12, R161 to R163, R338, R373). -/

namespace Sys2Proof.Machine

/-- May a thread issue from its context (R299, R424)?  A waiting thread may not, nor one that is stalled at
issue, halted, being saved, ended, or waiting for a peer's answer. -/
def Thread.canIssue (th : Thread) : Bool :=
  (match th.loc with | .resident _ => true | _ => false) &&
  th.wait.isNone && th.halted.isNone && !th.saving && th.remoteOut.isNone && !th.stalled && !th.ending

namespace State

/-- The thread in a context of a core. -/
def inCtx (s : State) (l : Nat) (c : CoreClass) (x : Nat) : Option (Nat × Thread) :=
  s.threads.find? (fun p => p.2.tile == l && p.2.cls == c && p.2.loc == .resident x)
/-- Number of the context a core issued from last. -/
def lastOf (s : State) (l : Nat) (c : CoreClass) : Nat :=
  let p := (s.tile l).lastCtx
  if c = .stage then p.1 else p.2
/-- The first context after the last one issued whose thread may issue (R299). -/
def pick (s : State) (l : Nat) (c : CoreClass) : Option (Nat × Nat × Thread) :=
  [1, 2, 3, 4].findSome? (fun i =>
    let x := (s.lastOf l c + i) % 4
    match s.inCtx l c x with
    | some (t, th) => if th.canIssue then some (x, t, th) else none
    | none => none)
/-- Could the thread of a context not issue, so that it is passed over: it is stalled at issue, and no operation
of it is out to a peer (R299, R373)? -/
def passedOver (s : State) (t : Nat) : Bool :=
  match s.thread? t with | some th => th.stalled && th.remoteOut.isNone && !th.ending | none => false
/-- Remember the context issued. -/
def issued (s : State) (l : Nat) (c : CoreClass) (x _t : Nat) : State :=
  let y := s.tile l
  s.setTile l { y with lastCtx := if c = .stage then (x, y.lastCtx.2) else (y.lastCtx.1, x) }
/-- An instruction stalled at issue is issued again from the start: what it has read of peers is dropped.  What an
atomic or an arrival did at a peer stays, since it has been sent (R374, R376). -/
def restarts (s : State) (t : Nat) : State :=
  match s.thread? t with
  | some th => if s.passedOver t then s.setTh t { th with peer := th.peer.filter (·.amo) } else s
  | none => s

/-- Enabled breakpoint at pc, with its ACTION (R421, R422).  An instruction that a peer has answered has been
issued already. -/
def bpAt (th : Thread) : Option (Nat × Bool) :=
  if th.skipCheck || !th.peer.isEmpty then none else
  (((List.range 8).zip th.bp.toList).find? (fun p => p.2.getLsbD 0 && fld p.2 63 2 == fld th.pc 63 2)).map
    (fun p => (p.1, p.2.getLsbD 1))

/-- Deliver a MATRIX_OPERAND fault held for the instruction boundary (R391). -/
def deliverMx (s : State) (t : Nat) (th : Thread) (v : Word) (rest : List Word) : State :=
  s.trap t { th with pendMx := rest } 56 v

/-- What a core does before it decodes: a state in which no instruction was executed, or the word
fetched and the state it is executed in.  The watchdog's fault comes at the boundary after the count reached
2^30 (R374), and before a matrix fault held for the same boundary (log 44). -/
def issueThread (s : State) (t : Nat) (th : Thread) : Except State (W32 × State) :=
  if th.peer.isEmpty && decide (2 ^ 30 ≤ th.watch) then .error (s.trap t th 54 (wOf (2 ^ 30)))
  else match (if th.peer.isEmpty then th.pendMx else []) with
  | v :: rest => .error (s.deliverMx t th v rest)
  | [] => match bpAt th with
    | some (i, whole) => .error (s.haltThread t th (.breakpoint i) whole ((th.bpBy[i]?).getD 0))
    | none => match s.fetch th with
      | .error e => .error (s.stop t th e)
      | .ok w => .ok (w, { s.touch th.tile th.aspace th.pc.toNat false with cur := some t })

/-- A word that is no instruction under the thread's version: cause 57 where another version has it,
else 2, with the word as value (R366). -/
def unassigned (s : State) (t : Nat) (th : Thread) (w : W32) : State :=
  s.trap t th (if assignedSomewhere w then 57 else 2) (w.setWidth 64)

/-- After an instruction: no thread is current, one stalled at issue starts over, and what a debugger asked for
takes effect. -/
def afterIssue (s : State) (t : Nat) (old : Thread) : State := (({ s with cur := none } : State).restarts t).ended t old

/-! ### Time -/

/-- Is a thread of this scope in fault service (R375)? -/
def inService0 (s : State) (sid : Nat) : Bool := s.threads.any (fun p => p.2.service && p.2.sid0 == sid)
/-- STATE of a thread is RUNNABLE (R373). -/
def runnable (th : Thread) : Bool :=
  (match th.loc with | .resident _ => true | _ => false) && !th.saving &&
  (match th.wait with | none => true | some w => match w.kind with | .steal _ => true | _ => false)

/-- STATE of a context that a thread holds: RUNNABLE, WAITING or SAVING (R298). -/
def stateCode (th : Thread) : Nat := if th.saving then 3 else if runnable th then 1 else 2
/-- The entry of a context of a core, zero while it is FREE (R298). -/
def ctxEntry (s : State) (l : Nat) (c : CoreClass) (x : Nat) : Word :=
  match s.inCtx l c x with
  | some (t, th) => wOf (t * 2 ^ 40 + th.latlim * 2 ^ 24 + th.slice * 2 ^ 8 + th.prio * 2 ^ 5 + stateCode th)
  | none => 0

/-- Watchdogs count, and the deadlines of halted waits move (R373, R426). -/
def ageThreads (s : State) (n : Nat) : State :=
  { s with threads := s.threads.map (fun p =>
      let th := p.2
      if th.halted.isSome then
        (p.1, { th with wait := th.wait.map (fun w => { w with start := w.start + n }) })
      else if runnable th && !s.inService0 th.sid0 then (p.1, { th with watch := th.watch + n })
      else p) }

/-- Increment of NCYC a cycle, 16.16 (R163). -/
def ncycStep (mhz : Nat) : Nat :=
  if mhz = 1800 then 0x10000 else if mhz = 1500 then 0x13333 else if mhz = 1200 then 0x18000 else 0x20000
/-- Length of a cycle in units of 1/18 ns (R163). -/
def cycleLen (mhz : Nat) : Nat := if mhz = 1800 then 10 else if mhz = 1500 then 12 else if mhz = 1200 then 15 else 20
/-- A die's counters after some units of 1/18 ns at the frequency it has (R161, R163). -/
def runCycles (u : Nat) (d : Die) : Die :=
  let p := d.phase + u
  let k := p / cycleLen d.mhz
  { d with phase := p % cycleLen d.mhz, cycle := (d.cycle + k) % 2 ^ 64
           ncyc := (d.ncyc + k * ncycStep d.mhz) % 2 ^ 80 }
/-- A new frequency applies, and the links stall for 2,000 ticks (R13, R342). -/
def relock (d : Die) (mhz at_ : Nat) : Die :=
  { d with mhz := mhz, nextMhz := none, stallUntil := max d.stallUntil (at_ + 2000) }
/-- A die after n ticks: a step waits for the end of the current cycle (R342). -/
def ageDie (time n : Nat) (d : Die) : Die :=
  match d.nextMhz with
  | none => runCycles (18 * n) d
  | some mhz =>
    let left := cycleLen d.mhz - d.phase
    if 18 * n < left then runCycles (18 * n) d
    else runCycles (18 * n - left) (relock (runCycles left d) mhz (time + (left + 17) / 18))

/-- The fabric's time master sends a time flit over every link that works, once in each 1 µs (R338); a port whose
FIFOs stall forms none meanwhile (R13, log 49). -/
def timeFlits (s : State) (old : Nat) : State :=
  if !s.timeMaster then s else
  (List.range (s.time / 1000 - old / 1000)).foldl (fun s i =>
    (((List.range 18).filter (fun p => decide (0 < s.portLanes p) && !s.stalledDie (portDie p))).foldl (fun s p =>
      s.send (.timeFlit p ((old / 1000 + 1 + i) * 1000))) s)) s

/-- Time passes: n nanoseconds, of which TIMEBASE leaves out the ticks it must lose (R338), and what waited for the end
of a stall goes on to D0 (R13). -/
def tick (s : State) (n : Nat) : State :=
  let m := n - s.slew
  let old := s.time
  let s := s.ageThreads m
  ({ s with time := s.time + m, slew := s.slew - n
            dies := s.dies.map (fun p => (p.1, ageDie old n p.2)) } : State).timeFlits old |>.drainPosts

/-- The host writes its own memory (R327). -/
def hostWrite (s : State) (a : Nat) (bs : List Byte) : State :=
  if a + bs.length ≤ 2 ^ 51 then s.putBytes (locHost + a) bs else s

/-- The thread that the host's probe runs: in context 0 of tile 0's compute core, birth scope 1. -/
def freshThread (pc : Word) (v : Version) : Thread :=
  { fresh 1 pc 0 1 0x10000000000 .compute 0 with ver := v, loc := .resident 0 }

end State
end Sys2Proof.Machine
end

