-- ==== Sys2Proof/Machine/Plan.lean ====
section
/-! DEFINITION. The turns a step draws up when the schedule is empty (log 1): one fair round, in which
every core issues once, every step of the device's own that could be due has a turn, and a tick passes.
A step that turns out not to be enabled leaves the device as it is (log 2). -/

namespace Sys2Proof.Machine

/-- An event's turn on one number. -/
def Turn.on (i : Instr) (n : Nat) : Turn := .event i (.num n)
/-- The events of a list, each on one number. -/
def Turn.all (is : List Instr) (n : Nat) : List Turn := is.map (fun i => Turn.on i n)

namespace State

/-- Every core that has a thread issues once (R299). -/
def issueTurns (s : State) : List Turn :=
  ((s.threads.filter (fun p => p.2.canIssue)).map (fun p => (p.2.tile, p.2.cls))).eraseDups.map
    (fun p => .issue p.1 p.2)

/-- What may befall a thread outside its own instructions. -/
def threadTurns (s : State) : List Turn :=
  s.threads.flatMap (fun p =>
    let th := p.2
    (if th.stalled then Turn.all [.issueStallEnd] p.1 else []) ++
    (match th.wait with
      | none => []
      | some _ => if th.loc = .parked then Turn.all [.parkedWake] p.1
          else Turn.all [.waitReevaluate, .waitTimeout] p.1) ++
    (if th.pendMx.isEmpty then [] else Turn.all [.matrixOperandDelivery] p.1) ++
    (if th.saving || th.slice != 0 then Turn.all [.sliceExpiry] p.1 else []) ++
    (if 2 ^ 30 ≤ th.watch then Turn.all [.watchdog] p.1 else []))

/-- What a cluster's scheduler may do: dispatch, and pre-empt for a latency limit (R297, R300). -/
def clusterTurns (s : State) : List Turn :=
  s.clusters.flatMap (fun p => if p.2.ready.isEmpty then [] else Turn.all [.latlimExpiry, .taskDispatch] p.1)

/-- The steps of a tile's array at the heads of its queues. -/
def arrayTurns (l : Nat) (x : Tile) : List Turn :=
  (match x.weightQ.head? with
    | none => []
    | some c => if c.cancelled then [.event .arrayCancelStop (.num2 l c.id)]
        else Turn.all [.arrayMxldwStart, .arrayMxldwSlot] l ++ [.event .arrayPoisonFault (.num2 l 0)]) ++
  (match x.rowQ.head? with
    | none => []
    | some c => if c.cancelled then
          .event .arrayCancelStop (.num2 l c.id) :: (if c.op == .swap then Turn.all [.arrayMxswapRun] l else [])
        else (match c.op with
          | .swap => Turn.all [.arrayMxswapRun] l
          | .zero _ => Turn.all [.arrayMxzeroRun] l
          | .wb _ _ _ _ _ _ => Turn.all [.arrayMxwbRow] l
          | _ => Turn.all [.arrayStreamHeadCheck, .arrayRowEnter] l) ++
          [.event .arrayPoisonFault (.num2 l 1)]) ++
  (if x.rowsIn.isEmpty then [] else Turn.all [.arrayRowUpdate] l)

/-- What a tile's engines and its retirement tracker may do. -/
def tileTurns (s : State) : List Turn :=
  s.tiles.flatMap (fun p =>
    p.2.copies.flatMap (fun c =>
      [.event .copyPieceWrite (.num2 p.1 c.id), .event .copyFinish (.num2 p.1 c.id)]) ++
    arrayTurns p.1 p.2 ++
    p.2.tracker.map (fun e => .event .trackerReturn (.num2 p.1 e.tid)))

/-- What a die's Weevil and its clock may do. -/
def dieTurns (s : State) : List Turn :=
  s.dies.flatMap (fun p =>
    (match p.2.weevil.head? with
      | none => []
      | some r => (if r.abandon then [.event .relocAbandon (.num3 p.1 r.heap r.index)] else []) ++
          Turn.all [.weevilSliceCopy, .weevilPassEnd, .flipWindowClose] p.1) ++
    (if p.2.stallUntil = 0 then [] else Turn.all [.clockStallEnd] p.1) ++
    (if p.2.coolSince.isSome then Turn.all [.thermalStepUp] p.1 else []) ++
    (if p.2.limitSince.isSome then Turn.all [.thermal] p.1 else []))

/-- The event that carries out a command the Kiln took, by opcode (R330). -/
def cmdEvent (op : Nat) : List Instr :=
  match op with
  | 0x02 => [.kill] | 0x03 => [.waitToken] | 0x04 => [.createHeap] | 0x05 => [.destroyHeap]
  | 0x06 => [.createStream] | 0x07 => [.destroyStream] | 0x08 => [.aspaceSet] | 0x09 => [.aspaceInval]
  | 0x0A => [.threshold] | 0x0B => [.setClock] | 0x0C => [.groupSet]
  | _ => []

/-- What the Kiln may do: carry out what it took, post completions, take the next command. -/
def kilnTurns (s : State) : List Turn :=
  s.cmds.flatMap (fun p => match p.2.phase with
    | .taken | .draining _ => Turn.all (cmdEvent p.2.op) p.1
    | _ => []) ++
  s.queues.flatMap (fun p => Turn.all [.completionPost] p.1) ++
  (if s.queues.any (fun p => p.2.enable) then [.event .kilnTake .none] else [])

/-- Weight on its way home, and remote operations past their time. -/
def travelTurns (s : State) : List Turn :=
  s.returns.map (fun _ => Turn.on .weightReturn 0) ++
  s.remotes.flatMap (fun r => Turn.all [.remoteTimeout] r.id)

/-- Debug mailboxes with requests that are still to be answered (R418). -/
def debugTurns (s : State) : List Turn :=
  s.funcs.flatMap (fun p => if p.2.dbgWait.isEmpty then [] else [.debug p.1])

/-- A fair round, and then a tick. -/
def plan (s : State) : List Turn :=
  s.issueTurns ++ s.threadTurns ++ s.clusterTurns ++ s.tileTurns ++ s.dieTurns ++ s.kilnTurns ++
    s.travelTurns ++ s.debugTurns ++ [.tick 1]

end State
end Sys2Proof.Machine
end

