-- ==== Sys2Proof/Machine/Base.lean ====
section
/-! DEFINITION. The scalar base without F and CSRs (R140, R142, R143) and void words (R147 to R156). -/

namespace Sys2Proof.Machine

/-! ### Shapes -/

/-- rd := f of two x registers; void in, void out (R150). -/
def aluRR (rd rs1 rs2 : XReg) (f : Word → Word → Word) (s : State) : Out :=
  withTh s fun t th =>
    let a := th.rx rs1; let b := th.rx rs2
    if a.void || b.void then s.nullifyX t th rd sawProp
    else s.done t (th.wx rd (.of (f a.val b.val)))

/-- rd := f of one x register; void in, void out (R150). -/
def aluRI (rd rs1 : XReg) (f : Word → Word) (s : State) : Out :=
  withTh s fun t th =>
    let a := th.rx rs1
    if a.void then s.nullifyX t th rd sawProp else s.done t (th.wx rd (.of (f a.val)))

/-- The thread at a target that was checked. -/
def Thread.goto (th : Thread) (target : Word) : Thread := { th.advance with pc := target }

/-- A jump or taken branch: a target that is not a multiple of 4 raises cause 0 (R140). -/
def State.jump (s : State) (t : Nat) (th : Thread) (target : Word) (link : Thread → Thread) : State :=
  if fld target 1 0 ≠ 0 then s.trap t th 0 target else s.setTh t (link (th.goto target))

/-- Byte offset of an immediate counted in half-words. -/
def offset {n : Nat} (imm : BitVec n) : Word := (imm ++ 0#1).signExtend 64

/-- A conditional branch; a void operand falls through (R150). -/
def branch (rs1 rs2 : XReg) (imm : BitVec 12) (c : Word → Word → Bool) (s : State) : Out :=
  withTh s fun t th =>
    let a := th.rx rs1; let b := th.rx rs2
    if a.void || b.void then s.nullify t th sawBranch
    else if c a.val b.val then s.jump t th (th.pc + offset imm) id
    else s.done t th

/-- A 32-bit operation, its result sign-extended. -/
def on32 (f : W32 → W32 → W32) (a b : Word) : Word :=
  (f (a.setWidth 32) (b.setWidth 32)).signExtend 64

/-- rd := a loaded value, extended by `ext` (R142, R150, R165). -/
def load (rd rs1 : XReg) (imm : BitVec 12) (n : Nat) (ext : Nat → Word) (s : State) : Out :=
  withTh s fun t th =>
    let a := th.rx rs1
    if a.void then s.nullifyX t th rd (sawProp ||| sawMem)
    else
      let va := a.val + imm.signExtend 64
      match s.readVal th va n .base with
      | .error e => s.stop t th e
      | .ok v => (s.touched th false [va]).done t (th.wx rd (.of (ext v)))

/-- Store the low n bytes of a word (R142, R150, R165). -/
def store (rs1 rs2 : XReg) (imm : BitVec 12) (n : Nat) (s : State) : Out :=
  withTh s fun t th =>
    let a := th.rx rs1; let d := th.rx rs2
    if a.void || d.void then s.nullify t th sawMem
    else
      let va := a.val + imm.signExtend 64
      match s.access th va n .store .base (some d.val) with
      | .error e => s.stop t th e
      | .ok p =>
        let (th, s) := s.performWrite t th p va n d.val.toNat
        s.done t th

/-- Signed division as the base has it: by zero all ones, overflow wraps. -/
def divS {n : Nat} (a b : BitVec n) : BitVec n :=
  if b = 0 then BitVec.allOnes n else BitVec.ofInt n (a.toInt.tdiv b.toInt)
def divU {n : Nat} (a b : BitVec n) : BitVec n := if b = 0 then BitVec.allOnes n else a / b
/-- Signed remainder as the base has it: by zero the dividend, overflow zero. -/
def remS {n : Nat} (a b : BitVec n) : BitVec n :=
  if b = 0 then a else BitVec.ofInt n (a.toInt.tmod b.toInt)
def remU {n : Nat} (a b : BitVec n) : BitVec n := if b = 0 then a else a % b
/-- High half of a 128-bit product. -/
def mulHigh (p : Int) : Word := BitVec.ofInt 64 (p >>> (64 : Nat))
/-- 1 or 0. -/
def boolW (b : Bool) : Word := if b then 1 else 0

/-! ### Immediates and jumps -/

def execLui (rd : XReg) (imm : BitVec 20) (s : State) : Out :=
  withTh s fun t th => s.done t (th.wx rd (.of ((imm ++ 0#12).signExtend 64)))
def execAuipc (rd : XReg) (imm : BitVec 20) (s : State) : Out :=
  withTh s fun t th => s.done t (th.wx rd (.of (th.pc + (imm ++ 0#12).signExtend 64)))
def execJal (rd : XReg) (imm : BitVec 20) (s : State) : Out :=
  withTh s fun t th => s.jump t th (th.pc + offset imm) (fun g => g.wx rd (.of (th.pc + 4)))
def execJalr (rd rs1 : XReg) (imm : BitVec 12) (s : State) : Out :=
  withTh s fun t th =>
    let a := th.rx rs1
    if a.void then s.nullifyX t th rd (sawJump ||| sawProp)
    else s.jump t th ((a.val + imm.signExtend 64) &&& ~~~1) (fun g => g.wx rd (.of (th.pc + 4)))

def execBeq (rs1 rs2 : XReg) (imm : BitVec 12) (s : State) : Out := branch rs1 rs2 imm (fun a b => a == b) s
def execBne (rs1 rs2 : XReg) (imm : BitVec 12) (s : State) : Out := branch rs1 rs2 imm (fun a b => a != b) s
def execBlt (rs1 rs2 : XReg) (imm : BitVec 12) (s : State) : Out := branch rs1 rs2 imm (fun a b => a.slt b) s
def execBge (rs1 rs2 : XReg) (imm : BitVec 12) (s : State) : Out := branch rs1 rs2 imm (fun a b => !a.slt b) s
def execBltu (rs1 rs2 : XReg) (imm : BitVec 12) (s : State) : Out := branch rs1 rs2 imm (fun a b => a.ult b) s
def execBgeu (rs1 rs2 : XReg) (imm : BitVec 12) (s : State) : Out := branch rs1 rs2 imm (fun a b => !a.ult b) s

/-! ### Loads and stores -/

def execLb (rd rs1 : XReg) (imm : BitVec 12) (s : State) : Out := load rd rs1 imm 1 (sextN 8) s
def execLh (rd rs1 : XReg) (imm : BitVec 12) (s : State) : Out := load rd rs1 imm 2 (sextN 16) s
def execLw (rd rs1 : XReg) (imm : BitVec 12) (s : State) : Out := load rd rs1 imm 4 (sextN 32) s
def execLd (rd rs1 : XReg) (imm : BitVec 12) (s : State) : Out := load rd rs1 imm 8 wOf s
def execLbu (rd rs1 : XReg) (imm : BitVec 12) (s : State) : Out := load rd rs1 imm 1 wOf s
def execLhu (rd rs1 : XReg) (imm : BitVec 12) (s : State) : Out := load rd rs1 imm 2 wOf s
def execLwu (rd rs1 : XReg) (imm : BitVec 12) (s : State) : Out := load rd rs1 imm 4 wOf s
def execSb (rs1 rs2 : XReg) (imm : BitVec 12) (s : State) : Out := store rs1 rs2 imm 1 s
def execSh (rs1 rs2 : XReg) (imm : BitVec 12) (s : State) : Out := store rs1 rs2 imm 2 s
def execSw (rs1 rs2 : XReg) (imm : BitVec 12) (s : State) : Out := store rs1 rs2 imm 4 s
def execSd (rs1 rs2 : XReg) (imm : BitVec 12) (s : State) : Out := store rs1 rs2 imm 8 s

/-! ### Arithmetic -/

def execAddi (rd rs1 : XReg) (imm : BitVec 12) (s : State) : Out :=
  aluRI rd rs1 (fun a => a + imm.signExtend 64) s
def execSlti (rd rs1 : XReg) (imm : BitVec 12) (s : State) : Out :=
  aluRI rd rs1 (fun a => boolW (a.slt (imm.signExtend 64))) s
def execSltiu (rd rs1 : XReg) (imm : BitVec 12) (s : State) : Out :=
  aluRI rd rs1 (fun a => boolW (a.ult (imm.signExtend 64))) s
def execXori (rd rs1 : XReg) (imm : BitVec 12) (s : State) : Out :=
  aluRI rd rs1 (fun a => a ^^^ imm.signExtend 64) s
def execOri (rd rs1 : XReg) (imm : BitVec 12) (s : State) : Out :=
  aluRI rd rs1 (fun a => a ||| imm.signExtend 64) s
def execAndi (rd rs1 : XReg) (imm : BitVec 12) (s : State) : Out :=
  aluRI rd rs1 (fun a => a &&& imm.signExtend 64) s
def execSlli (rd rs1 : XReg) (sh : BitVec 6) (s : State) : Out := aluRI rd rs1 (fun a => a <<< sh.toNat) s
def execSrli (rd rs1 : XReg) (sh : BitVec 6) (s : State) : Out := aluRI rd rs1 (fun a => a >>> sh.toNat) s
def execSrai (rd rs1 : XReg) (sh : BitVec 6) (s : State) : Out :=
  aluRI rd rs1 (fun a => a.sshiftRight sh.toNat) s
def execAddiw (rd rs1 : XReg) (imm : BitVec 12) (s : State) : Out :=
  aluRI rd rs1 (fun a => (a.setWidth 32 + imm.signExtend 32).signExtend 64) s
def execSlliw (rd rs1 : XReg) (sh : BitVec 5) (s : State) : Out :=
  aluRI rd rs1 (fun a => (a.setWidth 32 <<< sh.toNat).signExtend 64) s
def execSrliw (rd rs1 : XReg) (sh : BitVec 5) (s : State) : Out :=
  aluRI rd rs1 (fun a => (a.setWidth 32 >>> sh.toNat).signExtend 64) s
def execSraiw (rd rs1 : XReg) (sh : BitVec 5) (s : State) : Out :=
  aluRI rd rs1 (fun a => ((a.setWidth 32).sshiftRight sh.toNat).signExtend 64) s

def execAdd (rd rs1 rs2 : XReg) (s : State) : Out := aluRR rd rs1 rs2 (· + ·) s
def execSub (rd rs1 rs2 : XReg) (s : State) : Out := aluRR rd rs1 rs2 (· - ·) s
def execSll (rd rs1 rs2 : XReg) (s : State) : Out := aluRR rd rs1 rs2 (fun a b => a <<< (b.toNat % 64)) s
def execSlt (rd rs1 rs2 : XReg) (s : State) : Out := aluRR rd rs1 rs2 (fun a b => boolW (a.slt b)) s
def execSltu (rd rs1 rs2 : XReg) (s : State) : Out := aluRR rd rs1 rs2 (fun a b => boolW (a.ult b)) s
def execXor (rd rs1 rs2 : XReg) (s : State) : Out := aluRR rd rs1 rs2 (· ^^^ ·) s
def execSrl (rd rs1 rs2 : XReg) (s : State) : Out := aluRR rd rs1 rs2 (fun a b => a >>> (b.toNat % 64)) s
def execSra (rd rs1 rs2 : XReg) (s : State) : Out :=
  aluRR rd rs1 rs2 (fun a b => a.sshiftRight (b.toNat % 64)) s
def execOr (rd rs1 rs2 : XReg) (s : State) : Out := aluRR rd rs1 rs2 (· ||| ·) s
def execAnd (rd rs1 rs2 : XReg) (s : State) : Out := aluRR rd rs1 rs2 (· &&& ·) s
def execAddw (rd rs1 rs2 : XReg) (s : State) : Out := aluRR rd rs1 rs2 (on32 (· + ·)) s
def execSubw (rd rs1 rs2 : XReg) (s : State) : Out := aluRR rd rs1 rs2 (on32 (· - ·)) s
def execSllw (rd rs1 rs2 : XReg) (s : State) : Out :=
  aluRR rd rs1 rs2 (on32 fun a b => a <<< (b.toNat % 32)) s
def execSrlw (rd rs1 rs2 : XReg) (s : State) : Out :=
  aluRR rd rs1 rs2 (on32 fun a b => a >>> (b.toNat % 32)) s
def execSraw (rd rs1 rs2 : XReg) (s : State) : Out :=
  aluRR rd rs1 rs2 (on32 fun a b => a.sshiftRight (b.toNat % 32)) s
def execMul (rd rs1 rs2 : XReg) (s : State) : Out := aluRR rd rs1 rs2 (· * ·) s
def execMulh (rd rs1 rs2 : XReg) (s : State) : Out :=
  aluRR rd rs1 rs2 (fun a b => mulHigh (a.toInt * b.toInt)) s
def execMulhsu (rd rs1 rs2 : XReg) (s : State) : Out :=
  aluRR rd rs1 rs2 (fun a b => mulHigh (a.toInt * b.toNat)) s
def execMulhu (rd rs1 rs2 : XReg) (s : State) : Out :=
  aluRR rd rs1 rs2 (fun a b => mulHigh ((a.toNat : Int) * b.toNat)) s
def execDiv (rd rs1 rs2 : XReg) (s : State) : Out := aluRR rd rs1 rs2 divS s
def execDivu (rd rs1 rs2 : XReg) (s : State) : Out := aluRR rd rs1 rs2 divU s
def execRem (rd rs1 rs2 : XReg) (s : State) : Out := aluRR rd rs1 rs2 remS s
def execRemu (rd rs1 rs2 : XReg) (s : State) : Out := aluRR rd rs1 rs2 remU s
def execMulw (rd rs1 rs2 : XReg) (s : State) : Out := aluRR rd rs1 rs2 (on32 (· * ·)) s
def execDivw (rd rs1 rs2 : XReg) (s : State) : Out := aluRR rd rs1 rs2 (on32 divS) s
def execDivuw (rd rs1 rs2 : XReg) (s : State) : Out := aluRR rd rs1 rs2 (on32 divU) s
def execRemw (rd rs1 rs2 : XReg) (s : State) : Out := aluRR rd rs1 rs2 (on32 remS) s
def execRemuw (rd rs1 rs2 : XReg) (s : State) : Out := aluRR rd rs1 rs2 (on32 remU) s

/-! ### Fences -/

/-- A fence (R73): with both sets non-empty it waits for the engine operations of its predecessor set, and for
its stores: those sent to peers and the rows of MXWB commands (R249).  All that is performed before any
successor access, whatever the reach; the machine performs the thread's other accesses in program order
(log 4). -/
def fence (_reach : Nat) (pred succ : BitVec 3) (s : State) : Out :=
  withTh s fun t th =>
    if pred ≠ 0 ∧ succ ≠ 0 ∧
        ((pred.getLsbD 2 && s.engineBusy th.tile (th.tid t)) ||
         (pred.getLsbD 1 && s.storesBusy th.tile (th.tid t))) then s.stall t th
    else s.done t th

/-- The base FENCE: DIE reach, all kinds in both sets; its fields are ignored (R143). -/
def execFence (_fm _pred _succ : BitVec 4) (_rd _rs1 : XReg) (s : State) : Out := fence 2 7 7 s

def execFenceReach (r : Reach) (pred succ : BitVec 3) (s : State) : Out := fence (Reach.num r) pred succ s

/-! ### Void words and the jump table -/

def execVoid (rd : XReg) (s : State) : Out := withTh s fun t th => s.done t (th.wx rd .voidword)
def execVtest (rd rs1 : XReg) (s : State) : Out :=
  withTh s fun t th => s.done t (th.wx rd (.of (boolW (th.rx rs1).void)))

/-- BVOID and BNVOID (R154). -/
def voidBranch (rs1 : XReg) (imm : BitVec 12) (want : Bool) (s : State) : Out :=
  withTh s fun t th =>
    if (th.rx rs1).void = want then s.jump t th (th.pc + offset imm) id else s.done t th
def execBvoid (rs1 : XReg) (imm : BitVec 12) (s : State) : Out := voidBranch rs1 imm true s
def execBnvoid (rs1 : XReg) (imm : BitVec 12) (s : State) : Out := voidBranch rs1 imm false s

/-- JTAB (R155, R156).  A length of 0 or below faults before nullification (R149). -/
def execJtab (rs1 rs2 : XReg) (imm : BitVec 12) (s : State) : Out :=
  withTh s fun t th =>
    if imm.toInt ≤ 0 then s.trap t th 2 (wordOf (.jtab rs1 rs2 imm))
    else
      let i := th.rx rs1; let b := th.rx rs2
      if i.void || b.void then s.nullify t th sawJump
      else if imm.toNat ≤ i.val.toNat then s.done t th
      else
        let ea := b.val + 4 * i.val
        match s.readVal th ea 4 .base with
        | .error (.trap _ _) => s.trap t th 31 ea
        | .error e => s.stop t th e
        | .ok v => (s.touched th false [ea]).jump t th (th.pc + sextN 32 v) id

end Sys2Proof.Machine
end

