-- ==== Sys2Proof/Machine/BaseF.lean ====
section
/-! DEFINITION. The F instructions of the base (R140, R146, R150). -/

namespace Sys2Proof.Machine

/-! ### Shapes: a void source makes the destination void and raises nothing -/

/-- The f destination becomes void (R150). -/
def State.nullifyF (s : State) (t : Nat) (th : Thread) (rd : FReg) (bits : BitVec 6) : State :=
  s.done t ((th.wf rd .voidword).see bits)

/-- A result and its flags into an f register. -/
def putF (s : State) (t : Nat) (th : Thread) (rd : FReg) (r : W32 × BitVec 5) : State :=
  s.done t ((th.wf rd (.of r.1)).accrue r.2)
/-- A result and its flags into an x register. -/
def putX (s : State) (t : Nat) (th : Thread) (rd : XReg) (r : Word × BitVec 5) : State :=
  s.done t ((th.wx rd (.of r.1)).accrue r.2)
/-- With the rounding mode of an instruction; dynamic frm 5 to 7 is illegal (R146). -/
def rounded (s : State) (t : Nat) (th : Thread) (rm : Rm) (i : Instr) (k : Round → State) : State :=
  match roundMode rm th.frm with
  | some md => k md
  | none => s.trap t th 2 (wordOf i)

/-- f := op of two f registers, rounded.  DEDUCED (log 35): nullification comes before the instruction's own check of
its rounding mode (R363), here and in the other base F instructions. -/
def fOp2 (rd rs1 rs2 : FReg) (rm : Rm) (i : Instr) (f : Round → W32 → W32 → W32 × BitVec 5) (s : State) : Out :=
  withTh s fun t th =>
    let a := th.rf rs1; let b := th.rf rs2
    if a.void || b.void then s.nullifyF t th rd sawProp
    else rounded s t th rm i fun md => putF s t th rd (f md a.val b.val)
/-- f := op of three f registers, rounded once. -/
def fOp3 (rd rs1 rs2 rs3 : FReg) (rm : Rm) (i : Instr) (negP negC : Bool) (s : State) : Out :=
  withTh s fun t th =>
    let a := th.rf rs1; let b := th.rf rs2; let c := th.rf rs3
    if a.void || b.void || c.void then s.nullifyF t th rd sawProp
    else rounded s t th rm i fun md => putF s t th rd (ffma32 md negP negC a.val b.val c.val)
/-- f := op of two f registers, no rounding mode. -/
def fBits2 (rd rs1 rs2 : FReg) (f : W32 → W32 → W32 × BitVec 5) (s : State) : Out :=
  withTh s fun t th =>
    let a := th.rf rs1; let b := th.rf rs2
    if a.void || b.void then s.nullifyF t th rd sawProp else putF s t th rd (f a.val b.val)
/-- x := a comparison of two f registers. -/
def fCmp (rd : XReg) (rs1 rs2 : FReg) (f : W32 → W32 → Bool × BitVec 5) (s : State) : Out :=
  withTh s fun t th =>
    let a := th.rf rs1; let b := th.rf rs2
    if a.void || b.void then s.nullifyX t th rd sawProp
    else
      let r := f a.val b.val
      putX s t th rd (boolW r.1, r.2)
/-- x := a function of one f register, no rounding mode. -/
def fToX (rd : XReg) (rs1 : FReg) (f : W32 → Word) (s : State) : Out :=
  withTh s fun t th =>
    let a := th.rf rs1
    if a.void then s.nullifyX t th rd sawProp else s.done t (th.wx rd (.of (f a.val)))
/-- x := an integer of range [lo, hi], sign-extended from n bits. -/
def fToInt (rd : XReg) (rs1 : FReg) (rm : Rm) (i : Instr) (n : Nat) (lo hi : Int) (s : State) : Out :=
  withTh s fun t th =>
    let a := th.rf rs1
    if a.void then s.nullifyX t th rd sawProp
    else rounded s t th rm i fun md =>
      let r := fcvtInt md lo hi a.val
      putX s t th rd ((BitVec.ofInt n r.1).signExtend 64, r.2)
/-- f := an integer read from an x register. -/
def intToF (rd : FReg) (rs1 : XReg) (rm : Rm) (i : Instr) (f : Word → Int) (s : State) : Out :=
  withTh s fun t th =>
    let a := th.rx rs1
    if a.void then s.nullifyF t th rd sawProp
    else rounded s t th rm i fun md => putF s t th rd (fcvtOf md (f a.val))

/-! ### Loads and stores -/

def execFlw (rd : FReg) (rs1 : XReg) (imm : BitVec 12) (s : State) : Out :=
  withTh s fun t th =>
    let a := th.rx rs1
    if a.void then s.nullifyF t th rd (sawProp ||| sawMem)
    else
      let va := a.val + imm.signExtend 64
      match s.readVal th va 4 .base with
      | .error e => s.stop t th e
      | .ok v => (s.touched th false [va]).done t (th.wf rd (.of (BitVec.ofNat 32 v)))
def execFsw (rs1 : XReg) (rs2 : FReg) (imm : BitVec 12) (s : State) : Out :=
  withTh s fun t th =>
    let a := th.rx rs1; let d := th.rf rs2
    if a.void || d.void then s.nullify t th sawMem
    else
      let va := a.val + imm.signExtend 64
      match s.access th va 4 .store .base (some (d.val.setWidth 64)) with
      | .error e => s.stop t th e
      | .ok p =>
        let (th, s) := s.performWrite t th p va 4 d.val.toNat
        s.done t th

/-! ### Arithmetic -/

def execFmaddS (rd rs1 rs2 rs3 : FReg) (rm : Rm) (s : State) : Out :=
  fOp3 rd rs1 rs2 rs3 rm (.fmaddS rd rs1 rs2 rs3 rm) false false s
def execFmsubS (rd rs1 rs2 rs3 : FReg) (rm : Rm) (s : State) : Out :=
  fOp3 rd rs1 rs2 rs3 rm (.fmsubS rd rs1 rs2 rs3 rm) false true s
def execFnmsubS (rd rs1 rs2 rs3 : FReg) (rm : Rm) (s : State) : Out :=
  fOp3 rd rs1 rs2 rs3 rm (.fnmsubS rd rs1 rs2 rs3 rm) true false s
def execFnmaddS (rd rs1 rs2 rs3 : FReg) (rm : Rm) (s : State) : Out :=
  fOp3 rd rs1 rs2 rs3 rm (.fnmaddS rd rs1 rs2 rs3 rm) true true s
def execFaddS (rd rs1 rs2 : FReg) (rm : Rm) (s : State) : Out :=
  fOp2 rd rs1 rs2 rm (.faddS rd rs1 rs2 rm) fadd32 s
def execFsubS (rd rs1 rs2 : FReg) (rm : Rm) (s : State) : Out :=
  fOp2 rd rs1 rs2 rm (.fsubS rd rs1 rs2 rm) fsub32 s
def execFmulS (rd rs1 rs2 : FReg) (rm : Rm) (s : State) : Out :=
  fOp2 rd rs1 rs2 rm (.fmulS rd rs1 rs2 rm) fmul32 s
def execFdivS (rd rs1 rs2 : FReg) (rm : Rm) (s : State) : Out :=
  fOp2 rd rs1 rs2 rm (.fdivS rd rs1 rs2 rm) fdiv32 s
def execFsqrtS (rd rs1 : FReg) (rm : Rm) (s : State) : Out :=
  withTh s fun t th =>
    let a := th.rf rs1
    if a.void then s.nullifyF t th rd sawProp
    else rounded s t th rm (.fsqrtS rd rs1 rm) fun md => putF s t th rd (fsqrt32 md a.val)

/-- A sign bit on the other bits of a word. -/
def withSign (neg : Bool) (a : W32) : W32 := (if neg then 0x80000000 else 0) ||| (a &&& 0x7FFFFFFF)
def execFsgnjS (rd rs1 rs2 : FReg) (s : State) : Out :=
  fBits2 rd rs1 rs2 (fun a b => (withSign (b.getLsbD 31) a, 0)) s
def execFsgnjnS (rd rs1 rs2 : FReg) (s : State) : Out :=
  fBits2 rd rs1 rs2 (fun a b => (withSign (!b.getLsbD 31) a, 0)) s
def execFsgnjxS (rd rs1 rs2 : FReg) (s : State) : Out :=
  fBits2 rd rs1 rs2 (fun a b => (withSign (a.getLsbD 31 != b.getLsbD 31) a, 0)) s
def execFminS (rd rs1 rs2 : FReg) (s : State) : Out := fBits2 rd rs1 rs2 (fminmax32 false) s
def execFmaxS (rd rs1 rs2 : FReg) (s : State) : Out := fBits2 rd rs1 rs2 (fminmax32 true) s
def execFeqS (rd : XReg) (rs1 rs2 : FReg) (s : State) : Out := fCmp rd rs1 rs2 feq32 s
def execFltS (rd : XReg) (rs1 rs2 : FReg) (s : State) : Out := fCmp rd rs1 rs2 flt32 s
def execFleS (rd : XReg) (rs1 rs2 : FReg) (s : State) : Out := fCmp rd rs1 rs2 fle32 s
def execFclassS (rd : XReg) (rs1 : FReg) (s : State) : Out := fToX rd rs1 fclass32 s
def execFmvXW (rd : XReg) (rs1 : FReg) (s : State) : Out := fToX rd rs1 (fun a => a.signExtend 64) s
def execFmvWX (rd : FReg) (rs1 : XReg) (s : State) : Out :=
  withTh s fun t th =>
    let a := th.rx rs1
    if a.void then s.nullifyF t th rd sawProp else s.done t (th.wf rd (.of (a.val.setWidth 32)))

def execFcvtWS (rd : XReg) (rs1 : FReg) (rm : Rm) (s : State) : Out :=
  fToInt rd rs1 rm (.fcvtWS rd rs1 rm) 32 (-2 ^ 31) (2 ^ 31 - 1) s
def execFcvtWuS (rd : XReg) (rs1 : FReg) (rm : Rm) (s : State) : Out :=
  fToInt rd rs1 rm (.fcvtWuS rd rs1 rm) 32 0 (2 ^ 32 - 1) s
def execFcvtLS (rd : XReg) (rs1 : FReg) (rm : Rm) (s : State) : Out :=
  fToInt rd rs1 rm (.fcvtLS rd rs1 rm) 64 (-2 ^ 63) (2 ^ 63 - 1) s
def execFcvtLuS (rd : XReg) (rs1 : FReg) (rm : Rm) (s : State) : Out :=
  fToInt rd rs1 rm (.fcvtLuS rd rs1 rm) 64 0 (2 ^ 64 - 1) s
def execFcvtSW (rd : FReg) (rs1 : XReg) (rm : Rm) (s : State) : Out :=
  intToF rd rs1 rm (.fcvtSW rd rs1 rm) (fun a => sint 32 a.toNat) s
def execFcvtSWu (rd : FReg) (rs1 : XReg) (rm : Rm) (s : State) : Out :=
  intToF rd rs1 rm (.fcvtSWu rd rs1 rm) (fun a => (a.toNat % 2 ^ 32 : Nat)) s
def execFcvtSL (rd : FReg) (rs1 : XReg) (rm : Rm) (s : State) : Out :=
  intToF rd rs1 rm (.fcvtSL rd rs1 rm) (fun a => a.toInt) s
def execFcvtSLu (rd : FReg) (rs1 : XReg) (rm : Rm) (s : State) : Out :=
  intToF rd rs1 rm (.fcvtSLu rd rs1 rm) (fun a => a.toNat) s

end Sys2Proof.Machine
end

