-- ==== Sys2Proof/Machine/MemOps.lean ====
section
/-! DEFINITION. Ordered, speculative and multicast accesses and atomics (R199 to R201). -/

namespace Sys2Proof.Machine

/-- LDA (R199): a load of n bytes, sign-extended.  Its acquire orders nothing more than agenda order
does (log 4). -/
def execLda (_r : Reach) (z : Size) (rd rs1 : XReg) (s : State) : Out :=
  withTh s fun t th =>
    let a := th.rx rs1
    if a.void then s.nullifyX t th rd (sawProp ||| sawMem)
    else match s.readVal th a.val z.bytes .base with
      | .error e => s.stop t th e
      | .ok v => (s.touched th false [a.val]).done t (th.wx rd (.of (sextN (8 * z.bytes) v)))

/-- STL (R199): a store of n bytes, after every write it releases has landed (R68). -/
def execStl (r : Reach) (z : Size) (rs1 rs2 : XReg) (s : State) : Out :=
  withTh s fun t th =>
    let a := th.rx rs1; let d := th.rx rs2
    if a.void || d.void then s.nullify t th sawMem
    else match s.access th a.val z.bytes .store .base (some d.val) with
      | .error e => s.stop t th e
      | .ok p =>
        if s.releaseHeld (Reach.num r) then s.stall t th
        else
          let (th, s) := s.performWrite t th p a.val z.bytes d.val.toNat
          s.done t th

/-- LDS (R199): a load that answers VOIDWORD where R165 says so. -/
def execLds (z : Size) (rd rs1 : XReg) (s : State) : Out :=
  withTh s fun t th =>
    let a := th.rx rs1
    if a.void then s.nullifyX t th rd (sawProp ||| sawMem)
    else match s.readVal th a.val z.bytes .lds with
      | .error .void => s.done t (th.wx rd .voidword)
      | .error e => s.stop t th e
      | .ok v => (s.touched th false [a.val]).done t (th.wx rd (.of (sextN (8 * z.bytes) v)))

/-- The locations an MCST writes, after the checks of a store with check 4 asking for REPLICA (R199). -/
def State.mcstPlaces (s : State) (th : Thread) (va : Word) (n : Nat) (data : Word) :
    Except Stop (List Nat) :=
  let a := va.toNat
  if a % n ≠ 0 then .error (.trap 6 va)
  else if (windowEnd a).isNone then .error (.trap 7 va)
  else if !translated a then .error (.trap 55 va)
  else if s.walkHeld th.tile th.aspace a then .error .link
  else match s.leafOf th.tile th.aspace a with
    | none => .error (.trap 15 va)
    | some f =>
      if !f.bit 3 then .error (.trap 15 va)
      else if f.cls ≠ 5 then .error (.trap 55 va)
      else if s.dirtyHeld th.tile th.aspace a f then .error .link
      else if s.logBlocks th.aspace a f then .error .logFull
      else if s.lockHit th.tile a n .store then .error (.trap 24 va)
      else
        let xs := ((List.range 4).filter (fun d => f.repl.testBit d)).map
          (fun d => replicaLoc d (f.addr + (a - f.va)))
        if xs.any (fun x => !s.homeOpen (tileDie th.tile) x) then .error .link
        else match th.watchHit a n .store (some data) with
          | some i => .error (.watch i)
          | none => .ok xs

/-- MCST (R60, R199): every replica is written. -/
def execMcst (z : Size) (rs1 rs2 : XReg) (s : State) : Out :=
  withTh s fun t th =>
    let a := th.rx rs1; let d := th.rx rs2
    if a.void || d.void then s.nullify t th sawMem
    else match s.mcstPlaces th a.val z.bytes d.val with
      | .error e => s.stop t th e
      | .ok xs => (xs.foldl (fun s x => s.putNum x z.bytes d.val.toNat)
          (s.touched th true [a.val])).done t th

/-- The new value of an atomic on w-bit values and whether it is written (R200). -/
def amoNew (op : BitVec 3) (w : Nat) (old b e : BitVec w) : BitVec w × Bool :=
  match op with
  | 0 => (old + b, true)
  | 1 => (b, true)
  | 2 => (b, old == e)
  | 3 => (if old.slt b then b else old, true)
  | 4 => (if b.slt old then b else old, true)
  | 5 => (old &&& b, true)
  | 6 => (old ||| b, true)
  | _ => (old ^^^ b, true)
/-- The same on numbers of n bytes. -/
def amoNat (op : BitVec 3) (n : Nat) (old b e : Nat) : Nat × Bool :=
  let r := amoNew op (8 * n) (BitVec.ofNat (8 * n) old) (BitVec.ofNat (8 * n) b) (BitVec.ofNat (8 * n) e)
  (r.1.toNat, r.2)

/-- Watchpoint that an atomic's read or write hits; `new` is the value it writes, if it writes (R421). -/
def Thread.amoWatch (th : Thread) (a n : Nat) (new : Option Nat) : Option Nat :=
  match th.watchHit a n .load none with
  | some i => some i
  | none => match new with
    | some v => th.watchHit a n .store (some (wOf v))
    | none => none

/-- Watchpoint that an atomic at a peer hits: `data` is the value it writes where that is known here, `sure`
says that it writes for certain, and `hit` is the free value for what only the peer knows (R421, log 16). -/
def Thread.peerWatch (th : Thread) (a n : Nat) (data : Option Word) (sure hit : Bool) : Option Nat :=
  let plain : Thread := { th with wp := th.wp.map (fun w => if w.ctl.getLsbD 36 then { w with ctl := 0 } else w) }
  match th.watchHit a n .load none with
  | some i => some i
  | none =>
    if hit then th.watchHit a n .store data
    else if !sure then none
    else if data.isSome then th.watchHit a n .store data
    else plain.watchHit a n .store none

/-- An atomic (R201): at the location's home, or at the peer, after every write it releases has landed (R68,
R72).  A peer that met poison or did not perform it makes it fault (R389, R415). -/
def atomic (r : Reach) (op : BitVec 3) (wd : AWidth) (rd rs1 rs2 : XReg) (s : State) : Out :=
  withTh s fun t th =>
    let a := th.rx rs1; let b := th.rx rs2; let e := th.rx rd
    let n := wd.bytes
    if a.void || b.void || (op == 2 && e.void) then s.nullifyX t th rd (sawProp ||| sawMem)
    else match s.access { th with skipCheck := true } a.val n .amo .base with
      | .error st => s.stop t th st
      | .ok (.loc x) =>
        if s.releaseHeld (Reach.num r) then s.stall t th else
        let old := s.numAt x n
        let (new, w) := amoNat op n old b.val.toNat e.val.toNat
        match th.amoWatch a.val.toNat n (if w then some new else none) with
        | some i => s.stop t th (.watch i)
        | none =>
          let s := s.touched th w [a.val]
          (if w then s.putNum x n new else s).done t (th.wx rd (.of (sextN (8 * n) old)))
      | .ok (.peer dev addr) =>
        match th.peer.find? (fun v => v.addr == a.val.toNat && v.n == n && v.amo) with
        | some v => match v.ans with
          | .ok => s.done t (th.wx rd (.of (sextN (8 * n) (leNat v.bs))))
          | .poisoned => s.trap t th 30 a.val
          | .failed => s.trap t th 55 a.val
        | none => match th.peerWatch a.val.toNat n (if op = 1 ∨ op = 2 then some b.val else none)
            (decide (op ≠ 2)) (Config.peerHit dev addr s.time) with
          | some i => s.stop t th (.watch i)
          | none =>
            if s.releaseHeld (Reach.num r) then s.stall t th
            else (s.touched th true [a.val]).stop t th (.need a.val n dev addr (.amo op b.val e.val))

def execAmoadd (r : Reach) (wd : AWidth) (rd rs1 rs2 : XReg) (s : State) : Out := atomic r 0 wd rd rs1 rs2 s
def execAmoswp (r : Reach) (wd : AWidth) (rd rs1 rs2 : XReg) (s : State) : Out := atomic r 1 wd rd rs1 rs2 s
def execAmocas (r : Reach) (wd : AWidth) (rd rs1 rs2 : XReg) (s : State) : Out := atomic r 2 wd rd rs1 rs2 s
def execAmomax (r : Reach) (wd : AWidth) (rd rs1 rs2 : XReg) (s : State) : Out := atomic r 3 wd rd rs1 rs2 s
def execAmomin (r : Reach) (wd : AWidth) (rd rs1 rs2 : XReg) (s : State) : Out := atomic r 4 wd rd rs1 rs2 s
def execAmoand (r : Reach) (wd : AWidth) (rd rs1 rs2 : XReg) (s : State) : Out := atomic r 5 wd rd rs1 rs2 s
def execAmoor (r : Reach) (wd : AWidth) (rd rs1 rs2 : XReg) (s : State) : Out := atomic r 6 wd rd rs1 rs2 s
def execAmoxor (r : Reach) (wd : AWidth) (rd rs1 rs2 : XReg) (s : State) : Out := atomic r 7 wd rd rs1 rs2 s

end Sys2Proof.Machine
end

