-- ==== Sys2Proof/Machine/CopyOps.lean ====
section
/-! DEFINITION. Copies: issue (R203 to R205), the engine's pieces and finish (R206, R207, R390). -/

namespace Sys2Proof.Machine

/-- A copy as its operands ask for it. -/
structure CopyReq where
  tag : Nat
  dst : Word
  src : Word
  lenWord : Word
  rows : Nat
  rowBytes : Nat
  sstep : Nat
  dstep : Nat
  multicast : Bool
  deriving DecidableEq, Repr

def CopyReq.n (r : CopyReq) : Nat := r.rows * r.rowBytes
/-- Bytes from the first to the last of `rows` rows at a step. -/
def spanOf (rows rowBytes step : Nat) : Nat := if rows = 0 then 0 else step * (rows - 1) + rowBytes
/-- A buffer designator's number (R203). -/
def designator (d : Word) : Option Nat :=
  if fld d 63 56 = 0xCB ∧ fld d 55 4 = 0 then some (fld d 3 0) else none

/-- Rows of an engine operation under the checks of R165, in row order (R204). -/
def State.engineRows (s : State) (th : Thread) (write : Bool) (a step rowBytes : Nat) :
    Nat → Except (Nat × Nat) (List Seg)
  | 0 => .ok []
  | n + 1 => do
    let g ← s.engineRows th write a step rowBytes n
    let h ← s.engineRange th (a + step * n) rowBytes write
    .ok (g ++ h)

/-- The destination a copy writes: its address and buffer, a fault, or a wait (R205). -/
def copyDest (x : Tile) (r : CopyReq) : Except (Option (Nat × Word)) (Nat × Option Nat) :=
  match (if r.multicast then none else designator r.dst) with
  | none => .ok (r.dst.toNat, none)
  | some b =>
    let d := x.cb b
    if d.count = 0 ∨ d.slot < r.n then .error (some (29, wOf b))
    else if x.copies.any (fun c => c.cb == some b) then .error none
    else if d.free = 0 then .error (some (29, wOf b))
    else .ok (d.base + d.pidx * d.slot, some b)

/-- A copy that passed its checks starts (R205): tag BUSY, weight born, range lock taken. -/
def State.startCopy (s : State) (t : Nat) (th : Thread) (r : CopyReq) (d : Nat) (cb : Option Nat)
    (gs gd : List Seg) : State :=
  let s := (s.touchSegs th false gs).touchSegs th true gd
  let (w, th, s) := s.birth th 0
  let c : Copy := ⟨s.nextOp, th.cls, r.tag, th.tid t, th.sid0, w, r.multicast, r.rows, r.rowBytes,
    r.src.toNat, d, r.sstep, r.dstep, gs, gd, cb, 0, s.scopeCancelled th.sid0, false, []⟩
  let x := s.tile th.tile
  let s := s.setTile th.tile { x with
    tags := tset x.tags (tagKey th.cls r.tag) .busy
    locks := x.locks ++ [⟨c.id, (c.src, spanOf r.rows r.rowBytes r.sstep), (d, spanOf r.rows r.rowBytes r.dstep)⟩]
    copies := x.copies ++ [c] }
  { s with nextOp := s.nextOp + 1 }.done t th

/-- Does the translation of some rows wait for a link (R13)? -/
def State.rowsHeld (s : State) (th : Thread) (write : Bool) (a step rowBytes rows : Nat) : Bool :=
  (List.range rows).any (fun i => s.rangeHeld th (a + step * i) rowBytes write)
/-- Does an operation read or write a peer or host memory, so that its issue is a release at FABRIC or SYSTEM
(R77, R83)? -/
def leavesDevice (gs : List Seg) : Bool := gs.any (fun g => g.peer.isSome || decide (locHost ≤ g.at_))

/-- A copy that passed its checks starts, or waits: for room in the log ring (R334), or for the writes it
releases (R77). -/
def State.admitCopy (s : State) (t : Nat) (th : Thread) (r : CopyReq) (d : Nat) (cb : Option Nat)
    (gs gd : List Seg) : State :=
  if !s.logFits th.tile th.aspace (gd.map (·.va)) then s.logWait t th
  else if leavesDevice (gs ++ gd) && s.storesOut then s.stall t th
  else s.startCopy t th r d cb gs gd

/-- Issue of a copy (R205). -/
def State.issueCopy (s : State) (t : Nat) (th : Thread) (r : CopyReq) : State :=
  let x := s.tile th.tile
  if 2 ^ 30 < r.n ∨ (1 < r.rows ∧ r.dstep < r.rowBytes) then s.trap t th 55 r.lenWord
  else if r.multicast ∧ (0x60000 ≤ r.dst.toNat ∨ 0x60000 < r.dst.toNat + r.n) then s.trap t th 55 r.dst
  else match copyDest x r with
    | .error (some (c, v)) => s.trap t th c v
    | .error none => s.stall t th
    | .ok (d, cb) =>
      if tfind x.tags (tagKey th.cls r.tag) = some .busy then s.stall t th
      else if r.n = 0 then
        let x := { x with tags := tset x.tags (tagKey th.cls r.tag) (.set 0 0) }
        (s.setTile th.tile (match cb with
          | some b => x.setCb b (x.cb b).produce
          | none => x)).done t th
      else if 16 ≤ x.locks.length then s.stall t th
      else if s.rowsHeld th false r.src.toNat r.sstep r.rowBytes r.rows ||
          s.rowsHeld th true d r.dstep r.rowBytes r.rows then s.stall t th
      else match s.engineRows th false r.src.toNat r.sstep r.rowBytes r.rows with
        | .error (c, v) => s.trap t th c (wOf v)
        | .ok gs => match s.engineRows th true d r.dstep r.rowBytes r.rows with
          | .error (c, v) => s.trap t th c (wOf v)
          | .ok gd =>
            if overlap (r.src.toNat, spanOf r.rows r.rowBytes r.sstep) d (spanOf r.rows r.rowBytes r.dstep) then
              s.trap t th 55 (wOf d)
            else s.admitCopy t th r d cb gs gd

/-- CPY and CPYMC: one row of x[rs3] bytes (R203). -/
def copyFlat (mc : Bool) (tag : Tag) (rs1 rs2 rs3 : XReg) (s : State) : Out :=
  withTh s fun t th =>
    let d := th.rx rs1; let a := th.rx rs2; let n := th.rx rs3
    if d.void || a.void || n.void then s.nullify t th sawMem
    else s.issueCopy t th ⟨tag.toNat, d.val, a.val, n.val, 1, n.val.toNat, 0, 0, mc⟩
def execCpy (tag : Tag) (rs1 rs2 rs3 : XReg) (s : State) : Out := copyFlat false tag rs1 rs2 rs3 s
def execCpymc (tag : Tag) (rs1 rs2 rs3 : XReg) (s : State) : Out := copyFlat true tag rs1 rs2 rs3 s

/-- CPY2D: rows under the shape word (R204). -/
def execCpy2d (tag : Tag) (rs1 rs2 rs3 : XReg) (s : State) : Out :=
  withTh s fun t th =>
    let d := th.rx rs1; let a := th.rx rs2; let w := th.rx rs3
    if d.void || a.void || w.void then s.nullify t th sawMem
    else s.issueCopy t th ⟨tag.toNat, d.val, a.val, w.val, fld w.val 63 52, fld w.val 51 34,
      8 * fld w.val 33 17, 8 * fld w.val 16 0, false⟩

/-! ### The engine -/

def Copy.total (c : Copy) : Nat := c.rows * c.rowBytes
/-- The next piece: source and destination address and length; it ends at a 256-byte boundary of the
destination or at the row's end (R206). -/
def Copy.piece (c : Copy) : Nat × Nat × Nat :=
  let row := c.done / c.rowBytes
  let off := c.done % c.rowBytes
  let d := c.dst + c.dstep * row + off
  (c.src + c.sstep * row + off, d, min (256 - d % 256) (c.rowBytes - off))

/-- A run of a piece with the virtual address it starts at. -/
def runsFrom : Nat → List (Option Nat × Nat × Nat) → List (Nat × Option Nat × Nat × Nat)
  | _, [] => []
  | va, (p, x, n) :: rest => (va, p, x, n) :: runsFrom (va + n) rest

/-- Bytes of a run of the source: here, or received from the peer. -/
def State.runBytes (s : State) (c : Copy) (r : Nat × Option Nat × Nat × Nat) : Option (List Byte) :=
  match r with
  | (_, none, x, n) => some (s.bytesAt x n)
  | (va, some _, _, n) => (c.got.find? (fun v => v.addr == va && v.n == n)).map (·.bs)

/-- A remote operation of a copy, under the copy's own weight (R206, R336). -/
def State.copyRemote (s : State) (l : Nat) (c : Copy) (dev addr va n : Nat) (kind : RemoteKind) : State :=
  ({ s with remotes := s.remotes ++ [(⟨s.nextOp, l, 0x100000, c.tid, dev, addr, va, n, kind, c.sid, 0,
      s.time, false⟩ : Remote)], nextOp := s.nextOp + 1 }).send (.remote s.nextOp dev addr n kind)

/-- Write the runs of a destination. -/
def State.writeRuns (s : State) (l : Nat) (c : Copy) :
    List (Nat × Option Nat × Nat × Nat) → List Byte → State
  | [], _ => s
  | (va, p, x, n) :: rest, bs =>
    let s := match p with
      | none => s.putClean x (bs.take n)
      | some dev => s.copyRemote l c dev x va n (.copyWrite c.id (bs.take n))
    State.writeRuns s l c rest (bs.drop n)

/-- Put a copy back into its tile. -/
def State.setCopy (s : State) (l : Nat) (c : Copy) : State :=
  let x := s.tile l
  s.setTile l { x with copies := x.copies.map (fun k => if k.id = c.id then c else k) }

/-- Does traffic pass between a tile and a run of a copy (R9, R13)?  What was received needs no link again. -/
def State.runOpen (s : State) (l : Nat) (got : Bool) (r : Nat × Option Nat × Nat × Nat) : Bool :=
  match r.2.1 with
  | none => s.homeOpen (tileDie l) r.2.2.1
  | some _ => got || s.fabricOpen (tileDie l)

/-- One piece of a copy (R206, R207, R390): its source is read, then it is written, each once its links are
open. -/
def State.copyPiece (s : State) (l : Nat) (c : Copy) : State :=
  let (sv, dv, n) := c.piece
  let srcs := runsFrom sv (segRuns c.srcSegs n sv n)
  let dsts := runsFrom dv (if c.multicast then [] else segRuns c.dstSegs n dv n)
  if srcs.any (fun r => !s.runOpen l (s.runBytes c r).isSome r) || dsts.any (fun r => !s.runOpen l false r) then s
  else if srcs.any (fun r => r.2.1.isNone && (s.poisonIn r.2.2.1 r.2.2.2).isSome) then
    s.setCopy l { c with failed := true }
  else match srcs.find? (fun r => (s.runBytes c r).isNone) with
    | some (va, some dev, x, m) => s.copyRemote l c dev x va m (.copyRead c.id)
    | _ =>
      let bs := (srcs.map (fun r => (s.runBytes c r).getD [])).flatten
      let s := s.setCopy l { c with done := c.done + n, got := [] }
      if c.multicast then
        ((clusterTiles (tileCluster l)).filter s.inService).foldl
          (fun s k => s.putClean (tlLoc k dv) bs) s
      else s.writeRuns l c dsts bs

/-- A copy of a tile by its operation number. -/
def State.copy? (s : State) (l id : Nat) : Option Copy := (s.tile l).copies.find? (fun c => c.id == id)

/-- COPY_PIECE_WRITE: (tile, operation). -/
def execCopyPieceWrite (s : State) : Out :=
  .next <| match s.input with
    | .num2 l id => match s.copy? l id with
      | some c => if c.cancelled || c.failed || decide (c.total ≤ c.done) || s.copyWaits l id true then s
                  else s.copyPiece l c
      | none => s
    | _ => s

/-- Status a copy finishes with, when it may (R37, R206, R390): 0 COMPLETE, 1 CANCELLED, 2 ERROR. -/
def State.copyStatus (s : State) (l : Nat) (c : Copy) : Option Nat :=
  if s.copyWaits l c.id false then none
  else if c.failed then some 2
  else if c.cancelled then some 1
  else if c.total ≤ c.done then some 0
  else none

/-- COPY_FINISH: (tile, operation). -/
def execCopyFinish (s : State) : Out :=
  .next <| match s.input with
    | .num2 l id => match s.copy? l id with
      | some c => match s.copyStatus l c with
        | some st => s.finishCopy l c st
        | none => s
      | none => s
    | _ => s

end Sys2Proof.Machine
end

