-- ==== Sys2Proof/Machine/RefOps.lean ====
section
/-! DEFINITION. References, descriptors and their caches, pins, QNEW, RELOC (R218 to R229, R306, R393,
R394) and the Weevil (R80, R307 to R311, R395). -/

namespace Sys2Proof.Machine

/-! ### References and descriptors -/

def refHeap (r : Word) : Nat := fld r 59 52
def refIndex (r : Word) : Nat := fld r 27 0
def refGen (r : Word) : Nat := fld r 39 28
/-- Object number; 0 is the null reference (R218). -/
def refObj (r : Word) : Nat := fld r 39 0
def refW (r : Word) : Bool := r.getLsbD 63
def refI (r : Word) : Bool := r.getLsbD 62
def refN (r : Word) : Bool := r.getLsbD 61
/-- A reference without tags (R226). -/
def mkRef (heap gen index : Nat) : Word := wOf (heap * 2 ^ 52 + gen * 2 ^ 28 + index)

/-- Location of a descriptor (R219). -/
def Heap.desc (h : Heap) (i : Nat) : Nat := h.table + 32 * i
/-- A descriptor from its three words (R219). -/
def descOf (w0 w1 w2 : Nat) : Desc :=
  ⟨w0 / 2 ^ 62 % 4, w0 % 2 ^ 56, w1 / 2 ^ 48 % 2 ^ 16, w1 / 2 ^ 28 % 4096, w1 % 2 ^ 27, w2 % 2 ^ 56⟩
def Desc.w0 (d : Desc) : Nat := d.state * 2 ^ 62 + d.addr
def Desc.w1 (d : Desc) : Nat := d.pins * 2 ^ 48 + d.gen * 2 ^ 28 + d.size

/-- What a reference resolves to: dead, poisoned at a descriptor's address, or a descriptor (R220). -/
inductive Resolved where
  | dead
  | poisoned (va : Nat)
  | live (h : Heap) (i : Nat) (d : Desc)
  deriving DecidableEq, Repr

namespace State

def readDesc (s : State) (a : Nat) : Desc := descOf (s.numAt a 8) (s.numAt (a + 8) 8) (s.numAt (a + 16) 8)
def writeDesc (s : State) (a : Nat) (d : Desc) : State :=
  ((s.putNum a 8 d.w0).putNum (a + 8) 8 d.w1).putNum (a + 16) 8 d.next
/-- Is a descriptor poisoned (R394)? -/
def descBad (s : State) (a : Nat) : Bool := (s.poisonIn a 32).isSome

/-- The heap and index of a reference that may name an object: what makes it dead before its descriptor
is read (R220). -/
def refTarget (s : State) (r : Word) : Option (Heap × Nat) :=
  if refObj r = 0 ∨ fld r 51 40 ≠ 0 then none
  else match tfind s.heaps (refHeap r) with
    | some h => if refIndex r < h.ndesc then some (h, refIndex r) else none
    | none => none

/-- Drop an object's entry from every descriptor cache (R306). -/
def invalidate (s : State) (heap i : Nat) : State :=
  { s with clusters := s.clusters.map (fun p =>
      (p.1, { p.2 with cache := p.2.cache.filter (fun e => e.1 != (heap, i)) })) }

/-- Resolution through a cluster's descriptor cache: the entry used comes first, the least recently used
of 4,096 makes room, and a FREE descriptor is not filled (R220, R306). -/
def resolve (s : State) (cl : Nat) (r : Word) : Resolved × State :=
  match s.refTarget r with
  | none => (.dead, s)
  | some (h, i) =>
    let c := s.cluster cl
    let key := (refHeap r, i)
    let fill (d : Desc) : State := s.setCluster cl { c with cache :=
      ((key, d) :: c.cache.filter (fun e => e.1 != key)).take 4096 }
    match c.cache.find? (fun e => e.1 == key) with
    | some (_, d) => (if d.gen = refGen r then .live h i d else .dead, fill d)
    | none =>
      if s.descBad (h.desc i) then (.poisoned (h.va + 32 * i), s)
      else
        let d := s.readDesc (h.desc i)
        if d.state = 0 then (.dead, s)
        else (if d.gen = refGen r then .live h i d else .dead, fill d)

/-- The descriptor home's own view of a reference (R228): a poisoned descriptor is dead (R394). -/
def resolveHome (s : State) (r : Word) : Option (Heap × Nat × Desc) :=
  match s.refTarget r with
  | none => none
  | some (h, i) =>
    let d := s.readDesc (h.desc i)
    if s.descBad (h.desc i) || d.state == 0 || d.gen != refGen r then none else some (h, i, d)

/-- Die of a descriptor's home. -/
def descDie (h : Heap) (i : Nat) : Nat := h.desc i / dieRange
/-- The relocation of an object, queued or running (R307). -/
def relocOf (s : State) (die heap i : Nat) : Option Reloc :=
  (s.die die).weevil.find? (fun r => r.heap == heap && r.index == i)
/-- Is the flip window of an object open (R310)? -/
def flipOpen (s : State) (die heap i : Nat) : Bool :=
  match s.relocOf die heap i with
  | some r => r.phase == .flipping
  | none => false

end State

/-! ### Loads and stores (R221, R222) -/

/-- QLD and QLDW: n bytes, sign-extended.  A weak reference whose descriptor is poisoned reads null (R394). -/
def refLoad (n : Nat) (rd : XReg) (rs1 : QReg) (rs2 : XReg) (s : State) : Out :=
  withTh s fun t th =>
    let o := th.rx rs2; let r := th.rq rs1
    if o.void then s.nullifyX t th rd (sawProp ||| sawMem)
    else
      let (res, s) := s.resolve (tileCluster th.tile) r
      match res with
      | .poisoned va => if refW r then s.done t (th.wx rd .voidword) else s.trap t th 30 (wOf va)
      | .dead => if refObj r = 0 ∨ refW r then s.done t (th.wx rd .voidword) else s.trap t th 48 r
      | .live _ _ d =>
        let off := o.val.toNat
        if off % n ≠ 0 then s.trap t th 4 o.val
        else if d.size < off + n then s.trap t th 5 o.val
        else match s.readVal th (wOf (d.addr + off)) n .ref with
          | .error e => s.stop t th e
          | .ok v => (s.touched th false [wOf (d.addr + off)]).done t (th.wx rd (.of (sextN (8 * n) v)))
def execQld (rd : XReg) (rs1 : QReg) (rs2 : XReg) (s : State) : Out := refLoad 8 rd rs1 rs2 s
def execQldw (rd : XReg) (rs1 : QReg) (rs2 : XReg) (s : State) : Out := refLoad 4 rd rs1 rs2 s

/-- Does a reference resolve to a live object?  A weak one that does not reads null (R221, R394). -/
def Resolved.isLive : Resolved → Bool
  | .live _ _ _ => true
  | _ => false

/-- QLDQ (R221): a weak reference to a dead object loads as null. -/
def execQldq (rd rs1 : QReg) (rs2 : XReg) (s : State) : Out :=
  withTh s fun t th =>
    let o := th.rx rs2; let r := th.rq rs1
    let cl := tileCluster th.tile
    if o.void then s.nullify t th sawMem
    else
      let (res, s) := s.resolve cl r
      match res with
      | .poisoned va => if refW r then s.done t (th.wq rd 0) else s.trap t th 30 (wOf va)
      | .dead => if refObj r = 0 ∨ refW r then s.done t (th.wq rd 0) else s.trap t th 48 r
      | .live _ _ d =>
        let off := o.val.toNat
        if off % 8 ≠ 0 then s.trap t th 4 o.val
        else if d.size < off + 8 then s.trap t th 5 o.val
        else match s.readVal th (wOf (d.addr + off)) 8 .ref with
          | .error e => s.stop t th e
          | .ok v =>
            let s := s.touched th false [wOf (d.addr + off)]
            if refW (wOf v) then
              let (res, s) := s.resolve cl (wOf v)
              s.done t (th.wq rd (if res.isLive then wOf v else 0))
            else s.done t (th.wq rd (wOf v))

/-- Put a relocation back into its die's queue. -/
def State.setReloc (s : State) (die : Nat) (r : Reloc) : State :=
  let d := s.die die
  s.setDie die { d with weevil := d.weevil.map (fun k => if k.heap = r.heap ∧ k.index = r.index then r else k) }
/-- Set the dirty bit of a slice (R80, R307). -/
def State.markDirty (s : State) (die heap i slice : Nat) : State :=
  match s.relocOf die heap i with
  | some r => if r.dirty.contains slice then s else s.setReloc die { r with dirty := slice :: r.dirty }
  | none => s

/-- A reference store of n bytes at offset `o` (R222). -/
def State.refStore (s : State) (t : Nat) (th : Thread) (n : Nat) (r o v : Word) : State :=
  let (res, s) := s.resolve (tileCluster th.tile) r
  match res with
  | .poisoned va => s.trap t th 30 (wOf va)
  | .dead => s.trap t th 48 r
  | .live h i d =>
    let off := o.toNat
    if refI r then s.trap t th 7 r
    else if off % n ≠ 0 then s.trap t th 6 o
    else if d.size < off + n then s.trap t th 7 o
    else
      let home := s.readDesc (h.desc i)
      let die := State.descDie h i
      if home.state = 3 ∨ s.flipOpen die (refHeap r) i then s.stall t th
      else
        let va := wOf ((if home.state = 2 then home.addr else d.addr) + off)
        match s.access th va n .store .ref (some v) with
        | .error e => s.stop t th e
        | .ok p =>
          let (th, s) := s.performWrite t th p va n v.toNat
          (if home.state = 2 then s.markDirty die (refHeap r) i (off / 512) else s).done t th

def refStoreX (n : Nat) (rd : XReg) (rs1 : QReg) (rs2 : XReg) (s : State) : Out :=
  withTh s fun t th =>
    let o := th.rx rd; let v := th.rx rs2
    if o.void || v.void then s.nullify t th sawMem else s.refStore t th n (th.rq rs1) o.val v.val
def execQst (rd : XReg) (rs1 : QReg) (rs2 : XReg) (s : State) : Out := refStoreX 8 rd rs1 rs2 s
def execQstw (rd : XReg) (rs1 : QReg) (rs2 : XReg) (s : State) : Out := refStoreX 4 rd rs1 rs2 s
def execQstq (rd : XReg) (rs1 rs2 : QReg) (s : State) : Out :=
  withTh s fun t th =>
    let o := th.rx rd
    if o.void then s.nullify t th sawMem else s.refStore t th 8 (th.rq rs1) o.val (th.rq rs2)

/-! ### QNEW (R226) -/

/-- Are [a, a + n) HEAP pages with L and W?  The fault that QNEW raises, in the order of R165; UTVAL `u`
for a page that is not HEAP.  DESIGN CHOICE (log 24): the range is not tested for poison, for no data is read. -/
def State.heapRange (s : State) (th : Thread) (a n : Nat) (u : Word) : Option (Nat × Word) :=
  match offWindow 8 a (a + n) with
  | some b => some (5, wOf b)
  | none => match s.enginePages th.tile th.aspace false (n / 65536 + 8) a (a + n) with
    | .error (c, b) => some (c, wOf b)
    | .ok _ => match s.enginePages th.tile th.aspace true (n / 65536 + 8) a (a + n) with
      | .error (c, b) => some (c, wOf b)
      | .ok ps =>
        if ps.all (fun p => match p.2.2 with | some f => f.cls == 1 | none => false) then none
        else some (7, u)
/-- The lowest byte of [a, a + n) inside a range-lock entry (check 6 of R165).  DESIGN CHOICE (log 24): it is the UTVAL
of QNEW's RANGE_CONFLICT, in the source range of an entry as in its destination (R226, R386). -/
def lockByte (ls : List Lock) (a n : Nat) : Option Nat :=
  ((ls.flatMap (fun k => [k.src, k.dst])).filterMap (fun r =>
    if overlap r a n then some (max a r.1) else none)).min?

/-- The lowest free index at or above 1 whose descriptor is not poisoned (R226, R394). -/
def State.freeIndex (s : State) (h : Heap) : Option Nat :=
  lowestFrom (fun i => !s.descBad (h.desc i) && (s.readDesc (h.desc i)).state == 0) 1 (h.ndesc - 1)

def execQnew (rd : QReg) (rs1 rs2 : XReg) (s : State) : Out :=
  withTh s fun t th =>
    let a := th.rx rs1; let c := th.rx rs2
    let size := fld c.val 26 0; let hn := fld c.val 59 52
    if a.void || c.void then s.nullify t th sawMem
    else if size = 0 ∨ 2 ^ 26 < size ∨ a.val.toNat % 64 ≠ 0 ∨ fld c.val 63 60 ≠ 0 ∨ fld c.val 51 27 ≠ 0 then
      s.trap t th 2 c.val
    else match tfind s.heaps hn with
      | none => s.trap t th 2 c.val
      | some h => match s.heapRange th a.val.toNat size a.val with
        | some (cause, v) => s.trap t th cause v
        | none => match lockByte (s.tile th.tile).locks a.val.toNat size with
          | some b => s.trap t th 24 (wOf b)
          | none => match s.freeIndex h with
            | none => s.done t (th.wq rd 0)
            | some i =>
              let g := (s.readDesc (h.desc i)).gen
              (s.writeDesc (h.desc i) ⟨1, a.val.toNat, 0, g, size, 0⟩).done t (th.wq rd (mkRef hn g i))

/-! ### Pins (R223 to R225) -/

/-- QPIN (R224).  DEDUCED (log 57): eight windows open, as R223, R224 and R371 have it, and the ninth traps, though
R393 names the eighth. -/
def execQpin (rd : XReg) (rs1 : QReg) (s : State) : Out :=
  withTh s fun t th =>
    let r := th.rq rs1
    let (res, s) := s.resolve (tileCluster th.tile) r
    match res with
    | .poisoned va => s.trap t th 30 (wOf va)
    | .dead => s.trap t th 48 r
    | .live h i _ =>
      let d := s.readDesc (h.desc i)
      if 8 ≤ th.windows.length then s.trap t th 50 r
      else if 2 ≤ d.state ∨ s.flipOpen (State.descDie h i) (refHeap r) i then s.stall t th
      else if d.pins = 65535 then s.trap t th 50 r
      else
        let s := s.writeDesc (h.desc i) { d with pins := d.pins + 1 }
        let (w, th, s) := s.birth th 0
        s.done t ({ th with windows := th.windows ++ [(⟨r, d.addr, d.size, refI r, w⟩ : Window)] }.wx rd (.of (wOf d.addr)))

/-- Close a pin: PINS decreases at the home and the pin weight returns, from a die (R225). -/
def State.unpin (s : State) (die : Nat) (w : Window) (sid : Nat) : State :=
  let s := match s.refTarget w.ref with
    | some (h, i) =>
      let d := s.readDesc (h.desc i)
      if d.pins = 0 then s else s.writeDesc (h.desc i) { d with pins := d.pins - 1 }
    | none => s
  s.giveBack die sid w.weight
/-- Does a copy of a thread touch a window, by its covering ranges as issued (R225)? -/
def Copy.touches (c : Copy) (w : Window) : Bool :=
  overlap (c.src, spanOf c.rows c.rowBytes c.sstep) w.base w.size ||
    overlap (c.dst, spanOf c.rows c.rowBytes c.dstep) w.base w.size
/-- Do references name the same object (R225, R227)? -/
def sameObj (a b : Word) : Bool := refHeap a == refHeap b && refObj a == refObj b
/-- Remove the last window of a list that holds an object: the window and the rest. -/
def lastWindow (r : Word) : List Window → Option (Window × List Window)
  | [] => none
  | w :: ws => match lastWindow r ws with
    | some (x, rest) => some (x, w :: rest)
    | none => if sameObj w.ref r then some (w, ws) else none

/-- QUNPIN (R225): it waits for the thread's copies that touch the window. -/
def execQunpin (rs1 : QReg) (s : State) : Out :=
  withTh s fun t th =>
    let r := th.rq rs1
    match lastWindow r th.windows with
    | none => s.trap t th 2 r
    | some (w, rest) =>
      if (s.tile th.tile).copies.any (fun c => c.tid == th.tid t && c.touches w) then s.stall t th
      else (s.unpin (tileDie th.tile) w th.sid0).done t { th with windows := rest }

/-! ### Register operations (R227) -/

def execQeq (rd : XReg) (rs1 rs2 : QReg) (s : State) : Out :=
  withTh s fun t th =>
    let a := th.rq rs1; let b := th.rq rs2
    s.done t (th.wx rd (.of (bit01 (sameObj a b || (refObj a == 0 && refObj b == 0)))))
def execQtag (rd rs1 : QReg) (rs2 : XReg) (s : State) : Out :=
  withTh s fun t th =>
    let k := th.rx rs2; let r := th.rq rs1
    if k.void then s.nullify t th sawMem
    else if fld k.val 63 4 ≠ 0 then s.trap t th 2 k.val
    else s.done t (th.wq rd (((r ||| wOf (fld k.val 3 1 * 2 ^ 61)) &&& ~~~(wOf (2 ^ 60))) |||
      wOf (fld k.val 0 0 * 2 ^ 60)))
def execQclr (rd : QReg) (s : State) : Out := withTh s fun t th => s.done t (th.wq rd 0)
def execQmv (rd rs1 : QReg) (s : State) : Out := withTh s fun t th => s.done t (th.wq rd (th.rq rs1))

/-! ### RELOC (R228) -/

/-- Physical pieces of [a, a + n) as a thread's address space maps them (R309). -/
def State.physSegs (s : State) (l as : Nat) : Nat → Nat → Nat → List Seg
  | 0, _, _ => []
  | fuel + 1, a, e =>
    if e ≤ a then []
    else match s.leafOf l as a with
      | none => s.physSegs l as fuel (min e (a - a % 65536 + 65536)) e
      | some f =>
        let w := min e (f.va + f.size)
        segOf l (a, w - a, some f) :: s.physSegs l as fuel w e

/-- Free an object (R228). -/
def State.freeObj (s : State) (h : Heap) (hn i : Nat) (d : Desc) : Nat × State :=
  if 0 < d.pins then (1, s)
  else if 2 ≤ d.state then (2, s)
  else (0, (s.writeDesc (h.desc i) { d with state := 0, gen := (d.gen + 1) % 4096 }).invalidate hn i)

/-- A relocation that passed its checks enters the Weevil's queue (R228, R307). -/
def State.startReloc (s : State) (t : Nat) (th : Thread) (h : Heap) (hn i : Nat) (d : Desc) (dst : Nat) :
    State :=
  let die := State.descDie h i
  let r : Reloc := ⟨hn, i, th.sid0, th.tid t, d.size, d.addr, dst,
    s.physSegs th.tile th.aspace (d.size / 65536 + 2) d.addr (d.addr + d.size),
    s.physSegs th.tile th.aspace (d.size / 65536 + 2) dst (dst + d.size), [], [], .waiting,
    s.scopeCancelled th.sid0⟩
  let s := (s.writeDesc (h.desc i) { d with state := 2, next := dst }).invalidate hn i
  let x := s.die die
  s.setDie die { x with weevil := x.weevil ++ [r] }

def execReloc (rd : XReg) (rs1 : QReg) (rs2 : XReg) (s : State) : Out :=
  withTh s fun t th =>
    let a := th.rx rs2; let r := th.rq rs1; let hn := refHeap r
    if a.void then s.nullifyX t th rd (sawProp ||| sawMem)
    else if a.val ≠ 1 ∧ a.val.toNat % 64 ≠ 0 then s.trap t th 2 a.val
    else match s.resolveHome r with
      | none => s.done t (th.wx rd (.of 4))
      | some (h, i, d) =>
        let die := State.descDie h i
        let dst := a.val.toNat
        if s.flipOpen die hn i then s.stall t th
        else if a.val = 1 then s.done t (th.wx rd (.of (wOf d.state)))
        else if a.val = 0 then
          let (st, s) := s.freeObj h hn i d
          s.done t (th.wx rd (.of (wOf st)))
        else if dst < d.addr + d.size ∧ d.addr < dst + d.size then s.trap t th 2 a.val
        else if (s.heapRange th dst d.size a.val).isSome then s.trap t th 7 a.val
        else if refN r then s.done t (th.wx rd (.of 3))
        else if 0 < d.pins then s.done t (th.wx rd (.of 1))
        else if 2 ≤ d.state then s.done t (th.wx rd (.of 2))
        else if 64 ≤ (s.die die).weevil.length then s.stall t th
        else (s.startReloc t th h hn i d dst).done t (th.wx rd (.of 0))

/-! ### The Weevil -/

/-- Slices of an object (R307). -/
def Reloc.slices (r : Reloc) : Nat := (r.size + 511) / 512
/-- Put a number into an ascending list. -/
def insertNat (a : Nat) : List Nat → List Nat
  | [] => [a]
  | b :: bs => if a ≤ b then a :: b :: bs else b :: insertNat a bs
/-- Numbers in ascending order. -/
def sortNat (l : List Nat) : List Nat := l.foldr insertNat []
/-- Offset and bytes of a slice; the last one ends with the object (R308). -/
def Reloc.slice (r : Reloc) (k : Nat) : Nat × Nat := (512 * k, min 512 (r.size - 512 * k))

/-- Copy `n` bytes between pieces that start at the same offset of an object, 64 bytes at a time: data,
and poison to the same offsets (R309, R389, R395). -/
def State.copyUnits (s : State) (r : Reloc) : Nat → Nat → Nat → State
  | 0, _, _ => s
  | fuel + 1, off, left =>
    if left = 0 then s
    else
      let n := min 64 left
      let s := match segLoc r.oldSegs (r.oldAddr + off), segLoc r.newSegs (r.newAddr + off) with
        | some (none, x, _), some (none, y, _) =>
          let bad := (s.poisonIn x n).isSome
          let s := s.putClean y (s.bytesAt x n)
          if bad then s.addPoison [y / 64] else s
        | _, _ => s
      State.copyUnits s r fuel (off + n) (left - n)

/-- The head of a die's Weevil, begun if it was waiting. -/
def State.relocHead (s : State) (die : Nat) : Option Reloc :=
  (s.die die).weevil.head?.map (fun r =>
    if r.phase = .waiting then { r with phase := .pass 1 (List.range r.slices) } else r)

/-- Does traffic pass between a Weevil and both copies of a slice (R9, R13)? -/
def State.sliceOpen (s : State) (die : Nat) (r : Reloc) (k : Nat) : Bool :=
  let (off, len) := r.slice k
  (segRuns r.oldSegs len (r.oldAddr + off) len ++ segRuns r.newSegs len (r.newAddr + off) len).all
    (fun x => s.homeOpen die x.2.1)

/-- WEEVIL_SLICE_COPY: (die). -/
def execWeevilSliceCopy (s : State) : Out :=
  .next <| match s.input with
    | .num die => match s.relocHead die with
      | some r => match r.phase with
        | .pass n (k :: todo) =>
          if r.abandon || !s.sliceOpen die r k then s
          else
            let (off, len) := r.slice k
            (s.setReloc die { r with
              dirty := r.dirty.filter (· != k), copied := if r.copied.contains k then r.copied else k :: r.copied
              phase := .pass n todo }).copyUnits r 8 off len
        | _ => s
      | none => s
    | _ => s

/-- Change a descriptor at its home. -/
def State.homeDesc (s : State) (r : Reloc) (f : Desc → Desc) : State :=
  match tfind s.heaps r.heap with
  | some h => s.writeDesc (h.desc r.index) (f (s.readDesc (h.desc r.index)))
  | none => s

/-- WEEVIL_PASS_END: (die).  A clean pass, or the fifth, begins the flip; the fourth freezes the object
(R80, R308).  A flip begins once the links to every cache let its invalidations through (R13). -/
def execWeevilPassEnd (s : State) : Out :=
  .next <| match s.input with
    | .num die => match s.relocHead die with
      | some r => match r.phase with
        | .pass n [] =>
          if r.abandon then s
          else if r.dirty.isEmpty || decide (5 ≤ n) then
            if !s.allOpen die then s else ((s.setReloc die { r with phase := .flipping }).homeDesc r (fun d =>
              { d with state := 1, addr := r.newAddr, next := 0 })).invalidate r.heap r.index
          else
            let s := s.setReloc die { r with phase := .pass (n + 1) (sortNat r.dirty) }
            if n = 4 then s.homeDesc r (fun d => { d with state := 3 }) else s
        | _ => s
      | none => s
    | _ => s

/-- Remove a relocation from its die's queue. -/
def State.dropReloc (s : State) (die : Nat) (r : Reloc) : State :=
  let d := s.die die
  s.setDie die { d with weevil := d.weevil.filter (fun k => !(k.heap == r.heap && k.index == r.index)) }

/-- FLIP_WINDOW_CLOSE: (die).  The last acknowledgement, once the links to every die let it through (R13, R310). -/
def execFlipWindowClose (s : State) : Out :=
  .next <| match s.input with
    | .num die => match (s.die die).weevil.head? with
      | some r =>
        if r.phase = .flipping ∧ s.allOpen die then s.dropReloc die r else s
      | none => s
    | _ => s

/-- Bytes that hold no defined value: free values (log 14). -/
def State.freeBytes (s : State) (n : Nat) : List Byte × State :=
  ((List.range n).map (fun i => Config.freeByte (s.freeCount + i)), { s with freeCount := s.freeCount + n })
/-- Give up the bytes of a slice written at NEXT (R311). -/
def State.undefSlice (s : State) (r : Reloc) (k : Nat) : State :=
  let (off, len) := r.slice k
  let (bs, s) := s.freeBytes len
  let runs := segRuns r.newSegs len (r.newAddr + off) len
  (runs.foldl (fun (p : State × List Byte) run => match run with
    | (none, x, n) => (p.1.putBytes x (p.2.take n), p.2.drop n)
    | (_, _, n) => (p.1, p.2.drop n)) (s, bs)).1

/-- RELOC_ABANDON: (die, heap, index).  An abandoned relocation whose flip has not begun (R311), once the links to
every cache are open (R13). -/
def execRelocAbandon (s : State) : Out :=
  .next <| match s.input with
    | .num3 die heap i => match s.relocOf die heap i with
      | some r =>
        if !r.abandon || r.phase == .flipping || !s.allOpen die then s
        else ((r.copied.foldl (fun s k => s.undefSlice r k) (s.dropReloc die r)).homeDesc r (fun d =>
          { d with state := 1, addr := r.oldAddr, next := 0 })).invalidate r.heap r.index
      | none => s
    | _ => s

end Sys2Proof.Machine
end

