-- ==== Sys2Proof/Machine/PageOps.lean ====
section
/-! DEFINITION. Pages of memory as the Kiln and the Tun handle them: wiping, allocation (R293, R314,
log 11), entries of table trees (R55, R56), dropping translations (R57), and copies that carry poison
(R389). -/

namespace Sys2Proof.Machine

namespace State

/-- Wipe [a, a + n): zeros, and no poison in the units it fills (R314, R388). -/
def wipe (s : State) (a n : Nat) : State :=
  { s with mem := Memory.below s.mem a ++ Memory.from_ s.mem (a + n)
           poison := s.poison.filter (fun u => decide (64 * u < a ∨ a + n < 64 * u + 64)) }

/-- Take a 64 KiB page of a die's memory for the Kiln, wiped (log 11). -/
def allocPage (s : State) (d : Nat) : Option (Nat × State) :=
  let x := s.die d
  match x.freePages with
  | p :: ps => some (p, (s.setDie d { x with freePages := ps }).wipe p 65536)
  | [] =>
    if d * dieRange + 65536 ≤ x.allocTop then
      some (x.allocTop - 65536, (s.setDie d { x with allocTop := x.allocTop - 65536 }).wipe (x.allocTop - 65536) 65536)
    else none
/-- Take a page from a die, or from the lowest die that has one (R293). -/
def allocFrom (s : State) (d : Nat) : Option (Nat × State) :=
  match s.allocPage d with
  | some r => some r
  | none => (List.range 4).findSome? s.allocPage
/-- Give a page back to its die. -/
def freePage (s : State) (p : Nat) : State :=
  let d := p / dieRange
  let x := s.die d
  s.setDie d { x with freePages := x.freePages ++ [p] }

/-- Remember that the Kiln allocated a page for an address space. -/
def notePage (s : State) (as p : Nat) : State :=
  match tfind s.aspaces as with
  | some a => { s with aspaces := tset s.aspaces as { a with pages := (p / dieRange, p) :: a.pages } }
  | none => s

/-- Location of the level-3 entry of an address below a table, with the tables on the way made if they
are missing: pages of die `d`. -/
def entryGo (s : State) (as d va : Nat) : List (Nat × Nat × Nat) → Nat → Option (Nat × State)
  | [], _ => none
  | [(hi, lo, _)], tbl => some (tbl + 8 * fld (wOf va) hi lo, s)
  | (hi, lo, _) :: rest, tbl =>
    let e := tbl + 8 * fld (wOf va) hi lo
    let w := wOf (s.numAt e 8)
    if w.getLsbD 0 then
      if w.getLsbD 1 then none else entryGo s as d va rest (fld w 50 16 * 65536)
    else match s.allocFrom d with
      | some (p, s) => entryGo ((s.notePage as p).putNum e 8 (p + 1)) as d va rest p
      | none => none
/-- Map a 64 KiB page: write its leaf (R267, R293, R304). -/
def mapPage (s : State) (as d va leaf : Nat) : Option State :=
  match s.root as with
  | some r => (s.entryGo as d va levels r).map (fun p => p.2.putNum p.1 8 leaf)
  | none => none

/-- Every tile drops its entries of an address space in [a, a + n) (R57, R61). -/
def dropTlb (s : State) (as a n : Nat) : State :=
  { s with tiles := s.tiles.map (fun p => (p.1, { p.2 with
      tlb := p.2.tlb.filter (fun e => !(e.aspace == as && decide (e.base < a + n ∧ a < e.base + e.size))) })) }
/-- Withdraw the mapping of a 64 KiB page (R61). -/
def unmapPage (s : State) (as va : Nat) : State :=
  let s := match s.walk as va with
    | some f => if f.size = 65536 then s.putNum f.entry 8 0 else s
    | none => s
  s.dropTlb as va 65536

/-- The pieces of [a, e) as an address space maps them, seen from tile `l`, with untranslated windows as tile
`u` has them, without permission checks. -/
def walkSegs (s : State) (l u as : Nat) : Nat → Nat → Nat → List Seg
  | 0, _, _ => []
  | fuel + 1, a, e =>
    if e ≤ a then []
    else if !translated a then
      let w := min e ((windowEnd a).getD e)
      segOf u (a, w - a, none) :: walkSegs s l u as fuel w e
    else match s.walk as a with
      | none => walkSegs s l u as fuel (min e (a - a % 65536 + 65536)) e
      | some f =>
        let w := min e (f.va + f.size)
        segOf l (a, w - a, some f) :: walkSegs s l u as fuel w e
/-- The first byte of [a, e) that lies in no window, or whose page the address space does not map with a
permission bit (checks 2 and 3 of R165, by the tables). -/
def walkFails (s : State) (as bit : Nat) : Nat → Nat → Nat → Option Nat
  | 0, _, _ => none
  | fuel + 1, a, e =>
    if e ≤ a then none
    else if !translated a then
      match windowEnd a with
      | none => some a
      | some w => walkFails s as bit fuel w e
    else match s.walk as a with
      | none => some a
      | some f => if f.bit bit then walkFails s as bit fuel (f.va + f.size) e else some a

/-- What was received of a run that a peer holds. -/
def gotRun (got : List PeerVal) (va n : Nat) : Option PeerVal := got.find? (fun v => v.addr == va && v.n == n && !v.amo)
/-- Copy up to 64 bytes: data, and poison to the same offsets (R389).  Bytes that a peer holds are those
received from it, or free values where none were (log 14); they are not written there. -/
def carryChunk (s : State) (got : List PeerVal) (src : List (Nat × Option Nat × Nat × Nat))
    (dst : List (Option Nat × Nat × Nat)) : State :=
  let bad := src.any (fun r => match r with
    | (_, none, x, n) => (s.poisonIn x n).isSome
    | (va, some _, _, n) => match gotRun got va n with | some v => v.ans == .poisoned | none => false)
  let (bs, s) := src.foldl (fun (p : List Byte × State) r => match r with
    | (_, none, x, n) => (p.1 ++ p.2.bytesAt x n, p.2)
    | (va, some _, _, n) => match (gotRun got va n).filter (fun v => v.ans == .ok) with
      | some v => (p.1 ++ v.bs, p.2)
      | none => let (f, s) := p.2.freeBytes n; (p.1 ++ f, s)) ([], s)
  (dst.foldl (fun (p : State × List Byte) r => match r with
    | (none, x, n) =>
      let s := p.1.putBytes x (p.2.take n)
      (if bad then s.addPoison (unitsOf x n) else s, p.2.drop n)
    | (some _, _, n) => (p.1, p.2.drop n)) (s, bs)).1
/-- Copy `n` bytes between two ranges, 64 at a time. -/
def carry (s : State) (got : List PeerVal) (gs gd : List Seg) : Nat → Nat → Nat → Nat → State
  | 0, _, _, _ => s
  | fuel + 1, a, b, n =>
    if n = 0 then s
    else
      let m := min 64 n
      carry (s.carryChunk got (runsFrom a (segRuns gs m a m)) (segRuns gd m b m)) got gs gd fuel (a + m) (b + m)
        (n - m)

end State
end Sys2Proof.Machine
end

