-- ==== Sys2Proof/Machine/StreamOps.lean ====
section
/-! DEFINITION. Stream records and the stream instructions (R266 to R277, R313, R314, R396, R397). -/

namespace Sys2Proof.Machine

/-! ### Records -/

/-- Word of a leaf of class KV (R56, R267). -/
def kvLeaf (pa : Nat) (w : Bool) : Nat := 2 * 2 ^ 61 + pa + (if w then 0xF else 0x7)
/-- Pages a cursor needs. -/
def pagesFor (g : Nat) : Nat := (g + 15) / 16

namespace Stream

def npages (st : Stream) : Nat := st.pages.length
/-- Valid positions in the last page (R267). -/
def lastv (st : Stream) : Nat := if st.g = 0 then 0 else st.g - 16 * (st.npages - 1)
/-- Token of a position. -/
def token (st : Stream) (p : Nat) : Nat := ((st.pages[p / 16]?).map (fun k => k.tokens.getD (p % 16) 0)).getD 0
/-- Write a token word. -/
def setToken (st : Stream) (p tok : Nat) : Stream :=
  { st with pages := st.pages.mapIdx (fun j k => if j = p / 16 then { k with tokens := k.tokens.set (p % 16) tok } else k) }
/-- The result word of R268. -/
def word (st : Stream) (status : Nat) : Word := wOf (st.i * 2 ^ 32 + st.g * 256 + status)

end Stream

namespace State

/-- The live stream an identifier names (R266). -/
def stream? (s : State) (id : Nat) : Option Stream :=
  match tfind s.streams (id / 65536) with
  | some st => if st.live && st.reuse == id % 65536 && id != 0 then some st else none
  | none => none
def setStream (s : State) (id : Nat) (st : Stream) : State := { s with streams := tset s.streams (id / 65536) st }
/-- Home die of a stream (R266). -/
def streamDie (id : Nat) : Nat := id / 2 ^ 30
/-- The first tile of a die: how the Tun of the die sees a REPLICA page. -/
def dieTile (d : Nat) : Nat := 256 * d

/-- Append a page to a stream's list and map it (R267).  DESIGN CHOICE (log 11): one for whose mapping no table can
be found, for want of memory or of a root, stands in the list unmapped. -/
def appendPage (s : State) (id : Nat) (st : Stream) (k : KvPage) : Stream × State :=
  let va := st.kvbase + 65536 * st.npages
  ({ st with pages := st.pages ++ [k] },
    (s.mapPage st.aspace (streamDie id) va (kvLeaf k.pa (!k.shared))).getD s)
/-- Append a page from the stream's pool. -/
def appendPool (s : State) (id : Nat) (st : Stream) : Stream × State :=
  match st.pool with
  | p :: ps => s.appendPage id { st with pool := ps } ⟨p, List.replicate 16 0, false⟩
  | [] => (st, s)
/-- Append a token at G, with a new page where G is a multiple of 16 (R270, R273). -/
def appendToken (s : State) (id : Nat) (st : Stream) (tok : Nat) : Stream × State :=
  let (st, s) := if st.g % 16 = 0 then s.appendPool id st else (st, s)
  ({ st.setToken st.g tok with g := st.g + 1 }, s)
/-- Append several tokens. -/
def appendTokens (s : State) (id : Nat) (st : Stream) : List Nat → Stream × State
  | [] => (st, s)
  | k :: ks =>
    let (st, s) := s.appendToken id st k
    appendTokens s id st ks

/-- Trim the last page: its mapping goes, and unless the prefix table owns it, it is wiped into the pool
(R61, R267, R314). -/
def trimOne (s : State) (st : Stream) : Stream × State :=
  match st.pages.getLast? with
  | some k =>
    let s := s.unmapPage st.aspace (st.kvbase + 65536 * (st.npages - 1))
    let st := { st with pages := st.pages.dropLast }
    if k.shared then (st, s) else ({ st with pool := st.pool ++ [k.pa] }, s.wipe k.pa 65536)
  | none => (st, s)
/-- Trim `n` pages. -/
def trim (s : State) (st : Stream) : Nat → Stream × State
  | 0 => (st, s)
  | n + 1 =>
    let (st, s) := s.trimOne st
    trim s st n
/-- Truncate to position p: G, and the list to ceil(p/16) pages (R273).  DESIGN CHOICE (log 14): the key-value
entries beyond G in a page that stays keep their bytes, though R61 gives them no defined value. -/
def truncate (s : State) (st : Stream) (p : Nat) : Stream × State :=
  let (st, s) := s.trim st (st.npages - pagesFor p)
  ({ st with g := p }, s)

/-! ### The recurrent-state area (R275) -/

/-- The pieces of a stream's area; an untranslated window is the issuing thread's tile's (log 53). -/
def areaSegs (s : State) (u id : Nat) (st : Stream) : List Seg :=
  s.walkSegs (dieTile (streamDie id)) u st.aspace 4 st.rsaddr (st.rsaddr + st.rsize)
/-- The failing byte of the checks of the area, as reads or as writes. -/
def areaFails (s : State) (st : Stream) (write : Bool) : Option Nat :=
  if st.rsize = 0 then none
  else s.walkFails st.aspace (if write then 3 else 2) 4 st.rsaddr (st.rsaddr + st.rsize)
/-- The slot of a position, as one piece. -/
def slotAt (st : Stream) (p : Nat) : Nat := st.slots + p % 64 * st.rsize
def slotSegs (st : Stream) (p : Nat) : List Seg := [⟨slotAt st p, st.rsize, none, slotAt st p, (0, 0)⟩]
/-- Copy the area into a position's slot.  Poison there stays but where the copy writes it anew (R388). -/
def snapshot (s : State) (u id : Nat) (st : Stream) (got : List PeerVal) (p : Nat) : Stream × State :=
  ({ st with spos := tset st.spos (p % 64) p },
    s.carry got (s.areaSegs u id st) (slotSegs st p) 1025 st.rsaddr (slotAt st p) st.rsize)
/-- The runs of an area that peers hold, 64 bytes at a time: address, device, location, length. -/
def areaPeers (st : Stream) (gs : List Seg) : List (Nat × Option Nat × Nat × Nat) :=
  if gs.all (fun g => g.peer.isNone) then []
  else ((List.range (st.rsize / 64)).flatMap (fun i =>
    runsFrom (st.rsaddr + 64 * i) (segRuns gs 64 (st.rsaddr + 64 * i) 64))).filter (fun r => r.2.1.isSome)
/-- What a snapshot of an area at a peer still waits for: the next part to be read, or the fault of a part that
the peer did not send (log 53). -/
def areaStop (th : Thread) (rs : List (Nat × Option Nat × Nat × Nat)) : Option Stop :=
  rs.findSome? (fun r => match gotRun th.peer r.1 r.2.2.2 with
    | none => some (.need (wOf r.1) r.2.2.2 (r.2.1.getD 0) r.2.2.1 .load)
    | some v => if v.ans = .failed then some (.trap 55 (wOf r.1)) else none)
/-- Send the slot of P to the parts of the area that peers hold: stores of the thread, and the poison at the
same offsets (R389, log 53). -/
def sendArea (s : State) (t : Nat) (th : Thread) (st : Stream) (rs : List (Nat × Option Nat × Nat × Nat)) :
    Thread × State :=
  rs.foldl (fun (p : Thread × State) r =>
    let x := slotAt st st.p + (r.1 - st.rsaddr)
    let dev := r.2.1.getD 0
    let bad := (p.2.poisonIn x r.2.2.2).isSome
    let (_, th, s) := p.2.startRemote t p.1 r.1 r.2.2.2 dev r.2.2.1 (.store (p.2.bytesAt x r.2.2.2))
    (th, if bad then s.send (.poisonAt dev r.2.2.1 r.2.2.2) else s)) (th, s)
/-- Copy the slot of P into the area. -/
def restore (s : State) (t : Nat) (th : Thread) (id : Nat) (st : Stream) : Thread × State :=
  let gs := s.areaSegs th.tile id st
  (s.carry [] (slotSegs st st.p) gs 1025 (slotAt st st.p) st.rsaddr st.rsize).sendArea t th st (areaPeers st gs)
/-- Does a slot hold the snapshot of P (R273)? -/
def hasSnap (st : Stream) : Bool := tfind st.spos (st.p % 64) == some st.p

/-- One step of a stream: ORDER advances (R268). -/
def streamStep (s : State) (id : Nat) (st : Stream) : State :=
  s.setStream id { st with order := (st.order + 1) % 2 ^ 32 }

end State

/-- Run a stream instruction on the bound stream (R268). -/
def withStream (s : State) (t : Nat) (th : Thread) (k : Nat → Stream → State) : State :=
  let id := th.stream.toNat
  match s.stream? id with
  | some st => k id st
  | none => s.trap t th 2 (wOf id)

/-! ### Instructions -/

/-- SMBIND's effect, as a CSR write to STREAM has it too (R159, R269). -/
def State.bindStream (s : State) (th : Thread) (id : Nat) : Option (Thread × State) :=
  if id = 0 then some ({ th with stream := 0 }, s)
  else match s.stream? id with
    | some st => some ({ th with stream := BitVec.ofNat 32 id }, s.streamStep id { st with owner := th.sid0 })
    | none => none

def execSmbind (rs1 : XReg) (s : State) : Out :=
  withTh s fun t th =>
    let a := th.rx rs1
    if a.void then s.nullify t th sawMem
    else if 2 ^ 32 ≤ a.val.toNat then s.trap t th 2 a.val
    else match s.bindStream th a.val.toNat with
      | some (th, s) => s.done t th
      | none => s.trap t th 2 a.val

/-- SMCOMMIT (R270). -/
def execSmcommit (rd rs1 rs2 : XReg) (s : State) : Out :=
  withTh s fun t th =>
    let k := th.rx rs1; let i := th.rx rs2
    if k.void || i.void then s.nullifyX t th rd (sawProp ||| sawMem)
    else withStream s t th fun id st =>
      if 2 ^ 17 ≤ k.val.toNat then s.trap t th 2 k.val
      else if 2 ^ 32 ≤ i.val.toNat then s.trap t th 2 i.val
      else if st.damaged then s.trap t th 30 (wOf id)
      else if i.val.toNat ≠ st.i then (s.streamStep id st).done t (th.wx rd (.of (st.word 1)))
      else if 64 ≤ st.g - st.p then s.trap t th 52 (wOf st.g)
      else if st.g = 2 ^ 20 ∨ (st.g % 16 = 0 ∧ st.pool = []) then
        (s.streamStep id st).done t (th.wx rd (.of (st.word 2)))
      else
        let (st, s) := s.appendToken id st k.val.toNat
        (s.streamStep id st).done t (th.wx rd (.of (st.word 0)))

/-- SMPLAY (R271). -/
def execSmplay (rs1 : XReg) (s : State) : Out :=
  withTh s fun t th =>
    let a := th.rx rs1
    if a.void then s.nullify t th sawMem
    else withStream s t th fun id st =>
      let p := st.p + fld a.val 15 0
      if st.g < p then s.trap t th 2 a.val
      else (s.streamStep id { st with p := p, ptime := max st.ptime (fld a.val 63 16) }).done t th

/-- The chain of a prefix entry, root first (R273). -/
def State.chainGo (s : State) : Nat → Nat → List Nat
  | 0, _ => []
  | fuel + 1, e => match tfind s.pfx e with
    | some x => (if x.parent = 64 then [] else State.chainGo s fuel x.parent) ++ [e]
    | none => []
def State.chain (s : State) (e : Nat) : List Nat := s.chainGo 64 e

/-- The admission of a frame as one step (R273): the fault, or the status with the stream and device
after it, but for the restore of the area. -/
def State.enrol (s : State) (id : Nat) (st : Stream) (a : Word) (barge : Bool) (pfx capture : Nat)
    (toks : List Nat) : Except (Nat × Word) (Nat × Stream × State) :=
  if capture + st.tol < st.ptime then .error (51, wOf capture)
  else if barge && !State.hasSnap st then .error (53, wOf st.p)
  else
    let b := if barge then st.p else st.g
    let unpinned := match tfind s.pfx pfx with | some e => e.pins == 0 | none => true
    if pfx != 0x7F && (unpinned || b % 16 != 0) then
      .error (2, a)
    else
      let c := if pfx = 0x7F then [] else s.chain pfx
      let m := c.length
      let freed := if barge then ((st.pages.drop (pagesFor b)).filter (fun k => !k.shared)).length else 0
      let need := pagesFor (b + 16 * m + toks.length) - pagesFor b - m
      if st.pool.length + freed < need ∨ 2 ^ 20 < b + 16 * m + toks.length then .ok (2, st, s)
      else
        let (st, s) := if barge then s.truncate st st.p else (st, s)
        let (st, s) := c.foldl (fun (p : Stream × State) e => match tfind p.2.pfx e with
          | some x =>
            let (st, s) := p.2.appendPage id p.1 ⟨x.page, x.tokens, true⟩
            ({ st with g := st.g + 16 }, s)
          | none => p) (st, s)
        let (st, s) := s.appendTokens id st toks
        .ok (0, { st with i := (st.i + 1) % 2 ^ 32 }, s)

/-- Finish SMFRAME or SMTRUNC: a barge that was admitted restores the area from the slot of P. -/
def State.admitted (s : State) (t : Nat) (th : Thread) (rd : XReg) (id : Nat) (barge : Bool)
    (r : Except (Nat × Word) (Nat × Stream × State)) : State :=
  match r with
  | .error (c, v) => s.trap t th c v
  | .ok (status, st, s) =>
    let (th, s) := if barge && status == 0 then s.restore t th id st else (th, s)
    (s.streamStep id st).done t (th.wx rd (.of (st.word status)))

/-- Addresses of n words of 4 bytes. -/
def words4 (a : Word) (n : Nat) : List Word := (List.range n).map (fun i => a + wOf (4 * i))

/-- SMFRAME (R272, R273). -/
def execSmframe (rd rs1 : XReg) (s : State) : Out :=
  withTh s fun t th =>
    let a := th.rx rs1
    if a.void then s.nullifyX t th rd (sawProp ||| sawMem)
    else withStream s t th fun id st =>
      if a.val.toNat % 8 ≠ 0 then s.trap t th 4 a.val
      else match s.readVal th a.val 8 .base with
        | .error e => s.stop t th e
        | .ok h =>
          let h := wOf h
          let vas := words4 (a.val + 8) (fld h 7 0)
          match s.readVals th .base (vas.map (fun v => (v, 4))) with
          | .error e => s.stop t th e
          | .ok toks =>
            let s := s.touched th false (a.val :: vas)
            let pfx := fld h 14 8
            let barge := h.getLsbD 15
            if (64 ≤ pfx ∧ pfx ≤ 126) ∨ toks.any (fun k => decide (2 ^ 17 ≤ k)) then s.trap t th 2 a.val
            else match (if barge then s.areaFails st true else none) with
              | some b => s.trap t th 15 (wOf b)
              | none =>
                if st.damaged then s.trap t th 30 (wOf id)
                else s.admitted t th rd id barge (s.enrol id st a.val barge pfx (fld h 63 16) toks)

/-- SMTRUNC (R274): a barge frame without input, never late. -/
def execSmtrunc (rd : XReg) (s : State) : Out :=
  withTh s fun t th => withStream s t th fun id st =>
    match s.areaFails st true with
    | some b => s.trap t th 15 (wOf b)
    | none =>
      if st.damaged then s.trap t th 30 (wOf id)
      else s.admitted t th rd id true (s.enrol id st 0 true 0x7F st.ptime [])

/-- SMSNAP (R275). -/
def execSmsnap (rs1 : XReg) (s : State) : Out :=
  withTh s fun t th =>
    let p := th.rx rs1
    if p.void then s.nullify t th sawMem
    else withStream s t th fun id st =>
      if st.g < p.val.toNat then s.trap t th 2 p.val
      else match s.areaFails st false with
        | some b => s.trap t th 13 (wOf b)
        | none =>
          match State.areaStop th (State.areaPeers st (s.areaSegs th.tile id st)) with
          | some e => s.stop t th e
          | none =>
            let (st, s) := s.snapshot th.tile id st th.peer p.val.toNat
            (s.streamStep id st).done t th

/-- The word of an SMSTAT selector (R276). -/
def Stream.statWord (st : Stream) (sel : Nat) : Word :=
  if sel = 0 then wOf (st.g * 2 ^ 32 + st.p)
  else if sel = 1 then wOf (st.i * 2 ^ 32 + (st.order + 1) % 2 ^ 32)
  else if sel = 2 then wOf ((if st.damaged then 2 ^ 39 else 0) + st.npages * 2 ^ 22 + st.lastv * 2 ^ 17
    + st.pool.length)
  else if sel = 3 then wOf st.ptime
  else if sel = 4 then wOf st.tol
  else if sel = 5 then wOf st.kvbase
  else if sel = 6 then wOf st.rsaddr
  else wOf st.rsize

def execSmstat (rd rs1 : XReg) (s : State) : Out :=
  withTh s fun t th =>
    let k := th.rx rs1
    if k.void then s.nullifyX t th rd (sawProp ||| sawMem)
    else withStream s t th fun id st =>
      if 7 < k.val.toNat then s.trap t th 2 k.val
      else (s.streamStep id st).done t (th.wx rd (.of (st.statWord k.val.toNat)))

/-- SMKV (R277). -/
def Stream.kvWord (st : Stream) (x : Word) : Word :=
  let p := fld x 62 0
  if x.getLsbD 63 then (if p < st.g then wOf (st.token p) else BitVec.allOnes 64)
  else if p < 16 * st.npages then wOf (st.kvbase + 0x10000 * (p / 16) + 0x1000 * (p % 16))
  else 0
def execSmkv (rd rs1 : XReg) (s : State) : Out :=
  withTh s fun t th =>
    let x := th.rx rs1
    if x.void then s.nullifyX t th rd (sawProp ||| sawMem)
    else withStream s t th fun id st =>
      (s.streamStep id st).done t (th.wx rd (.of (st.kvWord x.val)))

end Sys2Proof.Machine
end

