-- ==== Sys2Proof/Machine/TileOps.lean ====
section
/-! DEFINITION. Circular buffers, tags and ownership handles, but for their waits (R208, R210 to R217). -/

namespace Sys2Proof.Machine

/-- Pairs that read block scales from a second buffer (R255). -/
def Pair.scaled : Pair → Bool
  | .mx8 => true | .mx6 => true | .mx4 => true | .mx4x8 => true | .s4 => true | _ => false

/-! ### Circular buffers -/

/-- Does a queued array command name a buffer (R208, R247)? -/
def ArrayCmd.names (c : ArrayCmd) (b : Nat) : Bool :=
  match c.op with
  | .ldw cb _ => cb == b
  | .strm p _ cb _ _ _ => cb == b || (Pair.scaled p && cb + 1 == b)
  | .wb cb _ _ _ _ _ => cb == b
  | _ => false
/-- Does an engine operation in flight name a buffer? -/
def Tile.busyCb (x : Tile) (b : Nat) : Bool :=
  x.copies.any (fun c => c.cb == some b) || x.weightQ.any (fun c => c.names b) ||
    x.rowQ.any (fun c => c.names b)
/-- Does a configuration word satisfy R62? -/
def cfgLegal (w : Word) : Bool :=
  fld w 63 41 == 0 && fld w 20 19 == 0 && fld w 5 0 == 0 && decide (fld w 40 32 ≤ 256) &&
  (fld w 40 32 == 0 || (decide (1 ≤ fld w 31 21 ∧ fld w 31 21 ≤ 1024))) &&
  decide (64 * fld w 18 6 + fld w 40 32 * fld w 31 21 * 64 ≤ 0x60000)
/-- The descriptor a configuration word makes, its state word reset (R208). -/
def cbOfWord (w : Word) : Cb :=
  ⟨fld w 40 32, fld w 31 21, 64 * fld w 18 6, 0, 0, fld w 40 32, 0, 0⟩

def execCbcfg (cb : CbReg) (rs2 : XReg) (s : State) : Out :=
  withTh s fun t th =>
    let w := th.rx rs2
    let x := s.tile th.tile
    if w.void then s.nullify t th sawMem
    else if x.busyCb cb.toNat then s.stall t th
    else if !cfgLegal w.val then s.trap t th 2 w.val
    else (s.setTile th.tile (x.setCb cb.toNat (cbOfWord w.val))).done t th

/-- Advances by n slots (R63). -/
def Cb.advP (d : Cb) (n : Nat) : Cb :=
  { d with free := d.free - n, fill := d.fill + n, pidx := (d.pidx + n) % d.count }
def Cb.advC (d : Cb) (n : Nat) : Cb :=
  { d with fill := d.fill - n, free := d.free + n, cidx := (d.cidx + n) % d.count }

/-- CBADVP and CBADVC (R210). -/
def cbAdvance (producer : Bool) (cb : CbReg) (rs2 : XReg) (s : State) : Out :=
  withTh s fun t th =>
    let n := th.rx rs2
    let x := s.tile th.tile
    let d := x.cb cb.toNat
    if n.void then s.nullify t th sawMem
    else if d.count = 0 ∨ (if producer then d.free else d.fill) < n.val.toNat then
      s.trap t th 29 (wOf cb.toNat)
    else if n.val = 0 then s.done t th
    else (s.setTile th.tile (x.setCb cb.toNat
      (if producer then d.advP n.val.toNat else d.advC n.val.toNat))).done t th
def execCbadvp (cb : CbReg) (rs2 : XReg) (s : State) : Out := cbAdvance true cb rs2 s
def execCbadvc (cb : CbReg) (rs2 : XReg) (s : State) : Out := cbAdvance false cb rs2 s

def execCbstat (rd : XReg) (cb : CbReg) (rs2 : XReg) (s : State) : Out :=
  withTh s fun t th =>
    let k := th.rx rs2
    let d := (s.tile th.tile).cb cb.toNat
    if k.void then s.nullifyX t th rd (sawProp ||| sawMem)
    else if k.val = 0 then s.done t (th.wx rd (.of d.stateWord))
    else if k.val = 1 then s.done t (th.wx rd (.of d.cfgWord))
    else s.trap t th 2 k.val

/-! ### Tags -/

/-- Status and bytes of a SET tag. -/
def Tile.setTag? (x : Tile) (c : CoreClass) (n : Nat) : Option (Nat × Nat) :=
  match tfind x.tags (tagKey c n) with
  | some (.set st b) => some (st, b)
  | _ => none
/-- The TAGS CSR of a core (R65). -/
def Tile.tagMask (x : Tile) (c : CoreClass) : Word :=
  wOf ((List.range 64).foldl (fun m n => if (x.setTag? c n).isSome then m + 2 ^ n else m) 0)
/-- Status word of the lowest SET tag of a mask (R212, R213). -/
def Tile.tagFirst (x : Tile) (c : CoreClass) (m : Word) : Word :=
  match (List.range 64).find? (fun n => m.getLsbD n && (x.setTag? c n).isSome) with
  | some n => match x.setTag? c n with
    | some (st, b) => tagWord n st b
    | none => 0
  | none => 0
/-- Tags of a mask whose status is not COMPLETE (R213). -/
def Tile.tagBad (x : Tile) (c : CoreClass) (m : Word) : Word :=
  wOf ((List.range 64).foldl (fun k n => if m.getLsbD n && (match x.setTag? c n with
    | some (st, _) => st != 0 | none => false) then k + 2 ^ n else k) 0)

def execTagff (rd rs1 : XReg) (s : State) : Out :=
  withTh s fun t th =>
    let m := th.rx rs1
    if m.void then s.nullifyX t th rd (sawProp ||| sawMem)
    else s.done t (th.wx rd (.of ((s.tile th.tile).tagFirst th.cls m.val)))

/-- TAGCLR (R214): SET tags of the mask become IDLE. -/
def execTagclr (rs1 : XReg) (s : State) : Out :=
  withTh s fun t th =>
    let m := th.rx rs1
    let x := s.tile th.tile
    if m.void then s.nullify t th sawMem
    else (s.setTile th.tile { x with tags := x.tags.filter (fun p =>
      !(p.2 != .busy && decide (tagKey th.cls 0 ≤ p.1 ∧ p.1 < tagKey th.cls 0 + 64) &&
        m.val.getLsbD (p.1 - tagKey th.cls 0))) }).done t th

/-! ### Ownership handles (R52 to R54) -/

def Cluster.own (c : Cluster) (h : Nat) : Own := (tfind c.owns h).getD ⟨.free, 0, 0, 0, 0⟩
/-- Do two buffers overlap? -/
def ownOverlap (o : Own) (base units : Nat) : Bool :=
  o.state != .free && decide (o.base < base + 256 * units ∧ base < o.base + 256 * o.len)
/-- Is a range word legal (R215)? -/
def rangeLegal (w : Word) : Bool :=
  fld w 63 54 == 0 && fld w 31 23 == 0 && fld w 39 32 == 0 && fld w 7 0 == 0 &&
  decide (256 ≤ fld w 22 0 ∧ fld w 22 0 ≤ 0x400000 ∧ fld w 53 32 + fld w 22 0 ≤ 0x400000)

/-- BTAKE (R215): 0 taken, 1 held or offered, 2 overlapping.  DESIGN CHOICE (log 55): a FREE buffer is taken at
once although a copy of another tile into it is under way, whose later pieces still land (R54). -/
def execBtake (rd rs1 rs2 : XReg) (s : State) : Out :=
  withTh s fun t th =>
    let h := th.rx rs1; let w := th.rx rs2
    let cn := tileCluster th.tile
    let c := s.cluster cn
    let o := c.own h.val.toNat
    let me := tileT th.tile
    if h.void || w.void then s.nullifyX t th rd (sawProp ||| sawMem)
    else if 255 < h.val.toNat then s.trap t th 2 h.val
    else match o.state with
      | .offered =>
        if o.recip = me then
          (s.setCluster cn { c with owns := tset c.owns h.val.toNat { o with state := .held, holder := me } }).done
            t (th.wx rd (.of 0))
        else s.done t (th.wx rd (.of 1))
      | .held => s.done t (th.wx rd (.of 1))
      | .free =>
        if !rangeLegal w.val then s.trap t th 2 w.val
        else if c.owns.any (fun p => ownOverlap p.2 (fld w.val 53 32) (fld w.val 22 8)) then
          s.done t (th.wx rd (.of 2))
        else
          let o' := { o with state := .held, base := fld w.val 53 32, len := fld w.val 22 8, holder := me }
          (s.setCluster cn { c with owns := tset c.owns h.val.toNat o' }).done t (th.wx rd (.of 0))

/-- BGIVE (R216): pass a handle on, or free it. -/
def execBgive (rs1 rs2 : XReg) (s : State) : Out :=
  withTh s fun t th =>
    let h := th.rx rs1; let u := th.rx rs2
    let cn := tileCluster th.tile
    let c := s.cluster cn
    let o := c.own h.val.toNat
    if h.void || u.void then s.nullify t th sawMem
    else if 255 < h.val.toNat then s.trap t th 2 h.val
    else if o.state ≠ .held ∨ o.holder ≠ tileT th.tile then s.trap t th 25 h.val
    else if u.val ≠ BitVec.allOnes 64 ∧ (15 < u.val.toNat ∨ !s.inService (16 * cn + u.val.toNat)) then
      s.trap t th 2 u.val
    else if (s.tile th.tile).locks.any (fun k => overlap k.src (0x10000000 + o.base) (256 * o.len) ||
        overlap k.dst (0x10000000 + o.base) (256 * o.len)) then s.stall t th
    else
      let o' := if u.val = BitVec.allOnes 64 then { o with state := .free }
        else { o with state := .offered, recip := u.val.toNat }
      (s.setCluster cn { c with owns := tset c.owns h.val.toNat o' }).done t th

def execBstat (rd rs1 : XReg) (s : State) : Out :=
  withTh s fun t th =>
    let h := th.rx rs1
    if h.void then s.nullifyX t th rd (sawProp ||| sawMem)
    else if 255 < h.val.toNat then s.trap t th 2 h.val
    else s.done t (th.wx rd (.of ((s.cluster (tileCluster th.tile)).own h.val.toNat).word))

end Sys2Proof.Machine
end

