-- ==== Sys2Proof/Machine/CsrOps.lean ====
section
/-! DEFINITION. Control and status registers (R157 to R163), ECALL, EBREAK, MRET and WFI (R141, R144,
R145). -/

namespace Sys2Proof.Machine

/-- Is a CSR one of R158? -/
def csrListed (c : Nat) : Bool :=
  decide (1 ≤ c ∧ c ≤ 3) || decide (0x800 ≤ c ∧ c ≤ 0x80B) || c == 0xC00 || c == 0xC01 ||
    decide (0xCC0 ≤ c ∧ c ≤ 0xCC3)

/-- The value of a CSR (R158, R159, R161 to R163). -/
def State.csrRead (s : State) (t : Nat) (th : Thread) (c : Nat) : Word :=
  if c = 1 then th.fflags.setWidth 64
  else if c = 2 then th.frm.setWidth 64
  else if c = 3 then (th.frm ++ th.fflags).setWidth 64
  else if c = 0x800 then th.waittmo.setWidth 64
  else if c = 0x801 then th.vpred.setWidth 64
  else if c = 0x802 then th.cland
  else if c = 0x803 then th.utvec
  else if c = 0x804 then th.uepc
  else if c = 0x805 then th.ucause.setWidth 64
  else if c = 0x806 then th.utval
  else if c = 0x807 then th.voidseen.setWidth 64
  else if c = 0x808 then (s.tile th.tile).tagMask th.cls
  else if c = 0x809 then th.shieldn.setWidth 64
  else if c = 0x80A then th.stream.setWidth 64
  else if c = 0x80B then th.seedkey
  else if c = 0xC00 then wOf (s.die (tileDie th.tile)).cycle
  else if c = 0xC01 then wOf s.time
  else if c = 0xCC0 then wOf ((s.die (tileDie th.tile)).ncyc / 65536)
  else if c = 0xCC1 then wOf (th.tid t)
  else if c = 0xCC2 then th.place s.devNum
  else if c = 0xCC3 then wOf th.sid0
  else 0

/-- A multiple of 4 (CLAND, UTVEC). -/
def align4 (v : Word) : Word := v &&& ~~~3#64

/-- A CSR write of a thread, but for STREAM: fields that are R or reserved ignore it (R157, R159).  A write
of UCAUSE arms the thread and ends its fault service (R361, R375). -/
def Thread.csrWrite (th : Thread) (c : Nat) (v : Word) : Thread :=
  if c = 1 then { th with fflags := v.setWidth 5 }
  else if c = 2 then { th with frm := v.setWidth 3 }
  else if c = 3 then { th with fflags := v.setWidth 5, frm := v.extractLsb' 5 3 }
  else if c = 0x800 then { th with waittmo := v.setWidth 48 }
  else if c = 0x801 then { th with vpred := v.setWidth 3 }
  else if c = 0x802 then { th with cland := align4 v }
  else if c = 0x803 then { th with utvec := align4 v }
  else if c = 0x804 then { th with uepc := v }
  else if c = 0x805 then { th with ucause := v.setWidth 8, armed := true, service := false }
  else if c = 0x806 then { th with utval := v }
  else if c = 0x807 then { th with voidseen := v.setWidth 6 }
  else if c = 0x80B then { th with seedkey := v }
  else th

/-- A CSR write; one to STREAM is an SMBIND of the value's ID field (R159, R269, log 27). -/
def State.csrPut (s : State) (th : Thread) (c : Nat) (v : Word) : Option (Thread × State) :=
  if c = 0x80A then s.bindStream th (fld v 31 0) else some (th.csrWrite c v, s)

/-- A CSR instruction: what it reads goes to rd, what `f` makes of it is written if it `writes`.  An
unlisted CSR is illegal, and so is a write to one numbered 0xC00 or above, which is an instruction whose
source is other than x0 or 0 (R157, log 35). -/
def State.csrOp (s : State) (t : Nat) (th : Thread) (i : Instr) (rd : XReg) (c : Nat)
    (zero void always : Bool) (f : Word → Word) : State :=
  if !csrListed c || (!zero && decide (0xC00 ≤ c)) then s.trap t th 2 (wordOf i)
  else if void then s.nullifyX t th rd (sawProp ||| sawCsr)
  else
    let old := s.csrRead t th c
    if (always || !zero) && decide (c < 0xC00) then match s.csrPut th c (f old) with
      | some (th, s) => s.done t (th.wx rd (.of old))
      | none => s.trap t th 2 (wOf (fld (f old) 31 0))
    else s.done t (th.wx rd (.of old))

/-- The register forms: the source is rs1. -/
def csrReg (i : Instr) (rd rs1 : XReg) (csr : BitVec 12) (always : Bool) (f : Word → Word → Word)
    (s : State) : Out :=
  withTh s fun t th =>
    let a := th.rx rs1
    s.csrOp t th i rd csr.toNat (rs1 == 0) a.void always (fun old => f old a.val)
/-- The immediate forms: the source is the 5-bit immediate. -/
def csrImm (i : Instr) (rd : XReg) (imm : BitVec 5) (csr : BitVec 12) (always : Bool)
    (f : Word → Word → Word) (s : State) : Out :=
  withTh s fun t th =>
    s.csrOp t th i rd csr.toNat (imm == 0) false always (fun old => f old (imm.setWidth 64))

def execCsrrw (rd rs1 : XReg) (csr : BitVec 12) (s : State) : Out :=
  csrReg (.csrrw rd rs1 csr) rd rs1 csr true (fun _ v => v) s
def execCsrrs (rd rs1 : XReg) (csr : BitVec 12) (s : State) : Out :=
  csrReg (.csrrs rd rs1 csr) rd rs1 csr false (fun o v => o ||| v) s
def execCsrrc (rd rs1 : XReg) (csr : BitVec 12) (s : State) : Out :=
  csrReg (.csrrc rd rs1 csr) rd rs1 csr false (fun o v => o &&& ~~~v) s
def execCsrrwi (rd : XReg) (imm : BitVec 5) (csr : BitVec 12) (s : State) : Out :=
  csrImm (.csrrwi rd imm csr) rd imm csr true (fun _ v => v) s
def execCsrrsi (rd : XReg) (imm : BitVec 5) (csr : BitVec 12) (s : State) : Out :=
  csrImm (.csrrsi rd imm csr) rd imm csr false (fun o v => o ||| v) s
def execCsrrci (rd : XReg) (imm : BitVec 5) (csr : BitVec 12) (s : State) : Out :=
  csrImm (.csrrci rd imm csr) rd imm csr false (fun o v => o &&& ~~~v) s

/-! ### ECALL, EBREAK, MRET, WFI -/

/-- The services of the resident handler (R144). -/
def State.serviceResult (s : State) (th : Thread) (n : Nat) : Word :=
  if n = 0 then 3
  else if n = 1 then wOf s.tilesIn
  else if n = 2 then wOf (s.die (tileDie th.tile)).mhz
  else if n = 3 then wOf s.hbmbytes
  else BitVec.allOnes 64

/-- ECALL (R144).  In machine mode it is the environment call of the RISC-V base (log 12). -/
def execEcall (s : State) : Out :=
  withTh s fun t th =>
    let a := th.rx 17
    if th.mode = .machine then s.trap t th 11 0
    else if a.void then s.nullifyX t th 10 (sawProp ||| sawSvc)
    else s.done t (th.wx 10 (.of (s.serviceResult th a.val.toNat)))

/-- EBREAK (R145, R422): with a debug session it halts the thread; the first instruction after a resume
is not checked again (log 26). -/
def execEbreak (s : State) : Out :=
  withTh s fun t th =>
    match s.sessionFor th.cmd with
    | some f => if th.skipCheck then s.done t th else s.haltThread t th .ebreak false f
    | none => s.trap t th 3 th.pc

/-- MRET: only in machine mode (R141). -/
def execMret (s : State) : Out :=
  withTh s fun t th =>
    if th.mode = .machine then s.handlerReturn t th else s.trap t th 2 (wordOf .mret)

/-- WFI: only in machine mode (R141); the wait may end at once. -/
def execWfi (s : State) : Out :=
  withTh s fun t th =>
    if th.mode = .machine then s.done t th else s.trap t th 2 (wordOf .wfi)

end Sys2Proof.Machine
end

