-- ==== Sys2Proof/Machine/Formats.lean ====
section
/-! DEFINITION. Element and scale formats: packing (R87), values (R86 to R95), products and sums of the
array (R94, R96, R97), and conversion rounding (R99, R100). -/

namespace Sys2Proof.Machine

/-- Element formats. -/
inductive Elem where
  | fp32 | bf16 | fp16 | e4m3 | e5m2 | e3m2 | e2m3 | e2m1 | int8 | int4 | lns6
  deriving DecidableEq, Repr

/-- Width in bits. -/
def Elem.bits : Elem → Nat
  | .fp32 => 32 | .bf16 => 16 | .fp16 => 16 | .e4m3 => 8 | .e5m2 => 8 | .e3m2 => 6 | .e2m3 => 6
  | .e2m1 => 4 | .int8 => 8 | .int4 => 4 | .lns6 => 6

/-! ### Packing (R87) -/

def unpack4 : List Byte → List Nat
  | [] => []
  | b :: bs => b.toNat % 16 :: b.toNat / 16 :: unpack4 bs
def unpack6 : List Byte → List Nat
  | a :: b :: c :: bs =>
    let v := a.toNat + 256 * b.toNat + 65536 * c.toNat
    v % 64 :: v / 64 % 64 :: v / 4096 % 64 :: v / 262144 :: unpack6 bs
  | _ => []
def unpack16 : List Byte → List Nat
  | a :: b :: bs => (a.toNat + 256 * b.toNat) :: unpack16 bs
  | _ => []
def unpack32 : List Byte → List Nat
  | a :: b :: c :: d :: bs => leNat [a, b, c, d] :: unpack32 bs
  | _ => []
/-- Codes of the elements packed in some bytes. -/
def unpack (w : Nat) (bs : List Byte) : List Nat :=
  if w = 4 then unpack4 bs else if w = 6 then unpack6 bs else if w = 8 then bs.map (·.toNat)
  else if w = 16 then unpack16 bs else unpack32 bs

def pack4 : List Nat → List Byte
  | a :: b :: cs => BitVec.ofNat 8 (a + 16 * b) :: pack4 cs
  | [a] => [BitVec.ofNat 8 a]
  | [] => []
def pack6 : List Nat → List Byte
  | a :: b :: c :: d :: cs => leBytes 3 (a + 64 * b + 4096 * c + 262144 * d) ++ pack6 cs
  | _ => []
/-- Bytes of packed elements. -/
def pack (w : Nat) (cs : List Nat) : List Byte :=
  if w = 4 then pack4 cs else if w = 6 then pack6 cs else (cs.map (leBytes (w / 8))).flatten

/-! ### Values -/

/-- 2^(f/4) in units of 2^-15 (R94). -/
def expTab (f : Nat) : Nat :=
  if f = 0 then 0x8000 else if f = 1 then 0x9838 else if f = 2 then 0xB505 else 0xD745
/-- An integer as a value. -/
def ofInt (v : Int) : FV := ofUnits false v 0
/-- The linear value of an LNS6 code, as VCVT reads it (R243). -/
def lnsValue (c : Nat) : FV :=
  let l := c % 32
  if c = 32 then .nan else if l = 0 then .fin false 0 0
  else .fin (decide (32 ≤ c)) (expTab (l % 4)) ((l / 4 : Nat) - 4 - 15)
/-- Product of two LNS6 codes (R94). -/
def lnsMul (a b : Nat) : FV :=
  let la := a % 32; let lb := b % 32
  if a = 32 ∨ b = 32 then .nan
  else if la = 0 ∨ lb = 0 then .fin false 0 0
  else
    let p := la + lb
    .fin (decide (32 ≤ a) != decide (32 ≤ b)) (expTab (p % 4)) ((p / 4 : Nat) - 8 - 15)

/-- The value of an element code (R86, R93, R95). -/
def Elem.value (k : Elem) (c : Nat) : FV :=
  match k with
  | .fp32 => Machine.fp32.value c
  | .bf16 => Machine.bf16.value c
  | .fp16 => Machine.fp16.value c
  | .e4m3 => Machine.e4m3.value c
  | .e5m2 => Machine.e5m2.value c
  | .e3m2 => Machine.e3m2.value c
  | .e2m3 => Machine.e2m3.value c
  | .e2m1 => Machine.e2m1.value c
  | .int8 => ofInt (sint8 8 c)
  | .int4 => ofInt (sint8 4 c)
  | .lns6 => lnsValue c
where
  sint8 (n v : Nat) : Int := (BitVec.ofNat n v).toInt

/-- Scale formats (R90). -/
inductive ScaleF where
  | none | e8m0 | ue5m3
  deriving DecidableEq, Repr

/-- The value of a scale code; a zero-coded UE5M3 scale multiplies as a positive zero (R90, R92). -/
def ScaleF.value (f : ScaleF) (c : Nat) : FV :=
  match f with
  | .none => .fin false 1 0
  | .e8m0 => if c = 255 then .nan else .fin false 1 ((c : Int) - 127)
  | .ue5m3 => if c = 0 then .fin false 0 0 else if c = 255 then .nan
              else .fin false (8 + c % 8) ((c / 8 : Nat) - 15 - 3)

/-! ### Conversion rounding (R99) -/

/-- Into a floating-point element format; formats without infinity take the largest finite code. -/
def Fmt.roundTo (f : Fmt) (nanCode : Nat) : FV → Nat
  | .nan => nanCode
  | .inf s => (if s then f.signCode else 0) + (if f.special = .ieee then f.topCode else f.topCode - 1)
  | .fin s m e =>
    let sg := if s then f.signCode else 0
    if m = 0 then sg
    else
      let c := (f.roundMag .rne s m e).1
      sg + (if f.topCode ≤ c then (if f.special = .ieee then f.topCode else f.topCode - 1) else c)

/-- A value clamped to n-bit two's complement after rounding to nearest even; NaN gives 0. -/
def toIntN (n : Nat) : FV → Int
  | .nan => 0
  | .inf s => if s then -(2 ^ (n - 1) : Nat) else (2 ^ (n - 1) : Nat) - 1
  | .fin s m e =>
    let v := (toInteger .rne s m e).1
    max (-(2 ^ (n - 1) : Nat)) (min v ((2 ^ (n - 1) : Nat) - 1))

/-- Into LNS6: the code whose interval holds the magnitude (R99). -/
def toLns : FV → Nat
  | .nan => 32
  | .inf s => (if s then 32 else 0) + 31
  | .fin s m e =>
    if m = 0 then 0
    else
      let l := (((m ^ 8).log2 : Int) + 8 * e + 33) / 2
      if l ≤ 0 then 0 else (if s then 32 else 0) + (min l 31).toNat

/-- The code of a value in an element format (R99); blocks handle NaN and infinity before this. -/
def Elem.code (k : Elem) (v : FV) : Nat :=
  match k with
  | .fp32 => (rne32 v).toNat
  | .bf16 => Machine.bf16.roundTo 0x7FC0 v
  | .fp16 => Machine.fp16.roundTo 0x7E00 v
  | .e4m3 => Machine.e4m3.roundTo 0x7F v
  | .e5m2 => Machine.e5m2.roundTo 0x7E v
  | .e3m2 => Machine.e3m2.roundTo 0 v
  | .e2m3 => Machine.e2m3.roundTo 0 v
  | .e2m1 => Machine.e2m1.roundTo 0 v
  | .int8 => (BitVec.ofInt 8 (toIntN 8 v)).toNat
  | .int4 => (BitVec.ofInt 4 (toIntN 4 v)).toNat
  | .lns6 => toLns v

/-! ### Block formats (R100) -/

def FV.isFinite : FV → Bool
  | .fin _ _ _ => true
  | _ => false
def FV.abs : FV → FV
  | .nan => .nan
  | .inf _ => .inf false
  | .fin _ m e => .fin false m e
/-- The largest magnitude of some finite values. -/
def amax (vs : List FV) : FV := vs.foldl (fun a v => if a.lt v.abs then v.abs else a) (.fin false 0 0)
/-- emax of R100. -/
def Elem.emax : Elem → Int
  | .e4m3 => 8 | .e5m2 => 15 | .e3m2 => 4 | _ => 2
/-- Largest finite magnitude of an element format with a block scale. -/
def Elem.largest (k : Elem) : FV :=
  match k with
  | .e4m3 => .fin false 448 0 | .e5m2 => .fin false 57344 0 | .e3m2 => .fin false 28 0
  | .e2m3 => .fin false 15 (-1) | _ => .fin false 6 0
/-- The scale code of a block without NaN or infinity. -/
def scaleCode (f : ScaleF) (k : Elem) (vs : List FV) : Nat :=
  let a := amax vs
  match f, a with
  | .e8m0, .fin _ m e =>
    if m = 0 then 127 else (max 0 (min 254 ((m.log2 : Int) + e - k.emax + 127))).toNat
  | .ue5m3, _ =>
    if a.isZero then 0
    else ((List.range 255).find? (fun c => !((f.value c).mul k.largest).lt a)).getD 254
  | _, _ => 0
/-- A value divided by a scale, exactly or with a sticky lowest bit; zero over zero keeps its sign. -/
def FV.divScale (v sc : FV) : FV :=
  match v, sc with
  | .fin s m e, .fin _ n f =>
    if n = 0 ∨ m = 0 then .fin s 0 0
    else
      let q := quotient m n e f
      .fin s q.1 q.2
  | v, _ => v
/-- Does a block format keep an infinity as an element: E5M2 with a UE5M3 scale (R100)? -/
def keepsInf (f : ScaleF) (k : Elem) : Bool := f == .ue5m3 && k == .e5m2
/-- A block as scale code and element codes, the scale chosen from the finite elements; a block with NaN, or with an
infinity that its format does not keep, is all NaN (R100). -/
def quantBlock (f : ScaleF) (k : Elem) (vs : List FV) : Nat × List Nat :=
  if vs.all (fun v => v.isFinite || (keepsInf f k && v != .nan)) then
    let c := scaleCode f k (vs.filter FV.isFinite)
    (c, vs.map (fun v => k.code (v.divScale (f.value c))))
  else (255, vs.map (fun _ => 0))

/-- Lists of `n` elements. -/
def chunks {α : Type} (n : Nat) : Nat → List α → List (List α)
  | 0, _ => []
  | k + 1, l => l.take n :: chunks n k (l.drop n)

/-! ### The array's pairs (R251, R255) -/

/-- What a pair's rows and planes are made of: activation and weight element, block size, scale format,
depth, whether each activation stands in its own byte, row bytes, scale bytes, weight format code. -/
structure PairInfo where
  act : Elem
  wt : Elem
  block : Nat
  scale : ScaleF
  depth : Nat
  bytewise : Bool
  rowBytes : Nat
  scaleBytes : Nat
  fmt : Nat
  deriving DecidableEq, Repr

def pairInfo : Pair → PairInfo
  | .bb => ⟨.bf16, .bf16, 0, .none, 128, false, 256, 0, 0⟩
  | .hh => ⟨.fp16, .fp16, 0, .none, 128, false, 256, 0, 1⟩
  | .e4e4 => ⟨.e4m3, .e4m3, 0, .none, 256, false, 256, 0, 2⟩
  | .e4e5 => ⟨.e4m3, .e5m2, 0, .none, 256, false, 256, 0, 3⟩
  | .e5e4 => ⟨.e5m2, .e4m3, 0, .none, 256, false, 256, 0, 2⟩
  | .e5e5 => ⟨.e5m2, .e5m2, 0, .none, 256, false, 256, 0, 3⟩
  | .mx8 => ⟨.e4m3, .e4m3, 32, .e8m0, 256, false, 256, 8, 4⟩
  | .mx6 => ⟨.e2m3, .e2m3, 32, .e8m0, 256, false, 192, 8, 5⟩
  | .mx4 => ⟨.e2m1, .e2m1, 32, .e8m0, 512, false, 256, 16, 6⟩
  | .mx4x8 => ⟨.e2m1, .e4m3, 32, .e8m0, 256, true, 256, 8, 4⟩
  | .s4 => ⟨.e2m1, .e2m1, 16, .ue5m3, 512, false, 256, 32, 7⟩
  | .i8 => ⟨.int8, .int8, 0, .none, 256, false, 256, 0, 8⟩
  | .i8i4 => ⟨.int8, .int4, 0, .none, 256, false, 256, 0, 9⟩
  | .ln6 => ⟨.lns6, .lns6, 0, .none, 512, false, 384, 0, 10⟩
def Pair.integer : Pair → Bool
  | .i8 => true | .i8i4 => true | _ => false
/-- Plane bytes of a weight format code (R251). -/
def planeBytes : Nat → Nat
  | 0 => 32768 | 1 => 32768 | 2 => 32768 | 3 => 32768 | 4 => 33792 | 5 => 25600 | 6 => 34816
  | 7 => 36864 | 8 => 32768 | 9 => 16384 | _ => 49152

/-! ### One column of one row (R96, R97) -/

/-- The scale of each element of a row or column, as values. -/
def scalesOf (p : PairInfo) (bs : List Byte) : List FV := bs.map (fun b => p.scale.value b.toNat)
/-- Element values, each times its block's scale. -/
def scaled (block : Nat) (vs scs : List FV) : List FV :=
  if block = 0 then vs
  else (List.zipWith (fun vb sc => vb.map (fun v => v.mul sc))
    (chunks block (vs.length / block) vs) scs).flatten

/-- Codes of an activation row. -/
def actCodes (p : PairInfo) (bs : List Byte) : List Nat :=
  if p.bytewise then bs.map (fun b => b.toNat % 16) else unpack p.act.bits bs

/-- The exact sum of a row with a column; a zero sum is −0 exactly when every product is −0 (R5, R96, log 21). -/
def columnSum (p : PairInfo) (act : List Byte) (asc : List Byte) (w : List Byte) (wsc : List Byte) : FV :=
  if p.act = .lns6 then
    FV.sum (List.zipWith lnsMul (actCodes p act) (unpack 6 w))
  else
    let a := scaled p.block ((actCodes p act).map p.act.value) (scalesOf p asc)
    let b := scaled p.block ((unpack p.wt.bits w).map p.wt.value) (scalesOf p wsc)
    FV.sum (List.zipWith FV.mul a b)
/-- The integer sum of a row with a column. -/
def columnInt (p : PairInfo) (act w : List Byte) : Int :=
  (List.zipWith (fun a b => sgn 8 a * sgn p.wt.bits b) (actCodes p act) (unpack p.wt.bits w)).foldl
    (· + ·) 0
where
  sgn (n v : Nat) : Int := (BitVec.ofNat n v).toInt

/-- sat32 (R98): the word, and whether it saturated. -/
def sat32 (v : Int) : W32 × Bool :=
  if v < -2 ^ 31 then (0x80000000, true)
  else if 2 ^ 31 - 1 < v then (0x7FFFFFFF, true)
  else (BitVec.ofInt 32 v, false)

/-- An accumulator word after a row (R96). -/
def accUpdate (pr : Pair) (g : W32) (act asc w wsc : List Byte) (old : W32) : W32 × Bool :=
  let p := pairInfo pr
  if Pair.integer pr then sat32 (old.toInt + columnInt p act w)
  else (rne32 (FV.add false (val32 old) ((columnSum p act asc w wsc).mul (val32 g))), false)

/-- Column j of a plane's byte stream: its elements and its scales (R252). -/
def planeCol (p : PairInfo) (data : List Byte) (j : Nat) : List Byte × List Byte :=
  let cb := p.depth * p.wt.bits / 8
  ((data.drop (cb * j)).take cb,
    if p.block = 0 then [] else
      let sb := p.depth / p.block
      (data.drop (128 * cb + sb * j)).take sb)

end Sys2Proof.Machine
end

