-- ==== Sys2Proof/Machine/PrefixOps.lean ====
section
/-! DEFINITION. The prefix table (R278 to R283, R314, R396). -/

namespace Sys2Proof.Machine

/-- The s of PHASH over 16 tokens (R279). -/
def blockSum (toks : List Nat) : Word :=
  (toks.mapIdx (fun k x => wOf x <<< (3 * k))).foldl (· ^^^ ·) 0
/-- A chained block hash (R279). -/
def chainHash (h : Word) (toks : List Nat) : Word := h.rotateLeft 13 ^^^ blockSum toks
/-- The result word of PFXLOOK and PFXINS (R280). -/
def pfxWord (depth : Nat) (existed : Bool) (e : Nat) : Word :=
  wOf (depth * 2 ^ 32 + (if existed then 0x80 else 0) + 0x40 + e)

/-- Read n token words: a fault, an illegal token at the base address, or the tokens (R279). -/
def State.readTokens (s : State) (t : Nat) (th : Thread) (a : Word) (n : Nat)
    (k : List Nat → State → State) : State :=
  let vas := words4 a n
  if n ≠ 0 ∧ a.toNat % 4 ≠ 0 then s.trap t th 4 a
  else match s.readVals th .base (vas.map (fun v => (v, 4))) with
    | .error e => s.stop t th e
    | .ok toks =>
      if toks.any (fun x => decide (2 ^ 17 ≤ x)) then s.trap t th 2 a
      else k toks (s.touched th false vas)

/-- PHASH (R279). -/
def execPhash (rd rs1 rs2 : XReg) (s : State) : Out :=
  withTh s fun t th =>
    let h := th.rx rs1; let a := th.rx rs2
    if h.void || a.void then s.nullifyX t th rd (sawProp ||| sawMem)
    else s.readTokens t th a.val 16 fun toks s => s.done t (th.wx rd (.of (chainHash h.val toks)))

/-- The valid, undamaged entry with a hash, a parent and tokens (R280, R396). -/
def State.matchEntry (s : State) (h : Word) (parent : Nat) (toks : List Nat) : Option Nat :=
  (s.pfx.find? (fun p => !p.2.damaged && p.2.hash == h && p.2.parent == parent && p.2.tokens == toks)).map (·.1)
/-- The longest chain that some blocks begin with: its entries, deepest first (R280). -/
def State.lookGo (s : State) : Word → Nat → List Nat → List (List Nat) → List Nat
  | _, _, acc, [] => acc
  | h, e, acc, b :: bs =>
    let h := chainHash h b
    match s.matchEntry h e b with
    | some f => State.lookGo s h f (f :: acc) bs
    | none => acc
/-- Change chosen entries of the table. -/
def State.mapPfx (s : State) (es : List Nat) (f : Prefix → Prefix) : State :=
  { s with pfx := s.pfx.map (fun p => if es.contains p.1 then (p.1, f p.2) else p) }
/-- PINS of an entry. -/
def State.pinsOf (s : State) (e : Nat) : Nat := match tfind s.pfx e with | some x => x.pins | none => 0

/-- PFXLOOK (R280). -/
def execPfxlook (rd rs1 rs2 : XReg) (s : State) : Out :=
  withTh s fun t th =>
    let a := th.rx rs1; let c := th.rx rs2
    let n := fld c.val 6 0; let pin := c.val.getLsbD 8
    if a.void || c.void then s.nullifyX t th rd (sawProp ||| sawMem)
    else if fld c.val 63 9 ≠ 0 ∨ c.val.getLsbD 7 ∨ 64 < n then s.trap t th 2 c.val
    else s.readTokens t th a.val (16 * n) fun toks s =>
      let es := s.lookGo 0 64 [] (chunks 16 n toks)
      match es with
      | [] => s.done t (th.wx rd (.of 0))
      | e :: _ =>
        if pin && es.any (fun f => s.pinsOf f == 65535) then s.trap t th 2 (wOf e)
        else
          let use := s.pfxUse + 1
          let s := { s with pfxUse := use }.mapPfx es (fun x =>
            { x with age := use.toNat, pins := if pin then x.pins + 1 else x.pins })
          s.done t (th.wx rd (.of (pfxWord es.length false e)))

/-- The entry PFXINS may evict: no pins and no children, be it the parent named; a damaged one first, then the
smallest AGE, then the lowest index (R281, R396, log 25). -/
def State.evictable (s : State) : Option Nat :=
  let cs := s.pfx.filter (fun p => p.2.pins == 0 && !(s.pfx.any (fun q => q.2.parent == p.1)))
  let better (a b : Nat × Prefix) : Bool :=
    (a.2.damaged && !b.2.damaged) || (a.2.damaged == b.2.damaged && decide (a.2.age < b.2.age))
  (cs.foldl (fun best p => match best with
    | none => some p
    | some b => if better p b then some p else best) none).map (·.1)
/-- Give a KV page back to the pool of its die, wiped (R314). -/
def State.kvReturn (s : State) (pa : Nat) : State :=
  let d := pa / dieRange
  let s := s.wipe pa 65536
  let x := s.die d
  s.setDie d { x with kvPool := x.kvPool ++ [pa] }
/-- Free an entry (R281). -/
def State.evict (s : State) (f : Nat) : State :=
  match tfind s.pfx f with
  | some x => { s with pfx := tdel s.pfx f }.kvReturn x.page
  | none => s
/-- One page from a die's KV pool into a stream's pool, if there is one (R314). -/
def State.refill (s : State) (d : Nat) (st : Stream) : Stream × State :=
  let x := s.die d
  match x.kvPool with
  | p :: ps => ({ st with pool := st.pool ++ [p] }, s.setDie d { x with kvPool := ps })
  | [] => (st, s)
/-- A page of a stream becomes SHARED, mapped without W (R281). -/
def State.sharePage (s : State) (st : Stream) (b : Nat) (k : KvPage) : State :=
  let va := st.kvbase + 65536 * b
  let s := match s.walk st.aspace va with
    | some f => s.putNum f.entry 8 (kvLeaf k.pa false)
    | none => s
  s.dropTlb st.aspace va 65536

/-- PFXINS (R281). -/
def execPfxins (rd rs1 rs2 : XReg) (s : State) : Out :=
  withTh s fun t th =>
    let p := th.rx rs1; let b := th.rx rs2
    let parent := p.val.toNat
    if p.void || b.void then s.nullifyX t th rd (sawProp ||| sawMem)
    else withStream s t th fun id st =>
      let par := if parent = 64 then none else tfind s.pfx parent
      let badParent := 64 < parent || (parent != 64 && (match par with | some x => x.depth == 64 | none => true))
      let depth := match par with | some x => x.depth + 1 | none => 1
      if badParent then s.trap t th 2 p.val
      else if st.g < 16 * b.val.toNat + 16 then s.trap t th 2 b.val
      else match st.pages[b.val.toNat]? with
        | none => s.trap t th 2 b.val
        | some k =>
          if k.shared then s.trap t th 2 b.val
          else
            let h := chainHash (match par with | some x => x.hash | none => 0) k.tokens
            let use := s.pfxUse + 1
            let s := { s with pfxUse := use }
            match s.matchEntry h parent k.tokens with
            | some e =>
              let d := match tfind s.pfx e with | some x => x.depth | none => 0
              (s.mapPfx [e] (fun x => { x with age := use.toNat })).done t (th.wx rd (.of (pfxWord d true e)))
            | none =>
              let slot := match (List.range 64).find? (fun e => (tfind s.pfx e).isNone) with
                | some e => some (e, s)
                | none => s.evictable.map (fun e => (e, s.evict e))
              match slot with
              | none => s.done t (th.wx rd (.of 0))
              | some (e, s) =>
                let s := { s with pfx := tset s.pfx e ⟨h, parent, depth, k.tokens, k.pa, 0, use.toNat, false⟩ }
                let s := s.sharePage st b.val.toNat k
                let st := { st with pages := st.pages.set b.val.toNat { k with shared := true } }
                let (st, s) := s.refill (State.streamDie id) st
                (s.setStream id st).done t (th.wx rd (.of (pfxWord depth false e)))

/-- PFXPIN and PFXUNPIN (R282). -/
def pfxCount (up : Bool) (rs1 : XReg) (s : State) : Out :=
  withTh s fun t th =>
    let e := th.rx rs1
    if e.void then s.nullify t th sawMem
    else if 63 < e.val.toNat ∨ (tfind s.pfx e.val.toNat).isNone then s.trap t th 2 e.val
    else
      let es := s.chain e.val.toNat
      if es.any (fun f => s.pinsOf f == (if up then 65535 else 0)) then s.trap t th 2 e.val
      else (s.mapPfx es (fun x => { x with pins := if up then x.pins + 1 else x.pins - 1 })).done t th
def execPfxpin (rs1 : XReg) (s : State) : Out := pfxCount true rs1 s
def execPfxunpin (rs1 : XReg) (s : State) : Out := pfxCount false rs1 s

end Sys2Proof.Machine
end

