-- ==== Sys2Proof/Machine/VectorOps.lean ====
section
/-! DEFINITION. Vector instructions (R230 to R246). -/

namespace Sys2Proof.Machine

abbrev Lane := VWord 32
abbrev VVal := Vector Lane 64

/-! ### Shapes -/

/-- Lane i of a register. -/
def laneOf (v : VVal) (i : Nat) : Lane := (v[i]?).getD (.of 0)
/-- A register with every lane void. -/
def allVoid : VVal := Vector.replicate 64 .voidword
/-- A compute core runs it; a stage core raises cause 2 with the word (R233). -/
def onComputeWord (w : Word) (s : State) (k : Nat → Thread → State) : Out :=
  withTh s fun t th => if th.cls = .stage then s.trap t th 2 w else k t th
/-- The same, by the instruction. -/
def onCompute (i : Instr) (s : State) (k : Nat → Thread → State) : Out := onComputeWord (wordOf i) s k
/-- Every lane of the destination becomes void for a void scalar source (R232). -/
def State.nullifyV (s : State) (t : Nat) (th : Thread) (rd : VReg) (bits : BitVec 6) : State :=
  s.done t ((th.wv rd allVoid).see bits)
/-- Write active lanes; a void lane among them sets PROP (R231, R232). -/
def Thread.putLanes (th : Thread) (rd : VReg) (f : Nat → Lane) : Thread :=
  let old := th.rv rd
  let new : VVal := Vector.ofFn (fun i : Fin 64 => if th.active i.val then f i.val else laneOf old i.val)
  let hit := (List.range 64).any (fun i => th.active i && (f i).void)
  (th.wv rd new).see (if hit then sawProp else 0)
/-- A lane from one source, void where the source is. -/
def lane1 (f : W32 → W32) (a : Lane) : Lane := if a.void then .voidword else .of (f a.val)
/-- A lane from two sources. -/
def lane2 (f : W32 → W32 → W32) (a b : Lane) : Lane :=
  if a.void || b.void then .voidword else .of (f a.val b.val)

/-- A masked operation on two registers. -/
def vec2 (i : Instr) (rd rs1 rs2 : VReg) (f : W32 → W32 → W32) (s : State) : Out :=
  onCompute i s fun t th =>
    let a := th.rv rs1; let b := th.rv rs2
    s.done t (th.putLanes rd (fun i => lane2 f (laneOf a i) (laneOf b i)))
/-- A masked operation on one register. -/
def vec1 (i : Instr) (rd rs1 : VReg) (f : W32 → W32) (s : State) : Out :=
  onCompute i s fun t th =>
    let a := th.rv rs1
    s.done t (th.putLanes rd (fun i => lane1 f (laneOf a i)))

/-! ### Elements of a lane (R230) -/

/-- Both BF16 halves of lanes. -/
def halves2 (f : FV → FV → FV) (a b : W32) : W32 :=
  let h (k : Nat) : BitVec 16 := BitVec.ofNat 16 (Elem.bf16.code
    (f (bf16.value (a.extractLsb' (16 * k) 16).toNat) (bf16.value (b.extractLsb' (16 * k) 16).toNat)))
  h 1 ++ h 0
/-- The four INT8 elements of lanes, saturated. -/
def bytes2 (f : Int → Int → Int) (a b : W32) : W32 :=
  let q (k : Nat) : BitVec 8 :=
    BitVec.ofInt 8 (max (-128) (min 127 (f (a.extractLsb' (8 * k) 8).toInt (b.extractLsb' (8 * k) 8).toInt)))
  q 3 ++ q 2 ++ q 1 ++ q 0
/-- The four bytes of lanes, as bits. -/
def bits2 (f : Byte → Byte → Byte) (a b : W32) : W32 :=
  let q (k : Nat) : Byte := f (a.extractLsb' (8 * k) 8) (b.extractLsb' (8 * k) 8)
  q 3 ++ q 2 ++ q 1 ++ q 0
/-- FP32 from values. -/
def float2 (f : FV → FV → FV) (a b : W32) : W32 := rne32 (f (val32 a) (val32 b))

/-- An element operation under its type: on values, on INT32 bits, on INT8 integers (R234). -/
def elem2 (ty : ETy) (fv : FV → FV → FV) (i32 : W32 → W32 → W32) (i8 : Int → Int → Int) : W32 → W32 → W32 :=
  match ty with
  | .f32 => float2 fv
  | .i32 => i32
  | .bf16 => halves2 fv
  | .i8 => bytes2 i8
/-- Order of values with −0 < +0. -/
def FV.below (a b : FV) : Bool := a.lt b || (a.eq b && a.isNeg && !b.isNeg)
/-- The larger or smaller value; any NaN gives NaN (R234). -/
def FV.pick (isMax : Bool) (a b : FV) : FV :=
  if a == .nan || b == .nan then .nan else if a.below b != isMax then a else b

/-! ### Element arithmetic -/

def execVadd (ty : ETy) (rd rs1 rs2 : VReg) (s : State) : Out :=
  vec2 (.vadd ty rd rs1 rs2) rd rs1 rs2 (elem2 ty (FV.add false) (· + ·) (· + ·)) s
def execVsub (ty : ETy) (rd rs1 rs2 : VReg) (s : State) : Out :=
  vec2 (.vsub ty rd rs1 rs2) rd rs1 rs2 (elem2 ty (fun a b => FV.add false a b.neg) (· - ·) (· - ·)) s
def execVmul (ty : ETy) (rd rs1 rs2 : VReg) (s : State) : Out :=
  vec2 (.vmul ty rd rs1 rs2) rd rs1 rs2 (elem2 ty FV.mul (· * ·) (· * ·)) s
def execVmax (ty : ETy) (rd rs1 rs2 : VReg) (s : State) : Out :=
  vec2 (.vmax ty rd rs1 rs2) rd rs1 rs2 (elem2 ty (FV.pick true) (fun a b => if a.slt b then b else a) max) s
def execVmin (ty : ETy) (rd rs1 rs2 : VReg) (s : State) : Out :=
  vec2 (.vmin ty rd rs1 rs2) rd rs1 rs2 (elem2 ty (FV.pick false) (fun a b => if b.slt a then b else a) min) s
def execVand (ty : ETy) (rd rs1 rs2 : VReg) (s : State) : Out :=
  vec2 (.vand ty rd rs1 rs2) rd rs1 rs2 (· &&& ·) s
def execVor (ty : ETy) (rd rs1 rs2 : VReg) (s : State) : Out :=
  vec2 (.vor ty rd rs1 rs2) rd rs1 rs2 (· ||| ·) s
def execVxor (ty : ETy) (rd rs1 rs2 : VReg) (s : State) : Out :=
  vec2 (.vxor ty rd rs1 rs2) rd rs1 rs2 (· ^^^ ·) s
def execVshl (ty : ETy) (rd rs1 rs2 : VReg) (s : State) : Out :=
  vec2 (.vshl ty rd rs1 rs2) rd rs1 rs2
    (if ty = .i8 then bits2 (fun a b => a <<< (b.toNat % 8)) else fun a b => a <<< (b.toNat % 32)) s
def execVshr (ty : ETy) (rd rs1 rs2 : VReg) (s : State) : Out :=
  vec2 (.vshr ty rd rs1 rs2) rd rs1 rs2
    (if ty = .i8 then bits2 (fun a b => a >>> (b.toNat % 8)) else fun a b => a >>> (b.toNat % 32)) s
def execVsra (ty : ETy) (rd rs1 rs2 : VReg) (s : State) : Out :=
  vec2 (.vsra ty rd rs1 rs2) rd rs1 rs2
    (if ty = .i8 then bits2 (fun a b => a.sshiftRight (b.toNat % 8)) else fun a b => a.sshiftRight (b.toNat % 32)) s
def execVabs (ty : ETy) (rd rs1 : VReg) (s : State) : Out :=
  vec1 (.vabs ty rd rs1) rd rs1
    (fun a => elem2 ty (fun x _ => x.abs) (fun x _ => if x.slt 0 then -x else x) (fun x _ => x.natAbs) a a) s
def execVneg (ty : ETy) (rd rs1 : VReg) (s : State) : Out :=
  vec1 (.vneg ty rd rs1) rd rs1
    (fun a => elem2 ty (fun x _ => x.neg) (fun x _ => -x) (fun x _ => -x) a a) s
def execVexp2 (ty : ETy) (rd rs1 : VReg) (s : State) : Out := vec1 (.vexp2 ty rd rs1) rd rs1 vexp2 s
def execVlog2 (ty : ETy) (rd rs1 : VReg) (s : State) : Out := vec1 (.vlog2 ty rd rs1) rd rs1 vlog2 s
def execVrcp (ty : ETy) (rd rs1 : VReg) (s : State) : Out := vec1 (.vrcp ty rd rs1) rd rs1 vrcp s
def execVrsq (ty : ETy) (rd rs1 : VReg) (s : State) : Out := vec1 (.vrsq ty rd rs1) rd rs1 vrsq s
def execVmov (ty : ETy) (rd rs1 : VReg) (s : State) : Out := vec1 (.vmov ty rd rs1) rd rs1 id s

/-- What VBCAST puts into a lane; a NaN gives the canonical NaN (R234). -/
def bcastLane (ty : ETy) (f : W32) (x : Word) : W32 :=
  match ty with
  | .f32 => if isNan32 f then canonNan else f
  | .i32 => x.setWidth 32
  | .bf16 =>
    let h : BitVec 16 := BitVec.ofNat 16 (Elem.bf16.code (val32 f))
    h ++ h
  | .i8 =>
    let b : Byte := x.setWidth 8
    b ++ b ++ b ++ b
/-- VBCAST: f[rs1] for the float types, x[rs1] for the integer ones. -/
def execVbcast (ty : ETy) (rd : VReg) (rs1 : BitVec 5) (s : State) : Out :=
  onCompute (.vbcast ty rd rs1) s fun t th =>
    let isF := ty == .f32 || ty == .bf16
    let f := th.rf rs1; let x := th.rx rs1
    if (if isF then f.void else x.void) then s.nullifyV t th rd sawProp
    else s.done t (th.putLanes rd (fun _ => .of (bcastLane ty f.val x.val)))

/-! ### Fused forms and select (R236) -/

def vfused (i : Instr) (rd rs1 rs2 rs3 : VReg) (neg : Bool) (s : State) : Out :=
  onCompute i s fun t th =>
    let a := th.rv rs1; let b := th.rv rs2; let c := th.rv rs3
    s.done t (th.putLanes rd (fun i =>
      let x := laneOf a i; let y := laneOf b i; let z := laneOf c i
      if x.void || y.void || z.void then .voidword
      else
        let w := val32 z.val
        .of (rne32 (FV.add false ((val32 x.val).mul (val32 y.val)) (if neg then w.neg else w)))))
def execVfma (rd rs1 rs2 rs3 : VReg) (s : State) : Out := vfused (.vfma rd rs1 rs2 rs3) rd rs1 rs2 rs3 false s
def execVfms (rd rs1 rs2 rs3 : VReg) (s : State) : Out := vfused (.vfms rd rs1 rs2 rs3) rd rs1 rs2 rs3 true s
def execVsel (rd rs1 rs2 : VReg) (rs3 : MReg) (s : State) : Out :=
  onCompute (.vsel rd rs1 rs2 rs3) s fun t th =>
    let a := th.rv rs1; let b := th.rv rs2; let m := th.rm rs3
    s.done t (th.putLanes rd (fun i => if m.getLsbD i then laneOf a i else laneOf b i))

/-! ### Loads and stores (R237) -/

/-- Active lanes of a vector access with an address: (lane, address). -/
def liveLanes (th : Thread) (addr : Nat → Option Word) : List (Nat × Word) :=
  (List.range 64).filterMap (fun i => if th.active i then (addr i).map (fun a => (i, a)) else none)
/-- A masked load: all lanes are checked, then written; a lane without address becomes void. -/
def vload (s : State) (t : Nat) (th : Thread) (rd : VReg) (addr : Nat → Option Word) : State :=
  let ls := liveLanes th addr
  match s.readVals th .base (ls.map (fun p => (p.2, 4))) with
  | .error e => s.stop t th e
  | .ok vs =>
    let got := (ls.map (·.1)).zip vs
    let miss := (List.range 64).any (fun i => th.active i && (addr i).isNone)
    (s.touched th false (ls.map (·.2))).done t ((th.putLanes rd (fun i => match tfind got i with
      | some v => .of (BitVec.ofNat 32 v)
      | none => .voidword)).see (if miss then sawMem else 0))
/-- Check the stores of some lanes, in ascending order. -/
def checkStores (s : State) (th : Thread) : List (Word × W32) → Except Stop (List (Place × Word × W32))
  | [] => .ok []
  | (a, d) :: rest => do
    let p ← s.access th a 4 .store .base (some (d.setWidth 64))
    let ps ← checkStores s th rest
    .ok ((p, a, d) :: ps)
/-- A masked store: all lanes are checked, with room in the log ring for every page they make dirty (R334), then
written in ascending order. -/
def vstore (s : State) (t : Nat) (th : Thread) (data : VVal) (addr : Nat → Option Word) : State :=
  let ls := liveLanes th (fun i => if (laneOf data i).void then none else addr i)
  let miss := (List.range 64).any (fun i => th.active i && ((laneOf data i).void || (addr i).isNone))
  match checkStores s th (ls.map (fun p => (p.2, (laneOf data p.1).val))) with
  | .error e => s.stop t th e
  | .ok ps =>
    if !s.logFits th.tile th.aspace (ls.map (·.2.toNat)) then s.logWait t th else
    let r := ps.foldl (fun (q : Thread × State) p => q.2.performWrite t q.1 p.1 p.2.1 4 p.2.2.toNat) (th, s)
    r.2.done t (r.1.see (if miss then sawMem else 0))

def execVld (rd : VReg) (rs1 : XReg) (imm : BitVec 12) (s : State) : Out :=
  onCompute (.vld rd rs1 imm) s fun t th =>
    let a := th.rx rs1
    if a.void then s.nullifyV t th rd (sawProp ||| sawMem)
    else vload s t th rd (fun i => some (a.val + imm.signExtend 64 + wOf (4 * i)))
def execVst (rs2 : VReg) (rs1 : XReg) (imm : BitVec 12) (s : State) : Out :=
  onCompute (.vst rs2 rs1 imm) s fun t th =>
    let a := th.rx rs1
    if a.void then s.nullify t th sawMem
    else vstore s t th (th.rv rs2) (fun i => some (a.val + imm.signExtend 64 + wOf (4 * i)))
def execVlds (rd : VReg) (rs1 rs2 : XReg) (s : State) : Out :=
  onCompute (.vlds rd rs1 rs2) s fun t th =>
    let a := th.rx rs1; let st := th.rx rs2
    if a.void || st.void then s.nullifyV t th rd (sawProp ||| sawMem)
    else if fld st.val 1 0 ≠ 0 then s.trap t th 4 st.val
    else vload s t th rd (fun i => some (a.val + wOf i * st.val))
/-- Address of a lane from an index register. -/
def indexAddr (a : Word) (idx : VVal) (i : Nat) : Option Word :=
  let k := laneOf idx i
  if k.void then none else some (a + 4 * k.val.setWidth 64)
def execVldx (rd : VReg) (rs1 : XReg) (rs2 : VReg) (s : State) : Out :=
  onCompute (.vldx rd rs1 rs2) s fun t th =>
    let a := th.rx rs1
    if a.void then s.nullifyV t th rd (sawProp ||| sawMem)
    else vload s t th rd (indexAddr a.val (th.rv rs2))
def execVstx (rd : VReg) (rs1 : XReg) (rs2 : VReg) (s : State) : Out :=
  onCompute (.vstx rd rs1 rs2) s fun t th =>
    let a := th.rx rs1
    if a.void then s.nullify t th sawMem
    else vstore s t th (th.rv rd) (indexAddr a.val (th.rv rs2))

/-! ### Reductions and lane moves (R238 to R240) -/

/-- A reduction over the active lanes of a register. -/
def vreduce (i : Instr) (rd : FReg) (rs1 : VReg) (f : List W32 → W32) (s : State) : Out :=
  onCompute i s fun t th =>
    let v := th.rv rs1
    let ls := ((List.range 64).filter th.active).map (laneOf v)
    if ls.any (·.void) then s.nullifyF t th rd sawProp
    else s.done t (th.wf rd (.of (f (ls.map (·.val)))))
/-- The extreme of some lanes; NaN among them gives the canonical NaN. -/
def extreme (isMax : Bool) (ws : List W32) : W32 :=
  rne32 (ws.foldl (fun v w => FV.pick isMax v (val32 w)) (.inf isMax))
def execVredsum (rd : FReg) (rs1 : VReg) (s : State) : Out :=
  vreduce (.vredsum rd rs1) rd rs1 (fun ws => rne32 (FV.sum (ws.map val32))) s
def execVredmax (rd : FReg) (rs1 : VReg) (s : State) : Out :=
  vreduce (.vredmax rd rs1) rd rs1 (extreme true) s
def execVredmin (rd : FReg) (rs1 : VReg) (s : State) : Out :=
  vreduce (.vredmin rd rs1) rd rs1 (extreme false) s

def execVmvx (rd : XReg) (rs1 : VReg) (rs2 : XReg) (s : State) : Out :=
  onCompute (.vmvx rd rs1 rs2) s fun t th =>
    let k := th.rx rs2
    if k.void then s.nullifyX t th rd sawProp
    else if 63 < k.val.toNat then s.trap t th 2 k.val
    else
      let a := laneOf (th.rv rs1) k.val.toNat
      if a.void then s.nullifyX t th rd sawProp else s.done t (th.wx rd (.of (a.val.signExtend 64)))
def execVmvf (rd : FReg) (rs1 : VReg) (rs2 : XReg) (s : State) : Out :=
  onCompute (.vmvf rd rs1 rs2) s fun t th =>
    let k := th.rx rs2
    if k.void then s.nullifyF t th rd sawProp
    else if 63 < k.val.toNat then s.trap t th 2 k.val
    else
      let a := laneOf (th.rv rs1) k.val.toNat
      if a.void then s.nullifyF t th rd sawProp else s.done t (th.wf rd (.of a.val))
def execVins (rd : VReg) (rs1 rs2 : XReg) (s : State) : Out :=
  onCompute (.vins rd rs1 rs2) s fun t th =>
    let x := th.rx rs1; let k := th.rx rs2
    if x.void || k.void then s.nullifyV t th rd sawProp
    else if 63 < k.val.toNat then s.trap t th 2 k.val
    else
      let old := th.rv rd
      s.done t (th.wv rd (Vector.ofFn (fun i : Fin 64 =>
        if i.val = k.val.toNat then VWord.of (x.val.setWidth 32) else laneOf old i.val)))

def execVperm (rd rs1 rs2 : VReg) (s : State) : Out :=
  onCompute (.vperm rd rs1 rs2) s fun t th =>
    let a := th.rv rs1; let b := th.rv rs2
    s.done t (th.putLanes rd (fun i =>
      let k := laneOf b i
      if k.void then .voidword else laneOf a (k.val.toNat % 64)))
def execVslide (rd rs1 : VReg) (rs2 : XReg) (s : State) : Out :=
  onCompute (.vslide rd rs1 rs2) s fun t th =>
    let a := th.rv rs1; let k := th.rx rs2
    if k.void then s.nullifyV t th rd sawProp
    else s.done t (th.putLanes rd (fun i =>
      let j := (i : Int) + k.val.toInt
      if 0 ≤ j ∧ j ≤ 63 then laneOf a j.toNat else .of 0))

/-! ### Compares and masks (R241, R242, R246) -/

/-- Write the active bits of an m register; a void source lane gives 0 and sets PROP (R231, R232). -/
def Thread.putMask (th : Thread) (rd : MReg) (f : Nat → Option Bool) : Thread :=
  let old := th.rm rd
  let bits := (List.range 64).foldl (fun m i =>
    if (if th.active i then (f i).getD false else old.getLsbD i) then m + 2 ^ i else m) 0
  let hit := (List.range 64).any (fun i => th.active i && (f i).isNone)
  (th.wm rd (wOf bits)).see (if hit then sawProp else 0)
/-- A relation between the lanes of two registers. -/
def vrel (i : Instr) (rd : MReg) (rs1 rs2 : VReg) (f : W32 → W32 → Bool) (s : State) : Out :=
  onCompute i s fun t th =>
    let a := th.rv rs1; let b := th.rv rs2
    s.done t (th.putMask rd (fun i =>
      let x := laneOf a i; let y := laneOf b i
      if x.void || y.void then none else some (f x.val y.val)))
def execVcmpeq (rd : MReg) (rs1 rs2 : VReg) (s : State) : Out :=
  vrel (.vcmpeq rd rs1 rs2) rd rs1 rs2 (fun a b => (val32 a).eq (val32 b)) s
def execVcmpne (rd : MReg) (rs1 rs2 : VReg) (s : State) : Out :=
  vrel (.vcmpne rd rs1 rs2) rd rs1 rs2 (fun a b => !(val32 a).eq (val32 b)) s
def execVcmplt (rd : MReg) (rs1 rs2 : VReg) (s : State) : Out :=
  vrel (.vcmplt rd rs1 rs2) rd rs1 rs2 (fun a b => (val32 a).lt (val32 b)) s
def execVcmple (rd : MReg) (rs1 rs2 : VReg) (s : State) : Out :=
  vrel (.vcmple rd rs1 rs2) rd rs1 rs2 (fun a b => (val32 a).lt (val32 b) || (val32 a).eq (val32 b)) s
/-- VTMASK: the key's interval contains the query's. -/
def execVtmask (rd : MReg) (rs1 rs2 : VReg) (s : State) : Out :=
  vrel (.vtmask rd rs1 rs2) rd rs1 rs2 (fun q k =>
    decide (k.toNat % 65536 ≤ q.toNat % 65536 ∧ q.toNat / 65536 ≤ k.toNat / 65536)) s

def execMand (rd rs1 rs2 : MReg) (s : State) : Out :=
  onCompute (.mand rd rs1 rs2) s fun t th => s.done t (th.wm rd (th.rm rs1 &&& th.rm rs2))
def execMor (rd rs1 rs2 : MReg) (s : State) : Out :=
  onCompute (.mor rd rs1 rs2) s fun t th => s.done t (th.wm rd (th.rm rs1 ||| th.rm rs2))
def execMnot (rd rs1 : MReg) (s : State) : Out :=
  onCompute (.mnot rd rs1) s fun t th => s.done t (th.wm rd (~~~th.rm rs1))
/-- Number of one bits (R164). -/
def popcount (v : Word) : Nat := (List.range 64).countP (fun i => v.getLsbD i)
def execMpop (rd : XReg) (rs1 : MReg) (s : State) : Out :=
  onCompute (.mpop rd rs1) s fun t th => s.done t (th.wx rd (.of (wOf (popcount (th.rm rs1)))))

/-! ### Conversions (R243) -/

/-- Element, block size and scale format of a packed conversion, and whether it narrows. -/
def cvtInfo : Cvt → Option (Bool × Elem × Nat × ScaleF)
  | .f32i32 => none | .i32f32 => none
  | .f32bf16 => some (true, .bf16, 0, .none) | .bf16f32 => some (false, .bf16, 0, .none)
  | .f32f16 => some (true, .fp16, 0, .none) | .f16f32 => some (false, .fp16, 0, .none)
  | .f32e4 => some (true, .e4m3, 0, .none) | .e4f32 => some (false, .e4m3, 0, .none)
  | .f32e5 => some (true, .e5m2, 0, .none) | .e5f32 => some (false, .e5m2, 0, .none)
  | .f32i8 => some (true, .int8, 0, .none) | .i8f32 => some (false, .int8, 0, .none)
  | .f32i4 => some (true, .int4, 0, .none) | .i4f32 => some (false, .int4, 0, .none)
  | .f32ln6 => some (true, .lns6, 0, .none) | .ln6f32 => some (false, .lns6, 0, .none)
  | .f32mx8 => some (true, .e4m3, 32, .e8m0) | .mx8f32 => some (false, .e4m3, 32, .e8m0)
  | .f32mx6 => some (true, .e2m3, 32, .e8m0) | .mx6f32 => some (false, .e2m3, 32, .e8m0)
  | .f32mx4 => some (true, .e2m1, 32, .e8m0) | .mx4f32 => some (false, .e2m1, 32, .e8m0)
  | .f32s4 => some (true, .e2m1, 16, .ue5m3) | .s4f32 => some (false, .e2m1, 16, .ue5m3)

/-- Little-endian lanes of some bytes. -/
def lanesOf (bs : List Byte) : List W32 := (unpack32 bs).map (BitVec.ofNat 32)
/-- Bytes of some lanes. -/
def bytesOfLanes (ws : List W32) : List Byte := (ws.map (fun w => leBytes 4 w.toNat)).flatten
/-- The element bytes padded to whole lanes, then the scale bytes padded to a lane. -/
def packed (elems scales : List Byte) : List Byte :=
  elems ++ scales ++ List.replicate ((4 - scales.length % 4) % 4) 0
/-- Sixty-four values as the bytes of a narrower format (R99, R100). -/
def narrow (k : Elem) (block : Nat) (f : ScaleF) (vs : List FV) : List Byte :=
  if block = 0 then pack k.bits (vs.map k.code)
  else
    let qs := (chunks block (64 / block) vs).map (quantBlock f k)
    packed (pack k.bits (qs.map (·.2)).flatten) (qs.map (fun q => BitVec.ofNat 8 q.1))
/-- The sixty-four FP32 words of a packed format. -/
def widen (k : Elem) (block : Nat) (f : ScaleF) (bs : List Byte) : List W32 :=
  let vs := (unpack k.bits (bs.take (8 * k.bits))).map k.value
  let scs := (bs.drop (8 * k.bits)).map (fun b => f.value b.toNat)
  (scaled block vs (if block = 0 then [] else scs.take (64 / block))).map rne32
/-- Lanes a packed format takes: elements and scales. -/
def packedLanes (k : Elem) (block : Nat) : Nat := 2 * k.bits + (if block = 0 then 0 else 1)

/-- INT32 from FP32 and back, lane by lane. -/
def toI32 (w : W32) : W32 := BitVec.ofInt 32 (toIntN 32 (val32 w))
def ofI32 (w : W32) : W32 := rne32 (ofInt w.toInt)

def execVcvt (code : Cvt) (rd rs1 : VReg) (s : State) : Out :=
  onCompute (.vcvt code rd rs1) s fun t th =>
    let a := th.rv rs1
    match cvtInfo code with
    | none => s.done t (th.putLanes rd (fun i =>
        lane1 (if code = .f32i32 then toI32 else ofI32) (laneOf a i)))
    | some (narrows, k, block, f) =>
      let n := if narrows then 64 else packedLanes k block
      let src := (List.range n).map (laneOf a)
      if src.any (·.void) then s.nullifyV t th rd sawProp
      else
        let out := if narrows then lanesOf (narrow k block f (src.map (fun l => val32 l.val)))
          else widen k block f (bytesOfLanes (src.map (·.val)))
        s.done t (th.wv rd (Vector.ofFn (fun i : Fin 64 => VWord.of ((out[i.val]?).getD 0))))

/-! ### VHAD (R102, R103, R244, R370) -/

/-- The sign generator (R103). -/
def signbit (seed : Word) (i : Nat) : Bool :=
  let z := seed ^^^ (wOf i * 0x9E3779B97F4A7C15)
  let z := (z ^^^ (z >>> 30)) * 0xBF58476D1CE4E5B9
  let z := (z ^^^ (z >>> 27)) * 0x94D049BB133111EB
  let z := z ^^^ (z >>> 31)
  z.getLsbD 0
/-- Does word 0 of a tensor header pass R370? -/
def headerLegal (w : Word) : Bool :=
  fld w 63 34 == 0 && fld w 31 27 == 0 && decide (1 ≤ fld w 26 24 ∧ fld w 26 24 ≤ 4) &&
  decide (fld w 7 0 ≤ 10) &&
  ((fld w 15 8 == 0 && fld w 23 16 == 0) ||
   (fld w 15 8 == 1 && fld w 23 16 == 32 && decide (3 ≤ fld w 7 0 ∧ fld w 7 0 ≤ 7)) ||
   (fld w 15 8 == 2 && fld w 23 16 == 16 && decide (3 ≤ fld w 7 0 ∧ fld w 7 0 ≤ 7)))
/-- A block of 2^(2k) elements (R102). -/
def hadBlock (k : Nat) (seed : Word) (ws : List W32) : List W32 :=
  let ys := (ws.zip (List.range ws.length)).map (fun p =>
    let v := val32 p.1
    if signbit seed p.2 then v.neg else v)
  let outs := (List.range ws.length).map (fun j => FV.sum ((ys.zip (List.range ws.length)).map (fun p =>
    if popcount (wOf (p.2 &&& j)) % 2 = 1 then p.1.neg else p.1)))
  outs.map (fun v => rne32 (v.mul (.fin false 1 (-(k : Int)))))

/-- Registers base to base + n - 1 as lanes. -/
def lanesFrom (th : Thread) (base : VReg) (n : Nat) : List Lane :=
  ((List.range n).map (fun j => (th.rv (base + BitVec.ofNat 5 j)).toList)).flatten
/-- Write lanes into registers from a base. -/
def putFrom (th : Thread) (base : VReg) (n : Nat) (ls : List Lane) : Thread :=
  (List.range n).foldl (fun th j => th.wv (base + BitVec.ofNat 5 j)
    (Vector.ofFn (fun i : Fin 64 => (ls[64 * j + i.val]?).getD (VWord.of 0)))) th

def execVhad (rd rs1 : VReg) (rs2 : XReg) (s : State) : Out :=
  onCompute (.vhad rd rs1 rs2) s fun t th =>
    let h := th.rx rs2
    if h.void then s.nullifyV t th rd (sawProp ||| sawMem)
    else if fld h.val 5 0 ≠ 0 then s.trap t th 4 h.val
    else match s.readVals th .base [(h.val, 8), (h.val + 24, 8)] with
      | .error e => s.stop t th e
      | .ok vs =>
        let s := s.touched th false [h.val, h.val + 24]
        let w := wOf (vs.headD 0)
        let seed := wOf (vs.getD 1 0)
        let had := fld w 33 32
        if !headerLegal w || had == 0 || (had == 3 && (fld (rd.setWidth 64) 1 0 != 0 || fld (rs1.setWidth 64) 1 0 != 0))
        then s.trap t th 2 h.val
        else
          let regs := if had = 3 then 4 else 1
          let n := 4 ^ (had + 1)
          let blocks := chunks n (64 * regs / n) (lanesFrom th rs1 regs)
          let out := (blocks.map (fun b => if b.any (·.void) then b.map (fun _ => VWord.voidword)
            else (hadBlock (had + 1) seed (b.map (·.val))).map VWord.of)).flatten
          let hit := blocks.any (fun b => b.any (·.void))
          s.done t ((putFrom th rd regs out).see (if hit then sawProp else 0))

/-! ### VTOPK (R245) -/

/-- Insert a candidate (value, index) into a list in order: larger values first, −0 below +0, equal
values by ascending position. -/
def topInsert (c : W32 × W32) : List (W32 × W32) → List (W32 × W32)
  | [] => [c]
  | d :: ds => if lt0 d.1 c.1 then c :: d :: ds else d :: topInsert c ds
/-- Candidates in order. -/
def topSort (cs : List (W32 × W32)) : List (W32 × W32) := cs.foldl (fun l c => topInsert c l) []
/-- A top-k list as lanes: values, then indices, with the fill. -/
def topLanes (k : Nat) (cs : List (W32 × W32)) : VVal :=
  Vector.ofFn (fun i : Fin 64 =>
    let e := i.val % 32
    match (if e < k then cs[e]? else none) with
    | some c => VWord.of (if i.val < 32 then c.1 else c.2)
    | none => VWord.of (if i.val < 32 then 0xFF800000 else 0xFFFFFFFF))

def execVtopk (rd rs1 : VReg) (rs2 : XReg) (s : State) : Out :=
  onCompute (.vtopk rd rs1 rs2) s fun t th =>
    let c := th.rx rs2
    if c.void then s.nullifyV t th rd sawProp
    else if fld c.val 31 6 ≠ 0 ∨ fld c.val 5 0 = 0 ∨ 32 < fld c.val 5 0 then s.trap t th 2 c.val
    else
      let v := th.rv rs1
      let cs := (List.range 64).filterMap (fun i =>
        let a := laneOf v i
        if th.active i && !a.void && !isNan32 a.val then
          some (a.val, BitVec.ofNat 32 (fld c.val 63 32 + i)) else none)
      s.done t (th.wv rd (topLanes (fld c.val 5 0) (topSort cs)))

end Sys2Proof.Machine
end

