-- ==== Sys2Proof/Machine/MatrixOps.lean ====
section
/-! DEFINITION. The matrix array: issue of its commands (R247 to R263) and the steps of its two queues
(R248, R252, R253, R256 to R260, R264, R391, R392). -/

namespace Sys2Proof.Machine

/-! ### Issue -/

/-- A command may enter its queue: the current slot and the shadow slot are not both taken (R247). -/
def queueRoom (q : List ArrayCmd) : Bool := decide (q.length < 2)

/-- The covering range of `n` slots from slot index `i`: a range that wraps covers the buffer (R249). -/
def Cb.cover (d : Cb) (i n : Nat) : Nat × Nat :=
  if n = 0 then (d.base, 0)
  else if d.count < i + n then (d.base, d.count * d.slot)
  else (d.base + i * d.slot, n * d.slot)
/-- Slots that `n` bytes fill. -/
def slotsFor (n slot : Nat) : Nat := if slot = 0 then 0 else (n + slot - 1) / slot

/-- A command as it enters a queue: numbered, discarded later if its scope was cancelled already (R264). -/
def State.newCmd (s : State) (t : Nat) (th : Thread) (op : ArrayOp) : ArrayCmd :=
  ⟨s.nextOp, t, th.tid t, th.sid0, op, false, 0, s.scopeCancelled th.sid0⟩

/-- The entry of a range-lock table for a source range, or a destination range. -/
def srcLock (id : Nat) (r : Nat × Nat) : Lock := ⟨id, r, (0, 0)⟩
def dstLock (id : Nat) (r : Nat × Nat) : Lock := ⟨id, (0, 0), r⟩

/-- A command enters the weight queue or the row queue, with its range-lock entries (R247, R249). -/
def State.queueCmd (s : State) (t : Nat) (th : Thread) (weight : Bool) (op : ArrayOp) (ls : List Lock)
    (f : Tile → Tile) : State :=
  let c := s.newCmd t th op
  let x := f (s.tile th.tile)
  let x := { x with locks := x.locks ++ ls }
  let x := if weight then { x with weightQ := x.weightQ ++ [c] } else { x with rowQ := x.rowQ ++ [c] }
  ({ s with nextOp := s.nextOp + 1 }.setTile th.tile x).done t th

/-- MXLDW (R251, R252). -/
def execMxldw (cb : CbReg) (rs2 : XReg) (s : State) : Out :=
  onCompute (.mxldw cb rs2) s fun t th =>
    let f := th.rx rs2
    let x := s.tile th.tile
    let d := x.cb cb.toNat
    let n := planeBytes f.val.toNat
    if f.void then s.nullify t th sawMem
    else if 10 < f.val.toNat then s.trap t th 2 f.val
    else if d.count = 0 ∨ d.count * d.slot < n then s.trap t th 29 (wOf cb.toNat)
    else if !queueRoom x.weightQ || decide (16 ≤ x.locks.length) then s.stall t th
    else s.queueCmd t th true (.ldw cb.toNat f.val.toNat)
      [srcLock s.nextOp (d.cover d.cidx (slotsFor n d.slot))]
      (fun x => { x with unclaimed := x.unclaimed + 1 })

/-- MXSWAP (R253). -/
def execMxswap (s : State) : Out :=
  onCompute .mxswap s fun t th =>
    let x := s.tile th.tile
    if x.unclaimed = 0 then s.trap t th 56 0
    else if !queueRoom x.rowQ then s.stall t th
    else s.queueCmd t th false .swap [] (fun x => { x with unclaimed := x.unclaimed - 1 })

/-- A plane that a load not yet started will make. -/
def ArrayCmd.plane (c : ArrayCmd) : Option (PlaneState × Nat) :=
  match c.op with
  | .ldw _ f => if c.started then none else some (.loading, f)
  | _ => none
/-- State and format of the plane that a stream issued now will meet (R256): that of the load claimed by
the latest swap still queued, or the active plane.  DESIGN CHOICE (log 58): a queued swap that a cancellation has
marked claims nothing any more. -/
def Tile.meets (x : Tile) : PlaneState × Nat :=
  let p := (x.rowQ.filter (fun c => c.op == .swap && (c.started || !c.cancelled))).length
  let loads := (if x.shadow.state = .empty then [] else [(x.shadow.state, x.shadow.fmt)]) ++
    x.weightQ.filterMap ArrayCmd.plane
  if p = 0 then (x.active.state, x.active.fmt)
  else match loads[p - 1]? with
    | some q => q
    | none => loads.getLastD (x.active.state, x.active.fmt)

/-- Is a slot size a non-zero multiple of n bytes? -/
def slotFits (d : Cb) (n : Nat) : Bool := d.count != 0 && d.slot != 0 && d.slot % n == 0
/-- Slots that `count` rows of `n` bytes read, from the row position. -/
def rowSlots (d : Cb) (n count : Nat) : Nat := if count = 0 then 0 else slotsFor ((d.row + count) * n) d.slot

/-- Is a stream into an accumulator queued after a command, so that LAST and ROWS are that stream's (R263)? -/
def Tile.laterStream (x : Tile) (id acc : Nat) : Bool :=
  x.rowQ.any (fun k => decide (id < k.id) && (match k.op with | .strm _ a _ _ _ _ => a == acc | _ => false))
/-- LAST and ROWS of an accumulator become these. -/
def Tile.putLast (x : Tile) (acc : Nat) (l : Last) (rows : Option Nat) : Tile :=
  match x.accStat[acc]? with
  | some a => if h : acc < 4 then
      { x with accStat := x.accStat.set acc { a with last := l, rows := rows.getD a.rows } h } else x
  | none => x
/-- LAST and ROWS of an accumulator as a command leaves them, while no later stream has them (R256, R263). -/
def Tile.setLast (x : Tile) (id acc : Nat) (l : Last) (rows : Option Nat) : Tile :=
  if x.laterStream id acc then x else x.putLast acc l rows

/-- MXSTRM (R254 to R256).  A void source nullifies before any of its checks, that of cb15 included (R363, log 35). -/
def execMxstrm (p : Pair) (acc : AccReg) (cb : CbReg) (rs2 : XReg) (rs3 : FReg) (s : State) : Out :=
  onCompute (.mxstrm p acc cb rs2 rs3) s fun t th =>
    let w := th.rx rs2; let g := th.rf rs3
    let row0 := fld w.val 23 16; let count := fld w.val 8 0
    let i := pairInfo p
    let x := s.tile th.tile
    let d := x.cb cb.toNat; let e := x.cb (cb.toNat + 1)
    let m := x.meets
    let need := if Pair.scaled p then 2 else 1
    if w.void || (!Pair.integer p && g.void) then s.nullify t th sawMem
    else if fld w.val 63 24 ≠ 0 ∨ fld w.val 15 9 ≠ 0 ∨ 127 < row0 ∨ 128 < row0 + count then s.trap t th 2 w.val
    else if !slotFits d i.rowBytes then s.trap t th 29 (wOf cb.toNat)
    else if Pair.scaled p ∧ cb = 15 then s.trap t th 2 (wordOf (.mxstrm p acc cb rs2 rs3))
    else if Pair.scaled p ∧ !slotFits e i.scaleBytes then s.trap t th 29 (wOf (cb.toNat + 1))
    else if m.1 = .empty ∨ m.1 = .invalid ∨ m.2 ≠ i.fmt then s.trap t th 28 (wOf p.code.toNat)
    else if !queueRoom x.rowQ || decide (16 < x.locks.length + need) then s.stall t th
    else s.queueCmd t th false (.strm p acc.toNat cb.toNat row0 count (if Pair.integer p then 0 else g.val))
      (srcLock s.nextOp (d.cover d.cidx (rowSlots d i.rowBytes count)) ::
        (if Pair.scaled p then [srcLock s.nextOp (e.cover e.cidx (rowSlots e i.scaleBytes count))] else []))
      (fun x => x.putLast acc.toNat .running (some 0))

/-- MXZERO (R258). -/
def execMxzero (acc : AccReg) (s : State) : Out :=
  onCompute (.mxzero acc) s fun t th =>
    if !queueRoom (s.tile th.tile).rowQ then s.stall t th
    else s.queueCmd t th false (.zero acc.toNat) [] id

/-- Output element bytes of MXWB's FMT, and its element format; FMT 0 copies words (R259). -/
def wbBytes (fmt : Nat) : Nat := if fmt = 0 then 4 else if fmt ≤ 2 then 2 else 1
def wbElem (fmt : Nat) : Elem :=
  if fmt = 1 then .bf16 else if fmt = 2 then .fp16 else if fmt = 3 then .e4m3 else if fmt = 4 then .e5m2
  else if fmt = 5 then .int8 else .fp32

/-- MXWB (R259). -/
def execMxwb (cb : CbReg) (acc : AccReg) (rs2 : XReg) (s : State) : Out :=
  onCompute (.mxwb cb acc rs2) s fun t th =>
    let w := th.rx rs2
    let fmt := fld w.val 27 24; let row0 := fld w.val 23 16; let count := fld w.val 8 0
    let x := s.tile th.tile
    let d := x.cb cb.toNat
    let n := 128 * wbBytes fmt
    if w.void then s.nullify t th sawMem
    else if d.count = 0 then s.trap t th 29 (wOf cb.toNat)
    else if fld w.val 63 29 ≠ 0 ∨ fld w.val 15 9 ≠ 0 ∨ 5 < fmt ∨ 128 < row0 + count then s.trap t th 2 w.val
    else if !slotFits d n then s.trap t th 29 (wOf cb.toNat)
    else if !queueRoom x.rowQ || decide (16 ≤ x.locks.length) then s.stall t th
    else s.queueCmd t th false (.wb cb.toNat acc.toNat fmt row0 count (w.val.getLsbD 28))
      [dstLock s.nextOp (d.cover d.pidx (slotsFor (count * n) d.slot))] id

/-! ### Accumulators -/

/-- A row of an accumulator. -/
def Tile.accRow (x : Tile) (acc row : Nat) : List W32 :=
  (tfind x.acc (acc * 128 + row)).getD (List.replicate 128 0)
/-- Write a row; a row of zeros has no entry. -/
def Tile.setAccRow (x : Tile) (acc row : Nat) (ws : List W32) : Tile :=
  { x with acc := if ws = List.replicate 128 0 then tdel x.acc (acc * 128 + row)
                  else tset x.acc (acc * 128 + row) ws }
/-- Does a row hold a poisoned word (R388)? -/
def Tile.rowPoisoned (x : Tile) (acc row : Nat) : Bool :=
  x.accPoison.any (fun u => decide (u / 8 = acc * 128 + row))

/-- Does a queued command write or zero accumulator `a` (R261)? -/
def ArrayCmd.writes (c : ArrayCmd) (a : Nat) : Bool :=
  match c.op with
  | .strm _ acc _ _ _ _ => acc == a
  | .zero acc => acc == a
  | .wb _ acc _ _ _ z => z && acc == a
  | _ => false

/-- MXRD (R261, R392).  DESIGN CHOICE (log 58): one that stalls looks again at each retry, so commands that other
contexts queue meanwhile hold it too. -/
def execMxrd (rd : VReg) (acc : AccReg) (rs2 : XReg) (s : State) : Out :=
  onCompute (.mxrd rd acc rs2) s fun t th =>
    let r := th.rx rs2
    let x := s.tile th.tile
    if r.void then s.done t (((th.wv rd allVoid).wv (rd + 1) allVoid).see sawProp)
    else if 127 < r.val.toNat then s.trap t th 2 r.val
    else if x.rowQ.any (fun c => c.writes acc.toNat) then s.stall t th
    else if x.rowPoisoned acc.toNat r.val.toNat then s.trap t th 30 r.val
    else
      let ws := x.accRow acc.toNat r.val.toNat
      let half (k : Nat) : Vector (VWord 32) 64 := Vector.ofFn (fun i : Fin 64 => .of (ws.getD (k + i.val) 0))
      s.done t ((th.wv rd (half 0)).wv (rd + 1) (half 64))

/-- MXSTAT (R263). -/
def execMxstat (rd : XReg) (acc : AccReg) (s : State) : Out :=
  onCompute (.mxstat rd acc) s fun t th =>
    let x := s.tile th.tile
    s.done t (th.wx rd (.of (mxWord x (x.accStat[acc.toNat]'acc.isLt))))

/-! ### Ends of commands -/

/-- A command leaves its queue and its range-lock entries free. -/
def Tile.dropCmd (x : Tile) (id : Nat) : Tile :=
  { x with weightQ := x.weightQ.filter (fun c => c.id != id), rowQ := x.rowQ.filter (fun c => c.id != id)
           locks := x.locks.filter (fun k => k.op != id) }
/-- Change the command with a number. -/
def Tile.setCmd (x : Tile) (c : ArrayCmd) : Tile :=
  { x with weightQ := x.weightQ.map (fun k => if k.id = c.id then c else k)
           rowQ := x.rowQ.map (fun k => if k.id = c.id then c else k) }
/-- Tell the issuing thread, if it still is, how a command came out (R262, R391). -/
def State.tellIssuer (s : State) (c : ArrayCmd) (f : Thread → Thread) : State :=
  match s.thread? c.t with
  | some th => if th.tid c.t = c.tid then s.setTh c.t (f th) else s
  | none => s

/-- A command fails: it ends, later commands of its thread that have not started are discarded, and the
thread is to take MATRIX_OPERAND (R391). -/
def State.failCmd (s : State) (l : Nat) (c : ArrayCmd) (x : Tile) (word : Word) : State :=
  let later (k : ArrayCmd) : ArrayCmd :=
    if k.tid = c.tid ∧ c.id < k.id ∧ !k.started then { k with cancelled := true } else k
  let x := x.dropCmd c.id
  (s.setTile l { x with weightQ := x.weightQ.map later, rowQ := x.rowQ.map later }).tellIssuer c
    (fun th => { th with mxFailed := true, pendMx := th.pendMx ++ [word] })
/-- The word MATRIX_OPERAND reports (R391). -/
def operandWord (kind cb acc done where_ : Nat) : Word :=
  wOf (kind * 2 ^ 24 + cb * 2 ^ 20 + acc * 2 ^ 18 + done * 2 ^ 8 + where_)

/-- The command at the head of a tile's weight or row queue. -/
def State.weightHead (s : State) (l : Nat) : Option ArrayCmd := (s.tile l).weightQ.head?
def State.rowHead (s : State) (l : Nat) : Option ArrayCmd := (s.tile l).rowQ.head?

/-! ### The weight queue -/

/-- Does an earlier stream name the buffer of a load (R247)? -/
def Tile.streamBefore (x : Tile) (c : ArrayCmd) (cb : Nat) : Bool :=
  x.rowQ.any (fun k => decide (k.id < c.id) && (match k.op with | .strm _ _ _ _ _ _ => k.names cb | _ => false))
/-- Does an earlier load name a buffer of a stream? -/
def Tile.loadBefore (x : Tile) (c : ArrayCmd) (p : Pair) (cb : Nat) : Bool :=
  x.weightQ.any (fun k => decide (k.id < c.id) && (k.names cb || (Pair.scaled p && k.names (cb + 1))))

/-- May the shadow take a load (R248)? -/
def Plane.takes (p : Plane) : Bool := p.state == .empty || p.state == .invalid

/-- ARRAY_MXLDW_START: (tile). -/
def execArrayMxldwStart (s : State) : Out :=
  .next <| match s.input with
    | .num l => match s.weightHead l with
      | some c => match c.op with
        | .ldw cb f =>
          let x := s.tile l
          if c.started || c.cancelled || !x.shadow.takes || x.streamBefore c cb then s
          else s.setTile l { x.setCmd { c with started := true } with shadow := ⟨.loading, f, []⟩ }
        | _ => s
      | none => s
    | _ => s

/-- The next part of a load's stream: its location and length. -/
def Tile.loadPart (x : Tile) (l cb f pos : Nat) : Nat × Nat :=
  let d := x.cb cb
  (tlLoc l (d.base + d.cidx * d.slot), min d.slot (planeBytes f - pos * d.slot))

/-- ARRAY_MXLDW_SLOT: (tile).  One slot is read and consumed; the last one makes the plane READY. -/
def execArrayMxldwSlot (s : State) : Out :=
  .next <| match s.input with
    | .num l => match s.weightHead l with
      | some c => match c.op with
        | .ldw cb f =>
          let x := s.tile l
          let (a, n) := x.loadPart l cb f c.pos
          if !c.started || c.cancelled || (x.cb cb).fill == 0 || (s.poisonIn a n).isSome then s
          else
            let data := x.shadow.data ++ s.bytesAt a n
            let x := x.setCb cb (x.cb cb).consume
            if planeBytes f ≤ data.length then
              s.setTile l { x.dropCmd c.id with shadow := ⟨.valid, f, data⟩ }
            else s.setTile l { x.setCmd { c with pos := c.pos + 1 } with shadow := ⟨.loading, f, data⟩ }
        | _ => s
      | none => s
    | _ => s

/-! ### The row queue -/

/-- ARRAY_MXSWAP_RUN: (tile).  A swap starts at the head of the queue once no row is in the array; from then on
it is not stopped, and it ends when the shadow is READY or INVALID (R253, R264).  The shadow is then EMPTY, and its
format code stays (R6, log 58). -/
def execArrayMxswapRun (s : State) : Out :=
  .next <| match s.input with
    | .num l => match s.rowHead l with
      | some c =>
        let x := s.tile l
        if c.op != .swap then s
        else if !c.started then
          if c.cancelled || !x.rowsIn.isEmpty then s else s.setTile l (x.setCmd { c with started := true })
        else if !(x.shadow.state == .valid || x.shadow.state == .invalid) then s
        else s.setTile l { x.dropCmd c.id with active := x.shadow, shadow := { x.shadow with state := .empty, data := [] } }
      | none => s
    | _ => s

/-- ARRAY_MXZERO_RUN: (tile).  It clears SAT and the accumulator's poison (R258, R392). -/
def execArrayMxzeroRun (s : State) : Out :=
  .next <| match s.input with
    | .num l => match s.rowHead l with
      | some c => match c.op with
        | .zero acc =>
          if c.cancelled then s else
          let x := (s.tile l).dropCmd c.id
          s.setTile l { x with
            acc := x.acc.filter (fun p => p.1 / 128 != acc)
            accPoison := x.accPoison.filter (fun u => u / 1024 != acc)
            accStat := Vector.ofFn (fun i : Fin 4 =>
              if i.val = acc then { x.accStat[i] with sat := false } else x.accStat[i]) }
        | _ => s
      | none => s
    | _ => s

/-- ARRAY_STREAM_HEAD_CHECK: (tile).  A stream of 0 rows finishes; another starts if the active plane is
VALID in its format, and fails otherwise (R256). -/
def execArrayStreamHeadCheck (s : State) : Out :=
  .next <| match s.input with
    | .num l => match s.rowHead l with
      | some c => match c.op with
        | .strm p acc cb _ count _ =>
          let x := s.tile l
          if c.started || c.cancelled || x.loadBefore c p cb then s
          else if count = 0 then s.setTile l ((x.dropCmd c.id).setLast c.id acc .complete (some 0))
          else if x.active.state = .valid ∧ x.active.fmt = (pairInfo p).fmt then
            s.setTile l ((x.setCmd { c with started := true }).setLast c.id acc .running (some 0))
          else s.failCmd l c (x.setLast c.id acc .faulted (some 0)) (operandWord 2 cb acc 0 3)
        | _ => s
      | none => s
    | _ => s

/-- Where the next row of a buffer stands. -/
def Tile.rowAt (x : Tile) (l cb n : Nat) : Nat :=
  let d := x.cb cb
  tlLoc l (d.base + d.cidx * d.slot + d.row * n)
/-- A row has entered: the row position moves; after a slot's last row the slot is consumed (R256). -/
def Cb.rowRead (d : Cb) (n : Nat) : Cb :=
  if d.slot ≤ (d.row + 1) * n then { d.consume with row := 0 } else { d with row := d.row + 1 }

/-- The rows of both buffers that a stream's next entry reads: their locations and lengths. -/
def Tile.rowParts (x : Tile) (l : Nat) (p : Pair) (cb : Nat) : (Nat × Nat) × (Nat × Nat) :=
  let i := pairInfo p
  ((x.rowAt l cb i.rowBytes, i.rowBytes),
    if Pair.scaled p then (x.rowAt l (cb + 1) i.scaleBytes, i.scaleBytes) else (0, 0))
/-- Are the rows of a stream's next entry there? -/
def Tile.rowsReady (x : Tile) (p : Pair) (cb : Nat) : Bool :=
  (x.cb cb).fill != 0 && (!Pair.scaled p || (x.cb (cb + 1)).fill != 0)

/-- ARRAY_ROW_ENTER: (tile). -/
def execArrayRowEnter (s : State) : Out :=
  .next <| match s.input with
    | .num l => match s.rowHead l with
      | some c => match c.op with
        | .strm p acc cb row0 count g =>
          let x := s.tile l
          let i := pairInfo p
          let (a, b) := x.rowParts l p cb
          if !c.started || c.cancelled || decide (count ≤ c.pos) || !x.rowsReady p cb ||
            (s.poisonIn a.1 a.2).isSome || (s.poisonIn b.1 b.2).isSome ||
            x.rowPoisoned acc (row0 + c.pos) then s
          else
            let r : RowIn := ⟨c.id, p, acc, row0 + c.pos, s.bytesAt a.1 a.2, s.bytesAt b.1 b.2, g⟩
            let x := x.setCb cb ((x.cb cb).rowRead i.rowBytes)
            let x := if Pair.scaled p then x.setCb (cb + 1) ((x.cb (cb + 1)).rowRead i.scaleBytes) else x
            s.setTile l { x.setCmd { c with pos := c.pos + 1 } with rowsIn := x.rowsIn ++ [r] }
        | _ => s
      | none => s
    | _ => s

/-- The 128 updates of a row (R96, R257): its new words, and whether an integer saturated. -/
def Tile.updateRow (x : Tile) (r : RowIn) : List (W32 × Bool) :=
  let i := pairInfo r.p
  (List.zip (List.range 128) (x.accRow r.acc r.row)).map (fun (j, old) =>
    let (w, ws) := planeCol i x.active.data j
    accUpdate r.p r.g r.act r.scale w ws old)
/-- A row's updates are done. -/
def Tile.applyRow (x : Tile) (r : RowIn) : Tile :=
  let us := x.updateRow r
  let x := x.setAccRow r.acc r.row (us.map (·.1))
  let n := if x.laterStream r.cmd r.acc then 0 else 1
  { x with accStat := Vector.ofFn (fun i : Fin 4 => if i.val = r.acc then
      { x.accStat[i] with rows := x.accStat[i].rows + n, sat := x.accStat[i].sat || us.any (·.2) } else x.accStat[i]) }

/-- The end of a stream whose rows have all entered and been updated (R256). -/
def Tile.endStream (x : Tile) (id : Nat) : Tile :=
  match x.rowQ.find? (fun c => c.id == id) with
  | some c => match c.op with
    | .strm _ acc _ _ count _ =>
      if c.pos = count ∧ !(x.rowsIn.any (fun r => r.cmd == id)) then
        (x.dropCmd id).setLast id acc .complete none
      else x
    | _ => x
  | none => x

/-- ARRAY_ROW_UPDATE: (tile).  The first row that entered is updated. -/
def execArrayRowUpdate (s : State) : Out :=
  .next <| match s.input with
    | .num l =>
      let x := s.tile l
      match x.rowsIn with
      | r :: rest =>
        if x.rowPoisoned r.acc r.row then s
        else s.setTile l (({ x with rowsIn := rest }.applyRow r).endStream r.cmd)
      | [] => s
    | _ => s

/-- Is an earlier command still in either queue (R260, log 22)? -/
def Tile.cmdBefore (x : Tile) (id : Nat) : Bool :=
  x.weightQ.any (fun c => decide (c.id < id)) || x.rowQ.any (fun c => decide (c.id < id))
/-- May MXWB write its next row? -/
def Tile.wbReady (x : Tile) (c : ArrayCmd) (cb n : Nat) : Bool :=
  !x.cmdBefore c.id && (c.pos % ((x.cb cb).slot / n) != 0 || (x.cb cb).free != 0)

/-- ARRAY_MXWB_ROW: (tile). -/
def execArrayMxwbRow (s : State) : Out :=
  .next <| match s.input with
    | .num l => match s.rowHead l with
      | some c => match c.op with
        | .wb cb acc fmt row0 count z =>
          let x := s.tile l
          let d := x.cb cb
          let n := 128 * wbBytes fmt
          if c.cancelled || x.cmdBefore c.id then s
          else if count = 0 then s.setTile l (x.dropCmd c.id)
          else if !x.wbReady c cb n || x.rowPoisoned acc (row0 + c.pos) then s
          else
            let ws := x.accRow acc (row0 + c.pos)
            let out := ws.map (fun w => if fmt = 0 then w.toNat
              else if fmt = 5 then (wbElem fmt).code (ofInt w.toInt) else (wbElem fmt).code (val32 w))
            let rps := d.slot / n
            let a := tlLoc l (d.base + d.pidx * d.slot + c.pos % rps * n)
            let x := if z then x.setAccRow acc (row0 + c.pos) (List.replicate 128 0) else x
            let last := decide (c.pos + 1 = count)
            let x := if (c.pos + 1) % rps = 0 || last then x.setCb cb d.produce else x
            let x := if last then x.dropCmd c.id else x.setCmd { c with pos := c.pos + 1, started := true }
            (s.setTile l x).putClean a (pack (8 * wbBytes fmt) out)
        | _ => s
      | none => s
    | _ => s

/-! ### Stopping (R264, R391) -/

/-- The slot an MXWB stopped in: it is advanced if it holds a written row. -/
def Tile.wbStop (x : Tile) (c : ArrayCmd) (cb fmt : Nat) : Tile :=
  let rps := (x.cb cb).slot / (128 * wbBytes fmt)
  if c.pos % rps = 0 then x else x.setCb cb (x.cb cb).produce

/-- A cancelled command at the head of its queue as it stops or is discarded; none while it may not. -/
def Tile.stopCmd (x : Tile) (c : ArrayCmd) : Option Tile :=
  let y := x.dropCmd c.id
  match c.op with
  | .ldw _ f =>
    if c.started then some { y with shadow := ⟨.invalid, f, []⟩ }
    else if x.shadow.takes then some { y with shadow := ⟨.invalid, f, []⟩ }
    else none
  | .swap => if c.started then none else some { y with unclaimed := y.unclaimed + 1 }
  | .zero _ => some y
  | .strm _ acc _ _ _ _ =>
    if x.rowsIn.any (fun r => r.cmd == c.id) then none
    else some (y.setLast c.id acc .cancelled (if c.started then none else some 0))
  | .wb cb _ fmt _ _ _ => some (if c.started then y.wbStop c cb fmt else y)

/-- ARRAY_CANCEL_STOP: (tile, command). -/
def execArrayCancelStop (s : State) : Out :=
  .next <| match s.input with
    | .num2 l id =>
      let x := s.tile l
      match [x.weightQ.head?, x.rowQ.head?].findSome? (fun h => h.filter (fun c => c.id == id)) with
      | some c => if !c.cancelled then s else match x.stopCmd c with
        | some y => (s.setTile l y).tellIssuer c (fun th => { th with mxCancelled := true })
        | none => s
      | none => s
    | _ => s

/-- The failure that the head of the weight queue meets (R391). -/
def State.weightPoison (s : State) (l : Nat) : Option (ArrayCmd × Tile × Word) :=
  match s.weightHead l with
  | some c => match c.op with
    | .ldw cb f =>
      let x := s.tile l
      let (a, n) := x.loadPart l cb f c.pos
      if !c.started || c.cancelled || (x.cb cb).fill == 0 || (s.poisonIn a n).isNone then none
      else some (c, { x with shadow := ⟨.invalid, f, []⟩ }, operandWord 1 cb 0 c.pos 1)
    | _ => none
  | none => none

/-- The failure that a row of the row queue's head meets: a row in the array whose accumulator words are
poisoned, its next row, or the next row an MXWB reads (R391).  DESIGN CHOICE (log 58): a poisoned row of scales is
reported with the buffer that the instruction names.  DEDUCED from R391 and R264 (log 58): an MXWB that fails within a
slot advances it as a cancelled one does. -/
def State.rowPoison (s : State) (l : Nat) : Option (ArrayCmd × Tile × Word) :=
  let x := s.tile l
  match s.rowHead l with
  | some c => match c.op with
    | .strm p acc cb row0 count _ => match x.rowsIn with
      | r :: rest =>
        if x.rowPoisoned r.acc r.row then
          let y := (rest.filter (fun q => !x.rowPoisoned q.acc q.row)).foldl Tile.applyRow { x with rowsIn := [] }
          some (c, y.setLast c.id acc .faulted none, operandWord 2 cb acc (r.row - row0) 2)
        else none
      | [] =>
        let (a, b) := x.rowParts l p cb
        if !c.started || c.cancelled || decide (count ≤ c.pos) || !x.rowsReady p cb then none
        else if (s.poisonIn a.1 a.2).isSome || (s.poisonIn b.1 b.2).isSome then
          some (c, x.setLast c.id acc .faulted none, operandWord 2 cb acc c.pos 1)
        else if x.rowPoisoned acc (row0 + c.pos) then
          some (c, x.setLast c.id acc .faulted none, operandWord 2 cb acc c.pos 2)
        else none
    | .wb cb acc fmt row0 count _ =>
      if c.cancelled || decide (count ≤ c.pos) || !x.wbReady c cb (128 * wbBytes fmt) ||
        !x.rowPoisoned acc (row0 + c.pos) then none
      else some (c, (if c.started then x.wbStop c cb fmt else x).setLast c.id acc .faulted none,
        operandWord 3 cb acc c.pos 2)
    | _ => none
  | none => none

/-- ARRAY_POISON_FAULT: (tile, queue), queue 0 the weight queue and 1 the row queue. -/
def execArrayPoisonFault (s : State) : Out :=
  .next <| match s.input with
    | .num2 l q => match (if q = 0 then s.weightPoison l else s.rowPoison l) with
      | some (c, x, w) => s.failCmd l c x w
      | none => s
    | _ => s

/-! ### MATRIX_OPERAND -/

/-- May a thread's wait be abandoned for a pending MATRIX_OPERAND (R391)? -/
def Wait.abandons (w : Wait) : Bool :=
  match w.kind with | .join _ _ => false | .mx => false | _ => true

/-- MATRIX_OPERAND_DELIVERY: (thread).  A resident thread in a wait that can be abandoned takes the fault
there; a thread that is not waiting takes it when its core would issue it.  A scope fault waits for stalled links
(R13). -/
def execMatrixOperandDelivery (s : State) : Out :=
  .next <| match s.input with
    | .num t => match s.thread? t with
      | some th => match th.pendMx, th.wait, th.loc with
        | v :: rest, some w, .resident _ =>
          if !w.abandons || th.halted.isSome || th.ending || th.remoteOut.isSome then s
          else s.orHeld (((s.dropSteal t th).trap t { th with pendMx := rest, wait := none } 56 v).ended t th) t th s
        | _, _, _ => s
      | none => s
    | _ => s

end Sys2Proof.Machine
end

