-- ==== Sys2Proof/Machine/ScopeOps.lean ====
section
/-! DEFINITION. Scope instructions and SPAWN (R168 to R181), under every encoding version (R139). -/

namespace Sys2Proof.Machine

/-- Identifier of a handle's scope, 0 for an EMPTY one (R169). -/
def Handle.id (h : Handle) : Word := if h.kind = .empty then 0 else wOf h.sid
/-- Does a handle hold weight to give birth from (R170, R181)? -/
def Handle.gives (h : Handle) : Bool := h.kind != .empty && h.kind != .closed

/-- SOPEN (R170). -/
def execSopen (rd rs1 : KReg) (s : State) : Out :=
  withTh s fun t th => s.point t th fun th =>
    let h := th.rk rs1
    let depth := match s.scope? h.sid with | some c => c.depth | none => 0
    if !h.gives then s.trap t th 26 h.id
    else if (th.rk rd).kind ≠ .empty then s.trap t th 26 (th.rk rd).id
    else if depth = 255 then s.trap t th 26 h.id
    else match s.pickScope (tileDie th.tile) with
      | none => s.stall t th
      | some rec =>
        let (w, th, s) := s.birth th rs1
        let (sid, s) := s.openScope rec h.sid (depth + 1) (th.tid t) w th.cmd 0 (s.scopeCancelled h.sid)
        s.done t (th.wk rd ⟨.opener, sid, 0x10000000000⟩)

/-- The status word of a scope that joined, as SCLOSE writes it (R171, R179). -/
def joinWord (s : State) (sid : Nat) : Word :=
  match s.scope? sid with
  | some c => statusWord c .opener c.cancelled
  | none => 0
/-- SCLOSE's return: the join is reported and the handle becomes EMPTY (R28, R171). -/
def State.closeReturn (s : State) (t : Nat) (th : Thread) (sid : Nat) (k : KReg) (rd : XReg) : State :=
  let w := joinWord s sid
  (s.report sid).done t { (th.wk k Handle.none).wx rd (.of w) with wait := none }

/-- SCLOSE: close, then wait for the join (R171). -/
def execSclose (rd : XReg) (rs1 : KReg) (s : State) : Out :=
  withTh s fun t th => s.point t th fun th =>
    let h := th.rk rs1
    if h.kind ≠ .opener then s.trap t th 26 h.id
    else
      let th := { th.wk rs1 { h with weight := 0 } with
        wait := some ⟨.join h.sid rs1, rd, s.time⟩, stalled := false, peer := [] }
      (s.closeScope (tileDie th.tile) h.sid h.weight).setTh t th

/-- SCLOSEA (R172). -/
def sclosea (rs1 : KReg) (s : State) : Out :=
  withTh s fun t th =>
    let h := th.rk rs1
    match h.kind with
    | .opener => (s.closeScope (tileDie th.tile) h.sid h.weight).done t (th.wk rs1 ⟨.closed, h.sid, 0⟩)
    | .entered => (s.giveBack (tileDie th.tile) h.sid h.weight).done t (th.wk rs1 Handle.none)
    | .closed => s.done t th
    | .empty => s.trap t th 26 0
    | .birth => s.trap t th 26 h.id
def execSclosea (rs1 : KReg) (s : State) : Out := sclosea rs1 s
def execScloseaV2 (rs1 : KReg) (s : State) : Out := sclosea rs1 s

/-- SENTER (R173). -/
def senter (rd : KReg) (rs1 : XReg) (s : State) : Out :=
  withTh s fun t th =>
    let a := th.rx rs1
    if a.void then s.nullify t th sawMem
    else if (th.rk rd).kind ≠ .empty then s.trap t th 26 (th.rk rd).id
    else
      let sid := a.val.toNat
      match s.scope? sid with
      | some c =>
        if sid < 2 ^ 32 ∧ c.state = .opened ∧ s.under sid 256 th.sid0 then
          (s.setScope sid { c with o := c.o + 0x1000000 }).done t (th.wk rd ⟨.entered, sid, 0x1000000⟩)
        else s.done t (th.wk rd Handle.none)
      | none => s.done t (th.wk rd Handle.none)
def execSenter (rd : KReg) (rs1 : XReg) (s : State) : Out := senter rd rs1 s
def execSenterV2 (rd : KReg) (rs1 : XReg) (s : State) : Out := senter rd rs1 s

/-- SCANCEL (R174): cancellation of the handle's scope and all below it (R34). -/
def scancel (rs1 : KReg) (s : State) : Out :=
  withTh s fun t th =>
    let h := th.rk rs1
    if h.kind = .empty then s.trap t th 26 0
    else
      let s := s.cancelTree h.sid
      s.done t (s.again t th)
def execScancel (rs1 : KReg) (s : State) : Out := scancel rs1 s
def execScancelV1V2 (rs1 : KReg) (s : State) : Out := scancel rs1 s

/-- SUCCEED (R35, R175). -/
def succeed (rd : XReg) (s : State) : Out :=
  withTh s fun t th =>
    match s.scope? th.sid0 with
    | none => s.done t (th.wx rd (.of 0))
    | some c =>
      if c.succeeded then
        s.done t ({ th with cancel := th.cancel || c.winner != th.tid t }.wx rd (.of 0))
      else
        let s := (s.setScope th.sid0 { c with succeeded := true, winner := th.tid t }).cancelOthers
          th.sid0 (th.tid t)
        s.done t ((s.again t th).wx rd (.of 1))
def execSucceed (rd : XReg) (s : State) : Out := succeed rd s
def execSucceedV1V2 (rd : XReg) (s : State) : Out := succeed rd s

/-- SHIELD and UNSHIELD (R176). -/
def shieldUp (s : State) : Out :=
  withTh s fun t th =>
    if th.shieldn = 65535 then s.trap t th 26 65535 else s.done t { th with shieldn := th.shieldn + 1 }
def shieldDown (s : State) : Out :=
  withTh s fun t th =>
    if th.shieldn = 0 then s.trap t th 26 0 else s.done t { th with shieldn := th.shieldn - 1 }
def execShield (s : State) : Out := shieldUp s
def execShieldV1V2 (s : State) : Out := shieldUp s
def execUnshield (s : State) : Out := shieldDown s
def execUnshieldV1V2 (s : State) : Out := shieldDown s

/-- A bare cancellation point (R177).  YIELD also gives up the issue slot, which the rotation does after
every instruction (R299). -/
def bareCheck (s : State) : Out := withTh s fun t th => s.point t th fun th => s.done t th
def execChkc (s : State) : Out := bareCheck s
def execChkcV1V2 (s : State) : Out := bareCheck s
def execYield (s : State) : Out := bareCheck s
def execYieldV1V2 (s : State) : Out := bareCheck s

/-- EXIT (R178): it waits while the tracker is full (R32). -/
def exitThread (s : State) : Out :=
  withTh s fun t th => if s.trackerRoom th.tile then s.endThread t th else s.stall t th
def execExit (s : State) : Out := exitThread s
def execExitV1V2 (s : State) : Out := exitThread s

/-- SSTAT (R179). -/
def sstat (rd : XReg) (rs1 : KReg) (s : State) : Out :=
  withTh s fun t th =>
    let h := th.rk rs1
    match (if h.kind = .empty then none else s.scope? h.sid) with
    | none => s.done t (th.wx rd (.of 0))
    | some c =>
      let w := statusWord c h.kind (c.cancelled || (h.kind == .birth && th.cancel))
      if h.kind = .closed ∧ c.state = .joined then
        (s.report h.sid).done t ((th.wk rs1 Handle.none).wx rd (.of w))
      else s.done t (th.wx rd (.of w))
def execSstat (rd : XReg) (rs1 : KReg) (s : State) : Out := sstat rd rs1 s
def execSstatV1V2 (rd : XReg) (rs1 : KReg) (s : State) : Out := sstat rd rs1 s

/-! ### SPAWN -/

/-- MODE, class and tile of a placement word. -/
def plMode (w : Word) : Nat := fld w 31 30
def plClass (w : Word) : CoreClass := if w.getLsbD 22 then .compute else .stage
def plTile (w : Word) : Nat := 256 * fld w 21 20 + 16 * fld w 19 16 + fld w 15 12
/-- Is a placement word one that can be served (R180)? -/
def placeLegal (s : State) (w : Word) : Bool :=
  fld w 63 32 == 0 && fld w 29 23 == 0 && fld w 11 0 == 0 &&
  match plMode w with
  | 1 => s.inService (plTile w)
  | 2 => fld w 15 12 == 0 && (clusterTiles (tileCluster (plTile w))).any s.inService
  | _ => fld w 21 12 == 0

/-- What a thread takes from its spawner (R25, R139, R298). -/
def Thread.inherit (child th : Thread) : Thread :=
  { child with cland := th.cland, utvec := th.utvec, waittmo := th.waittmo, seedkey := th.seedkey
               stream := th.stream, ver := th.ver, prio := th.prio, slice := th.slice
               latlim := th.latlim, aspace := th.aspace, cmd := th.cmd }

/-- SPAWN into the scope of handle `k` (R181): the child's identifier, the spawner after the split, and
the device with the child placed; none while every record is in use. -/
def State.spawnFrom (s : State) (th : Thread) (k : KReg) (entry arg place : Word) :
    Option (Nat × Thread × State) :=
  match s.freeThread with
  | none => none
  | some r =>
    let h := th.rk k
    let (w, th, s) := s.birth th k
    let child := (State.fresh (s.nextReuse r) entry arg h.sid w (plClass place) th.tile).inherit th
    let child := s.bornUnder { child with cancel := s.scopeCancelled h.sid }
    some (child.tid r, th, s.placeThread r child (plMode place) (plTile place) th.tile)

/-- SPAWN's checks and effect (R181). -/
def spawn (hasX : Bool) (k : KReg) (rd : XReg) (rs1 rs2 rs3 : XReg) (s : State) : Out :=
  withTh s fun t th =>
    let e := th.rx rs1; let a := th.rx rs2; let p := th.rx rs3
    if e.void || a.void || p.void then
      s.done t ((th.wx rd .voidword).see (if hasX then sawMem ||| sawProp else sawMem))
    else s.point t th fun th =>
      let h := th.rk k
      if !h.gives then s.trap t th 26 h.id
      else if fld e.val 1 0 ≠ 0 then s.trap t th 0 e.val
      else if !placeLegal s p.val then s.trap t th 2 p.val
      else match s.spawnFrom th k e.val a.val p.val with
        | none => s.stall t th
        | some (id, th, s) => s.done t (th.wx rd (.of (wOf id)))
def execSpawn (rd rs1 rs2 rs3 : XReg) (s : State) : Out := spawn true 0 rd rs1 rs2 rs3 s
def execSpawnIn (rd : KReg) (rs1 rs2 rs3 : XReg) (s : State) : Out := spawn false rd 0 rs1 rs2 rs3 s

end Sys2Proof.Machine
end

