-- ==== Sys2Proof/Machine/TaskOps.lean ====
section
/-! DEFINITION. Task and lazy-range instructions (R182 to R189). -/

namespace Sys2Proof.Machine

/-- The lowest free task record (R17, log 10).  A record whose reuse count is kept is FREE. -/
def State.freeTask (s : State) : Option Nat :=
  let r := lowestUnlisted (fun x : Task => x.state != .free) s.tasks 0
  if r < 0x100000 then some r else none
/-- Reuse count of a task record's next allocation (R182). -/
def State.nextTaskReuse (s : State) (r : Nat) : Nat :=
  match tfind s.tasks r with
  | some x => if 4095 ≤ x.reuse then 1 else x.reuse + 1
  | none => 1

/-- Is TSKNEW's control word legal (R183)? -/
def taskCtlLegal (s : State) (c : Word) : Bool :=
  fld c 63 23 == 0 && (clusterTiles (fld c 21 16)).any s.inService

/-- TSKNEW (R183): reads its block, then takes a record and weight from k0.  In a cancelled scope the task is
discarded at once, and its weight returned (R37, R40, log 50). -/
def execTsknew (rd rs1 rs2 : XReg) (s : State) : Out :=
  withTh s fun t th =>
    let a := th.rx rs1; let c := th.rx rs2
    if a.void || c.void then s.nullifyX t th rd (sawProp ||| sawMem)
    else if !taskCtlLegal s c.val then s.trap t th 2 c.val
    else match s.readVals th .base [(a.val, 8), (a.val + 8, 8)] with
      | .error e => s.stop t th e
      | .ok vs =>
        let s := s.touched th false [a.val, a.val + 8]
        let e := vs.headD 0
        if e % 4 ≠ 0 then s.trap t th 0 (wOf e)
        else match s.freeTask with
          | none => s.stall t th
          | some r =>
            let (w, th, s) := s.birth th 0
            let x : Task := ⟨s.nextTaskReuse r, .created, wOf e, wOf (vs.getD 1 0), fld c.val 15 0, none,
              fld c.val 21 16, plClass c.val, th.sid0, w, th.tid t, th.prio, th.slice, th.latlim,
              th.cland, th.utvec, th.waittmo, th.seedkey, th.stream, th.ver, th.aspace, th.cmd⟩
            let s : State := { s with tasks := tset s.tasks r x }
            let s := if s.scopeCancelled x.sid then s.discardTask r x else s
            s.done t (th.wx rd (.of (wOf (State.taskId r x.reuse))))

/-- What publishing a task does (R40, R184): a fault, or the device after it. -/
def State.publish (s : State) (id : Nat) : Except Nat State :=
  match s.task? id with
  | some x =>
    if x.state ≠ .created then .error 26
    else
      let p := x.pending.getD 0
      if x.count < p then .error 27
      else
        let y := { x with count := x.count - p, pending := none }
        if y.count = 0 then .ok (s.readyTask (id / 4096) y)
        else .ok (s.setTask id { y with state := .published })
  | none => .error 26

/-- What signalling a task does (R40, R41, R184): a fault, the device after it, or nothing yet while
the cluster's table is full. -/
def State.signal (s : State) (id : Nat) : Except Nat (Option State) :=
  match s.task? id with
  | some x =>
    match x.state with
    | .created => match x.pending with
      | none => if 256 ≤ s.pendingHeld x.cluster then .ok none
                else .ok (some (s.setTask id { x with pending := some 1 }))
      | some p => if p = 65535 then .error 27
                  else .ok (some (s.setTask id { x with pending := some (p + 1) }))
    | .published =>
      let y := { x with count := x.count - 1 }
      if y.count = 0 then .ok (some (s.readyTask (id / 4096) y)) else .ok (some (s.setTask id y))
    | .discarded => .ok (some s)
    | _ => .error 27
  | none => .error 27

def execTskpub (rs1 : XReg) (s : State) : Out :=
  withTh s fun t th =>
    let a := th.rx rs1
    if a.void then s.nullify t th sawMem
    else match s.publish a.val.toNat with
      | .error c => s.trap t th c a.val
      | .ok s => s.done t th

def execTsksig (rs1 : XReg) (s : State) : Out :=
  withTh s fun t th =>
    let a := th.rx rs1
    if a.void then s.nullify t th sawMem
    else match s.signal a.val.toNat with
      | .error c => s.trap t th c a.val
      | .ok (some s) => s.done t th
      | .ok none => s.stall t th

/-- TSKSTAT (R185). -/
def execTskstat (rd rs1 : XReg) (s : State) : Out :=
  withTh s fun t th =>
    let a := th.rx rs1
    if a.void then s.nullifyX t th rd (sawProp ||| sawMem)
    else s.done t (th.wx rd (.of (match s.task? a.val.toNat with | some x => taskWord x | none => 0)))

/-! ### Lazy ranges (R43, R44, R186 to R188) -/

/-- A range word (R186): a count of 0 has FIRST 0. -/
def rangeWord (first count : Nat) : Word := wOf (count * 2 ^ 32 + (if count = 0 then 0 else first))

/-- RNGINIT (R186): rd is read, as the chunk. -/
def execRnginit (rd rs1 rs2 : XReg) (s : State) : Out :=
  withTh s fun t th =>
    let c := th.rx rd; let lo := th.rx rs1; let hi := th.rx rs2
    if c.void || lo.void || hi.void then s.nullify t th sawMem
    else if 2 ^ 32 ≤ lo.val.toNat ∨ 2 ^ 32 ≤ hi.val.toNat ∨ c.val = 0 ∨ 2 ^ 32 ≤ c.val.toNat then
      s.trap t th 2 c.val
    else
      let x := s.tile th.tile
      let s1 := s.setTile th.tile { x with ranges :=
        ⟨lo.val.toNat, max lo.val.toNat hi.val.toNat, c.val.toNat, none, some (th.tid t)⟩ }
      let s2 := match x.ranges.thief with
        | some f => s1.answerThief f 0 0
        | none => s1
      s2.done t th

/-- RCLAIM by the bound thread first answers a pending steal (R43, R187). -/
def execRclaim (rd : XReg) (s : State) : Out :=
  withTh s fun t th =>
    let x := s.tile th.tile
    let r := x.ranges
    if r.bound ≠ some (th.tid t) then s.done t (th.wx rd (.of 0))
    else
      let n := r.hi - r.lo
      let mid := if r.thief.isSome ∧ r.chunk < n then r.lo + (n + 1) / 2 else r.hi
      let count := min r.chunk (mid - r.lo)
      let s1 := s.setTile th.tile { x with ranges := { r with lo := r.lo + count, hi := mid, thief := none } }
      let s2 := match r.thief with
        | some f => if r.chunk < n then s1.answerThief f mid (r.hi - mid) else s1.answerThief f 0 0
        | none => s1
      s2.done t (th.wx rd (.of (rangeWord r.lo count)))

/-- RSTEAL (R44, R187): the empty range at once, or wait for the owner. -/
def execRsteal (rd rs1 : XReg) (s : State) : Out :=
  withTh s fun t th =>
    let a := th.rx rs1
    if a.void then s.nullifyX t th rd (sawProp ||| sawMem)
    else if 15 < a.val.toNat then s.trap t th 2 a.val
    else
      let l := 16 * tileCluster th.tile + a.val.toNat
      let x := s.tile l
      match x.ranges.bound with
      | none => s.done t (th.wx rd (.of 0))
      | some b =>
        if !s.inService l ∨ x.ranges.thief.isSome ∨ b = th.tid t then s.done t (th.wx rd (.of 0))
        else (s.setTile l { x with ranges := { x.ranges with thief := some (th.tid t) } }).setTh t
          { th with wait := some ⟨.steal l, rd, s.time⟩, stalled := false }

end Sys2Proof.Machine
end

