-- ==== Sys2Proof/Machine/WaitOps.lean ====
section
/-! DEFINITION. Messages, barriers and waits (R166, R190 to R197, R209, R213, R262): a wait is evaluated
when it is executed and again by the events that re-evaluate it. -/

namespace Sys2Proof.Machine

/-! ### Messages -/

/-- A thread's inbound queue: its tile's interface, then the overflow store (R190). -/
def Thread.msgs (th : Thread) : List Msg := th.inbox ++ th.overflow
/-- Put a queue back: 16 messages stand in the interface (R190). -/
def Thread.putMsgs (th : Thread) (ms : List Msg) : Thread :=
  { th with inbox := ms.take 16, overflow := ms.drop 16 }
/-- Does a message match MRECV's operand (R192)? -/
def Msg.matches (m : Msg) (sender : Nat) : Bool := m.words.length == 1 && (sender == 0 || m.sender == sender)
/-- The first message for which `p` holds, and the queue without it. -/
def takeFirst (p : Msg → Bool) : List Msg → Option (Msg × List Msg)
  | [] => none
  | m :: ms => if p m then some (m, ms) else (takeFirst p ms).map (fun r => (r.1, m :: r.2))

/-- Bytes of a message in an overflow store (R302). -/
def Msg.bytes (m : Msg) : Nat := if m.words.length = 1 then 16 else 48
/-- Bytes used in a cluster's overflow store. -/
def State.overflowUsed (s : State) (cl : Nat) : Nat :=
  ((s.threads.filter (fun p => tileCluster p.2.tile == cl)).map (fun p =>
    (p.2.overflow.map Msg.bytes).sum)).sum
def Thread.isResident (th : Thread) : Bool := match th.loc with | .resident _ => true | _ => false
/-- Does a message of `n` words for a thread have a place now (R190, R191, R302)? -/
def State.msgRoom (s : State) (r : Thread) (n : Nat) : Bool :=
  (r.isResident && r.inbox.length < 16 && r.overflow.isEmpty) ||
    decide (s.overflowUsed (tileCluster r.tile) + (if n = 1 then 16 else 48) ≤ 65536)

/-- Queue a message for a thread.  A parked thread that waits for it enters its cluster's ready queue
(R301, R302). -/
def State.queueMsg (s : State) (r : Nat) (rt : Thread) (m : Msg) : State :=
  let rt := if rt.isResident && rt.inbox.length < 16 && rt.overflow.isEmpty then
      { rt with inbox := rt.inbox ++ [m] } else { rt with overflow := rt.overflow ++ [m] }
  match rt.loc, rt.wait with
  | .parked, some ⟨.recv f, _, _⟩ =>
    if m.matches f then s.readyThread r rt (some rt.tile) s.time else s.setTh r rt
  | _, _ => s.setTh r rt

/-- MSEND and MSEND4 once their data is known (R191). -/
def State.sendMsg (s : State) (t : Nat) (th : Thread) (d : Word) (ws : List Word) : State :=
  match s.byTid d.toNat with
  | some (r, rt) =>
    if rt.ending then
      let (w, th, s) := s.birth th 0
      (s.giveBack (tileDie th.tile) th.sid0 w).done t th
    else if !s.msgRoom rt ws.length then s.stall t th
    else
      let (w, th, s) := s.birth th 0
      let s := s.done t th
      s.queueMsg r ((s.thread? r).getD rt) ⟨th.tid t, ws, th.sid0, w⟩
  | none =>
    let (w, th, s) := s.birth th 0
    (s.giveBack (tileDie th.tile) th.sid0 w).done t th

/-- MSEND (R191). -/
def execMsend (rs1 rs2 : XReg) (s : State) : Out :=
  withTh s fun t th =>
    let d := th.rx rs1; let a := th.rx rs2
    if d.void || a.void then s.nullify t th sawMem
    else if 2 ^ 32 ≤ d.val.toNat then s.trap t th 2 d.val
    else s.sendMsg t th d.val [a.val]

/-- MSEND4 (R191): a fault of its loads sends nothing. -/
def execMsend4 (rs1 rs2 : XReg) (s : State) : Out :=
  withTh s fun t th =>
    let d := th.rx rs1; let a := th.rx rs2
    let vas := [a.val, a.val + 8, a.val + 16, a.val + 24]
    if d.void || a.void then s.nullify t th sawMem
    else if 2 ^ 32 ≤ d.val.toNat then s.trap t th 2 d.val
    else match s.readVals th .base (vas.map (fun va => (va, 8))) with
      | .error e => s.stop t th e
      | .ok vs => (s.touched th false vas).sendMsg t th d.val (vs.map wOf)

/-- The checks of R165 for several stores of n bytes. -/
def State.storeEach (s : State) (th : Thread) (n : Nat) : List (Word × Word) → Except Stop (List Place)
  | [] => .ok []
  | (va, d) :: rest => do
    let p ← s.access th va n .store .base (some d)
    let ps ← s.storeEach th n rest
    .ok (p :: ps)
/-- The checks of several stores of n bytes, all before any write (R193, R286, R288), and room in the log ring
for every page they make dirty (R334). -/
def State.storeChecks (s : State) (th : Thread) (n : Nat) (vds : List (Word × Word)) : Except Stop (List Place) := do
  let ps ← s.storeEach th n vds
  if s.logFits th.tile th.aspace (vds.map (·.1.toNat)) then .ok ps else .error .logFull
/-- Perform checked stores of n bytes. -/
def State.storeAll (s : State) (t : Nat) (th : Thread) (n : Nat) : List (Place × Word × Word) → Thread × State
  | [] => (th, s)
  | (p, va, d) :: rest =>
    let (th, s) := s.performWrite t th p va n d.toNat
    State.storeAll s t th n rest

/-- MRECV4 (R193). -/
def execMrecv4 (rd rs1 : XReg) (s : State) : Out :=
  withTh s fun t th =>
    let a := th.rx rs1
    if a.void then s.nullifyX t th rd (sawProp ||| sawMem)
    else match takeFirst (fun m => m.words.length == 4) th.msgs with
      | none => s.done t (th.wx rd (.of 0))
      | some (m, rest) =>
        let vws := List.zip [a.val, a.val + 8, a.val + 16, a.val + 24] m.words
        match s.storeChecks th 8 vws with
        | .error e => s.stop t th e
        | .ok ps =>
          let (th, s) := (s.giveBack (tileDie th.tile) m.sid m.weight).storeAll t (th.putMsgs rest) 8
            (List.zip ps vws)
          s.done t (th.wx rd (.of (wOf m.sender)))

/-- MPEEK (R193). -/
def execMpeek (rd rs1 : XReg) (s : State) : Out :=
  withTh s fun t th =>
    let f := th.rx rs1
    if f.void then s.nullifyX t th rd (sawProp ||| sawMem)
    else
      let n4 := (th.msgs.filter (fun m => m.words.length == 4)).length
      let n1 := (th.msgs.filter (fun m => m.matches f.val.toNat)).length
      s.done t (th.wx rd (.of (wOf (min n4 (2 ^ 32 - 1) * 2 ^ 32 + min n1 (2 ^ 32 - 1)))))

/-! ### Evaluating a wait (R166) -/

/-- Conditions of the word waits (R196). -/
def Cmp.holds (c : Cmp) (m v : Word) : Bool :=
  match c with
  | .eq => m == v
  | .ne => m != v
  | .ge => !(m - v).msb

/-- Has every array command of a thread finished (R262)? -/
def State.arrayIdle (s : State) (l tid : Nat) : Bool :=
  !((s.tile l).weightQ.any (fun c => c.tid == tid) || (s.tile l).rowQ.any (fun c => c.tid == tid))
/-- MXWAIT's result, and the thread with the commands judged (R262). -/
def Thread.mxResult (th : Thread) : Word × Thread :=
  (if th.mxFailed then 2 else if th.mxCancelled then 1 else 0,
    { th with mxFailed := false, mxCancelled := false })

/-- The condition of a wait under wait_until: not met, or the device, the thread and the value for rd. -/
def State.waitCond (s : State) (th : Thread) (k : WaitKind) : Except Stop (Option (State × Thread × Word)) :=
  let x := s.tile th.tile
  match k with
  | .word c a v => do
    let m ← s.readVal th a 8 .base
    .ok (if c.holds (wOf m) v then some (s.touched th false [a], th, wOf m) else none)
  | .bar a g i => do
    let m ← s.readVal th a 8 .base
    .ok (if m / 2 ^ 32 ≠ g then some (s.touched th false [a], th, wOf i) else none)
  | .cb filled b n =>
    let c := if filled then (x.cb b).fill else (x.cb b).free
    .ok (if n ≤ c then some (s, th, wOf c) else none)
  | .tagAny m => .ok (if x.tagMask th.cls &&& m ≠ 0 then some (s, th, x.tagFirst th.cls m) else none)
  | .tagAll m => .ok (if x.tagMask th.cls &&& m = m then some (s, th, x.tagBad th.cls m) else none)
  | .recv f => match takeFirst (fun m => m.matches f) th.msgs with
    | some (m, rest) => .ok (some (s.giveBack (tileDie th.tile) m.sid m.weight, th.putMsgs rest, m.words.headD 0))
    | none => .ok none
  | _ => .ok none

/-- Has the deadline of a wait passed (R166)? -/
def State.expired (s : State) (th : Thread) (w : Wait) : Bool :=
  th.waittmo != 0 && decide (th.waittmo.toNat ≤ s.time - w.start)

/-- Does the closer hear of the join of a scope: the scope's home and the closer's die are not kept apart by a
stalled link (R13)? -/
def State.joinHeard (s : State) (th : Thread) (sid : Nat) : Bool := s.linkOpen (tileDie th.tile) (scopeDie sid)

/-- The wait of a thread whose evaluation hits a watchpoint: an instruction whose whole effect is its wait has not
begun (R422); a barrier's arrival stands. -/
def State.unbegun (w : Wait) : Option Wait :=
  match w.kind with
  | .word _ _ _ => none
  | _ => some w
/-- An access past a cancellation point does not go through.  A fault has passed the point; on a watchpoint, a
link, a log ring or a peer the instruction has no effect yet, and `old` is the thread before the point. -/
def State.stopPast (s : State) (t : Nat) (th old : Thread) (e : Stop) : State :=
  match e with
  | .trap _ _ => s.stop t th e
  | _ => s.stop t old e

/-- One evaluation of a wait: the cancellation point, the condition, the timeout (R166).  The join of
SCLOSE and MXWAIT have neither point nor timeout; a steal is answered by its owner (R187).  A shielded
MRECV of a cancelled thread ends with void (R36, log 23).  Behind a stalled link the thread waits on. -/
def State.evalWait (s : State) (t : Nat) (th : Thread) (w : Wait) : State :=
  let waiting (th : Thread) : Thread := { th with wait := some w, stalled := false, peer := [] }
  match w.kind with
  | .join sid k => match s.scope? sid with
    | some c => if c.state = .joined ∧ s.joinHeard th sid then s.closeReturn t th sid k w.rd
                else s.setTh t (waiting th)
    | none => s.setTh t (waiting th)
  | .mx =>
    if s.arrayIdle th.tile (th.tid t) then
      let (v, th) := th.mxResult
      s.done t { th.wx w.rd (.of v) with wait := none }
    else s.setTh t (waiting th)
  | .steal _ => s.setTh t (waiting th)
  | .recv _ =>
    if s.cancelled th && th.shieldn != 0 then
      s.done t { (State.pointSeen th).wx w.rd .voidword with wait := none }
    else go waiting
  | _ => go waiting
where
  go (waiting : Thread → Thread) : State :=
    let old := th
    s.point t th fun th =>
      match s.waitCond th w.kind with
      | .error .link => s.setTh t (waiting th)
      | .error (.watch i) => s.stop t { old with wait := State.unbegun w } (.watch i)
      | .error e => s.stopPast t { th with wait := some w } { old with wait := some w } e
      | .ok (some (s, th, v)) => s.done t { th.wx w.rd (.of v) with wait := none }
      | .ok none =>
        if s.expired th w then s.done t { th.wx w.rd .voidword with wait := none }
        else s.setTh t (waiting th)

/-- A wait instruction begins its wait now. -/
def State.beginWait (s : State) (t : Nat) (th : Thread) (k : WaitKind) (rd : XReg) : State :=
  s.evalWait t th ⟨k, rd, s.time⟩

/-! ### Wait instructions -/

/-- MRECV (R192). -/
def execMrecv (rd rs1 : XReg) (s : State) : Out :=
  withTh s fun t th =>
    let f := th.rx rs1
    if f.void then s.nullifyX t th rd (sawProp ||| sawMem)
    else s.beginWait t th (.recv f.val.toNat) rd

/-- WAITEQ, WAITNE, WAITGE (R196). -/
def wordWait (c : Cmp) (rd rs1 rs2 : XReg) (s : State) : Out :=
  withTh s fun t th =>
    let a := th.rx rs1; let v := th.rx rs2
    if a.void || v.void then s.nullifyX t th rd (sawProp ||| sawMem)
    else s.beginWait t th (.word c a.val v.val) rd
def execWaiteq (rd rs1 rs2 : XReg) (s : State) : Out := wordWait .eq rd rs1 rs2 s
def execWaitne (rd rs1 rs2 : XReg) (s : State) : Out := wordWait .ne rd rs1 rs2 s
def execWaitge (rd rs1 rs2 : XReg) (s : State) : Out := wordWait .ge rd rs1 rs2 s

/-- CBWAITF and CBWAITE (R209).  The cancellation point comes before the check of the buffer (R36, R363,
log 51). -/
def cbWait (filled : Bool) (rd : XReg) (cb : CbReg) (rs2 : XReg) (s : State) : Out :=
  withTh s fun t th =>
    let n := th.rx rs2
    let d := (s.tile th.tile).cb cb.toNat
    if n.void then s.nullifyX t th rd (sawProp ||| sawMem)
    else s.point t th fun th =>
      if d.count = 0 ∨ d.count < n.val.toNat then s.trap t th 29 (wOf cb.toNat)
      else if n.val = 0 then s.done t (th.wx rd (.of (wOf (if filled then d.fill else d.free))))
      else s.beginWait t th (.cb filled cb.toNat n.val.toNat) rd
def execCbwaitf (rd : XReg) (cb : CbReg) (rs2 : XReg) (s : State) : Out := cbWait true rd cb rs2 s
def execCbwaite (rd : XReg) (cb : CbReg) (rs2 : XReg) (s : State) : Out := cbWait false rd cb rs2 s

/-- TAGWA and TAGWL (R213). -/
def tagWait (k : Word → WaitKind) (rd rs1 : XReg) (s : State) : Out :=
  withTh s fun t th =>
    let m := th.rx rs1
    if m.void then s.nullifyX t th rd (sawProp ||| sawMem)
    else if m.val = 0 then s.point t th fun th => s.done t (th.wx rd (.of 0))
    else s.beginWait t th (k m.val) rd
def execTagwa (rd rs1 : XReg) (s : State) : Out := tagWait .tagAny rd rs1 s
def execTagwl (rd rs1 : XReg) (s : State) : Out := tagWait .tagAll rd rs1 s

/-- MXWAIT (R262). -/
def execMxwait (rd : XReg) (s : State) : Out :=
  onCompute (.mxwait rd) s fun t th => s.beginWait t th .mx rd

/-! ### BAR (R194, R195) -/

/-- The new word 0 after an arrival, the arriver's number and generation; none for an illegal record. -/
def barArrive (w0 w1 : Nat) : Option (Nat × Nat × Nat) :=
  let n := w0 % 65536; let i := w0 / 65536 % 65536; let g := w0 / 2 ^ 32
  if n = 0 ∨ n ≤ i ∨ 5 < w1 then none
  else some (if i + 1 = n then (g + 1) % 2 ^ 32 * 2 ^ 32 + n else g * 2 ^ 32 + (i + 1) * 65536 + n, g, i)

/-- Where a barrier record stands: word 0 read and written, word 1 read (R195).  Its watchpoints are met once
the word written is known. -/
def State.barPlaces (s : State) (th : Thread) (a : Word) : Except Stop (Place × Place) := do
  let p ← s.access { th with skipCheck := true } a 8 .amo .base
  let q ← s.access { th with skipCheck := true } (a + 8) 8 .load .base
  .ok (p, q)
/-- Watchpoint that an arrival hits: the reads of both words, then the write of word 0 (R421). -/
def Thread.barWatch (th : Thread) (a : Nat) (write : Option Nat) : Option Nat :=
  match th.watchHit a 8 .load none with
  | some i => some i
  | none => match th.watchHit (a + 8) 8 .load none with
    | some i => some i
    | none => write

/-- An arrival at a record that stands here takes effect, or the record is illegal.  `old` is the thread before
the cancellation point.  A record of reach FABRIC or SYSTEM is a release there: every write at a peer lands
first (R83). -/
def State.arrived (s : State) (t : Nat) (th old : Thread) (rd : XReg) (a : Word) (w0 w1 x : Nat) : State :=
  let write := match barArrive w0 w1 with
    | some (w, _, _) => th.watchHit a.toNat 8 .store (some (wOf w))
    | none => none
  match th.barWatch a.toNat write with
  | some i => s.stop t old (.watch i)
  | none => match barArrive w0 w1 with
    | none => s.trap t th 2 a
    | some (w, g, i) =>
      if s.releaseHeld w1 then s.stall t old
      else ((s.touched th true [a]).putNum x 8 w).beginWait t { th with peer := [] } (.bar a g i) rd
/-- The peer's answer to an arrival at its record: the record before it (R195, R336). -/
def State.arrivedPeer (s : State) (t : Nat) (th : Thread) (rd : XReg) (a : Word) (v : PeerVal) : State :=
  match v.ans with
  | .poisoned => s.trap t th 30 a
  | .failed => s.trap t th 55 a
  | .ok => match barArrive (leNat (v.bs.take 8)) (leNat (v.bs.drop 8)) with
    | none => s.trap t th 2 a
    | some (_, g, i) => s.beginWait t { th with peer := [] } (.bar a g i) rd

/-- BAR (R195).  An arrival at a peer's record goes out after every write at a peer has landed, since the reach
stands in the record (R83, log 4). -/
def execBar (rd rs1 : XReg) (s : State) : Out :=
  withTh s fun t old =>
    let a := old.rx rs1
    if a.void then s.nullifyX t old rd (sawProp ||| sawMem)
    else s.point t old fun th =>
      if a.val.toNat % 16 ≠ 0 then s.trap t th 2 a.val
      else match s.barPlaces th a.val with
        | .error e => s.stopPast t th old e
        | .ok (.loc x, _) => s.arrived t th old rd a.val (s.numAt x 8) (s.numAt (x + 8) 8) x
        | .ok (.peer dev addr, _) =>
          match th.peer.find? (fun v => v.addr == a.val.toNat && v.n == 16 && v.amo) with
          | some v => s.arrivedPeer t th rd a.val v
          | none => match th.barWatch a.val.toNat
              (th.peerWatch a.val.toNat 8 none false (Config.peerHit dev addr s.time)) with
            | some i => s.stop t old (.watch i)
            | none => if s.storesOut then s.stall t old
                      else (s.touched th true [a.val]).stop t old (.need a.val 16 dev addr .bar)

/-! ### Evaluating again -/

/-- May a thread's wait be evaluated: it is resident, not halted, and no remote read is under way. -/
def Thread.canEval (th : Thread) : Bool :=
  th.isResident && th.halted.isNone && th.remoteOut.isNone && !th.ending && !th.saving

/-- WAIT_REEVALUATE: (thread) (R166, R197).  A scope fault of the wait's read waits for stalled links (R13). -/
def execWaitReevaluate (s : State) : Out :=
  .next <| match s.input with
    | .num t => match s.thread? t with
      | some th => match th.wait with
        | some w => if th.canEval then s.orHeld ((s.evalWait t th w).ended t th) t th s else s
        | none => s
      | none => s
    | _ => s

/-- WAIT_TIMEOUT: (thread).  At a passed deadline the wait is evaluated once more (R166). -/
def execWaitTimeout (s : State) : Out :=
  .next <| match s.input with
    | .num t => match s.thread? t with
      | some th => match th.wait with
        | some w => if th.canEval && s.expired th w then s.orHeld ((s.evalWait t th w).ended t th) t th s else s
        | none => s
      | none => s
    | _ => s

/-- ISSUE_STALL_END: (thread).  A thread stalled at issue may issue again (R373). -/
def execIssueStallEnd (s : State) : Out :=
  .next <| match s.input with
    | .num t => match s.thread? t with
      | some th =>
        if th.stalled && th.remoteOut.isNone && th.wait.isNone && !th.ending then
          s.setTh t { th with stalled := false } else s
      | none => s
    | _ => s

end Sys2Proof.Machine
end

