-- ==== Sys2Proof/Machine/SchedOps.lean ====
section
/-! DEFINITION. Scheduling and scope events: returns of weight and joins (R29, R33), the retirement
tracker (R32), dispatch (R296, R297), pre-emption (R300, R301), the watchdog (R374), and the translation
service core (R57, R412). -/

namespace Sys2Proof.Machine

namespace State

/-! ### Returns and joins (R28, R29, R33) -/

/-- A thread that waits in SCLOSE for a scope goes on at its join: in its context at once, parked by way
of the ready queue (R28, R377).  A halted one goes on when it runs again, and one behind a stalled link when it
hears of the join (R13). -/
def wakeJoin (s : State) (sid : Nat) : State :=
  s.threads.foldl (fun s p => match s.thread? p.1 with
    | none => s
    | some th => match th.wait with
      | some ⟨.join j k, rd, _⟩ =>
        if j ≠ sid || !s.joinHeard th sid then s
        else match th.loc with
          | .resident _ => if th.canEval then s.closeReturn p.1 th sid k rd else s
          | .parked => s.readyThread p.1 th (some th.tile) s.time
          | .queued => s
      | _ => s) s

/-- Are root scopes of a function that an FLR or a failure silenced still live (R407)? -/
def silentLive (s : State) (f : Nat) : Bool :=
  s.cmds.any (fun p => p.2.silent && p.2.root != 0 && (f == 0 || p.2.queue / 16 == f))
/-- An FLR completes when every root scope it killed has joined (R407). -/
def flrDone (s : State) (f : Nat) : State :=
  let x := s.func f
  if x.flr && !s.silentLive f then s.setFunc f { x with flr := false } else s

/-- The root scope of a command joined: its reservations end and it has finished, with the status word as
its VALUE (R293, R331); a silent one goes without completion (R407). -/
def rootJoined (s : State) (id : Nat) (w : Word) : State :=
  let s : State := { s with tiles := s.tiles.map (fun p =>
    if p.2.resv = some id then (p.1, { p.2 with resv := none }) else p) }
  match tfind s.cmds id with
  | none => s
  | some c =>
    if c.silent then (({ s with cmds := tdel s.cmds id }.flrDone (c.queue / 16))).flrDone 0
    else { s with cmds := tset s.cmds id { c with phase := .finished, value := fld w 31 0 }
                  donePosts := s.donePosts ++ [id] }

/-- A scope joins (R28, R33): the records of its discarded tasks are freed (R184), it returns its weight to
its parent, and who waits for it goes on. -/
def joinScope (s : State) (sid : Nat) : State :=
  match s.scope? sid with
  | none => s
  | some c =>
    let c := { c with state := .joined, parentReturned := c.parent = 0, joinedAt := s.time }
    let s := (s.setScope sid c).freeDiscarded sid
    if c.parent = 0 then ((s.rootJoined c.cmd (statusWord c .opener c.cancelled)).report sid).settle sid
    else
      let s : State := { s with returns := s.returns ++ [⟨c.parent, c.parentWeight, .child sid, scopeDie sid⟩] }
      (s.wakeJoin sid).settle sid

/-- What a return frees at home. -/
def freed (s : State) : RetFor → State
  | .member => s
  | .child k => match s.scope? k with
    | some c => (s.setScope k { c with parentReturned := true }).settle k
    | none => s
  | .task id => match s.task? id with
    | some x => s.setTask id { x with state := .free }
    | none => s

/-- A return of weight reaches its home record (R29): O falls, and a CLOSING scope with O 0 joins. -/
def returnHome (s : State) (r : Ret) : State :=
  let s := s.freed r.for_
  match s.scope? r.sid with
  | none => s
  | some c =>
    let s := s.setScope r.sid { c with o := c.o - r.weight }
    if c.state = .closing ∧ c.o - r.weight = 0 then s.joinScope r.sid else s

/-! ### The retirement tracker (R32) -/

/-- A thread whose context a full tracker held is retired once an entry is free (R32, R364). -/
def retireHeld (s : State) (l : Nat) : State :=
  match s.threads.find? (fun p => p.2.ending && p.2.tile == l) with
  | some (t, th) => if s.trackerRoom l then s.retire t th else s
  | none => s

/-- Is a window of an ended thread free: no copy of the thread that touches it is under way, and its
descriptor's home can be reached (R13, R32, R225)? -/
def windowFree (s : State) (l tid : Nat) (w : Window) : Bool :=
  !(s.tile l).copies.any (fun c => c.tid == tid && c.touches w) &&
    (match s.refTarget w.ref with
      | some (h, i) => s.linkOpen (tileDie l) (descDie h i)
      | none => true)
/-- Has everything landed that a thread issued (R32)? -/
def allLanded (s : State) (l tid : Nat) : Bool := !s.engineBusy l tid && !s.remoteBusy tid
/-- The weight of an entry starts home, and the task of its thread is DONE (R32, R40, R178). -/
def trackerWeight (s : State) (l : Nat) (e : Track) : State :=
  { (s.taskDone e.task) with returns := s.returns ++ [⟨e.sid, e.weight, match e.task with
      | some id => .task id
      | none => .member, tileDie l⟩] }
/-- An entry returns each pin once its window is free, and its weight once all the thread's work has landed; it
is held until both are returned, when its weight reads 0 and it has no window (R32). -/
def trackerEntry (s : State) (l : Nat) (e : Track) : State :=
  let go := e.windows.filter (s.windowFree l e.tid)
  let rest : Track := { e with windows := e.windows.filter (fun w => !s.windowFree l e.tid w)
                               weight := if s.allLanded l e.tid then 0 else e.weight }
  let landed := s.allLanded l e.tid && e.weight != 0
  let s := go.foldl (fun s w => s.unpin (tileDie l) w e.sid) s
  let s := if landed then s.trackerWeight l e else s
  let x := s.tile l
  if rest.weight = 0 ∧ rest.windows = [] then
    (s.setTile l { x with tracker := x.tracker.filter (fun k => k.tid != e.tid) }).retireHeld l
  else s.setTile l { x with tracker := x.tracker.map (fun k => if k.tid = e.tid then rest else k) }

/-! ### Ready queues (R296, R297) -/

/-- Effective priority (R296). -/
def effPrio (s : State) (it : Item) : Nat := min 7 (it.prio + (s.time - it.readyAt) / 50000)
/-- Does an item rank before another (R296)? -/
def ranks (s : State) (a b : Item) : Bool :=
  let p := s.effPrio a; let q := s.effPrio b
  decide (q < p) || (p == q && (decide (a.readyAt < b.readyAt) || (a.readyAt == b.readyAt &&
    ((!a.isTask && b.isTask) || (a.isTask == b.isTask && decide (a.record ≤ b.record))))))
/-- Put an item in its place. -/
def insertItem (s : State) (a : Item) : List Item → List Item
  | [] => [a]
  | b :: bs => if s.ranks a b then a :: b :: bs else b :: s.insertItem a bs
/-- A queue in order. -/
def ordered (s : State) (its : List Item) : List Item := its.foldr s.insertItem []

/-- Is an item held by a debugger's halt (R424)? -/
def heldItem (s : State) (it : Item) : Bool :=
  !it.isTask && (match s.thread? it.record with | some th => th.halted.isSome | none => true)
/-- The range an item's thread was saved with, if it is not empty (R188). -/
def itemRange (s : State) (it : Item) : Bool :=
  !it.isTask && (match s.thread? it.record with | some th => th.saved.isSome | none => false)
/-- Is an item a thread saved with a range of a tile? -/
def rangeOn (s : State) (l : Nat) (it : Item) : Bool := s.itemRange it && it.place == some l && !s.heldItem it
/-- The item whose turn it is to bind a tile's range registers, while it still waits for them (R189). -/
def turnItem (s : State) (l : Nat) : Option Item :=
  (s.tile l).rangeTurn.bind (fun t => (s.cluster (tileCluster l)).ready.find? (fun i => i.record == t && s.rangeOn l i))
/-- Does an item wait only for range registers that another thread holds, or binds first (R189)? -/
def rangeBlocked (s : State) (it : Item) : Bool :=
  s.itemRange it && (match it.place with
    | some l => (s.tile l).ranges.bound.isSome || (match s.turnItem l with | some i => i != it | none => false)
    | none => false)
/-- Tiles an item may use (R297). -/
def itemTiles (s : State) (cl : Nat) (it : Item) : List Nat :=
  (match it.place with | some l => [l] | none => clusterTiles cl).filter s.inService
/-- The tile an item would take now: of those with a free context the one with most, as R297 has it of tasks, and,
DESIGN CHOICE (log 38), for a queued thread of MODE 2 or 3 too. -/
def fitTile (s : State) (cl : Nat) (it : Item) : Option Nat :=
  if s.rangeBlocked it || (it.isTask && s.freeThread.isNone) then none
  else argMax (fun l => s.freeCtx l it.cls)
    ((s.itemTiles cl it).filter (fun l => decide (0 < s.freeCtx l it.cls)))

/-- Items passed over gain a skip, but for those that only wait for range registers (R189, R297). -/
def skipped (s : State) (cl : Nat) (over_ : List Item) : State :=
  let c := s.cluster cl
  s.setCluster cl { c with ready := c.ready.map (fun i =>
    if over_.contains i && !s.rangeBlocked i then { i with skips := i.skips + 1 } else i) }

/-- A spilled or spawned thread takes a context of a tile: messages of the overflow store join its queue,
and a saved range binds the tile's registers (R188, R301, R302). -/
def resume (s : State) (t : Nat) (th : Thread) (l x : Nat) : State :=
  let y := s.tile l
  let s := match th.saved with
    | some (lo, hi, ch) => s.setTile l { y with ranges := ⟨lo, hi, ch, none, some (th.tid t)⟩, rangeTurn := none }
    | none => s
  s.seat t { th.putMsgs th.msgs with saved := none } l x

/-- The thread that runs a task (R25, R40). -/
def taskThread (s : State) (r : Nat) (x : Task) (k l : Nat) : Thread :=
  { fresh (s.nextReuse r) x.entry x.arg x.sid x.weight x.cls l with
    cland := x.cland, utvec := x.utvec, waittmo := x.waittmo, seedkey := x.seedkey, stream := x.stream
    ver := x.ver, prio := x.prio, slice := x.slice, latlim := x.latlim, aspace := x.aspace, cmd := x.cmd
    task := some (taskId k x.reuse), cancel := s.scopeCancelled x.sid }

/-- Dispatch an item onto a tile (R40, R297, R301). -/
def dispatch (s : State) (cl : Nat) (it : Item) (l : Nat) : State :=
  let s := s.unqueue cl it.isTask it.record
  match s.lowCtx l it.cls with
  | none => s
  | some x =>
    if it.isTask then match tfind s.tasks it.record, s.freeThread with
      | some k, some r =>
        let s : State := { s with tasks := tset s.tasks it.record { k with state := .running } }
        s.seat r (s.bornUnder (s.taskThread r k it.record l)) l x
      | _, _ => s
    else match s.thread? it.record with
      | some th => s.resume it.record th l x
      | none => s

/-- Dispatch an item of an ordered queue: those before it are passed over (R297). -/
def dispatchOver (s : State) (cl : Nat) (q : List Item) (it : Item) (l : Nat) : State :=
  (s.skipped cl (q.takeWhile (· != it))).dispatch cl it l
/-- One cycle of a cluster's dispatcher (R297): the first item in order that fits, unless one drains.  An item
whose turn it is to bind range registers goes first of all, as soon as a context is free (R189, log 54). -/
def dispatchCycle (s : State) (cl : Nat) : State :=
  let q := s.ordered ((s.cluster cl).ready.filter (fun i => !s.heldItem i))
  match (clusterTiles cl).findSome? (fun l => (s.turnItem l).bind (fun i =>
      (s.fitTile cl i).map (fun k => (i, k)))) with
  | some (it, l) => s.dispatchOver cl q it l
  | none => match (match q.find? (fun i => decide (8 ≤ i.skips)) with
      | some it => some it
      | none => q.find? (fun i => (s.fitTile cl i).isSome)) with
    | some it => match s.fitTile cl it with
      | some l => s.dispatchOver cl q it l
      | none => s
    | none => s

/-! ### Pre-emption (R300, R301, R376) -/

/-- Would an item fit the context of a resident thread once it is saved (R297, R300)? -/
def couldUse (s : State) (it : Item) (t : Nat) (th : Thread) : Bool :=
  it.cls == th.cls && !(it.isTask && s.freeThread.isNone) && !s.heldItem it &&
    (match it.place with | some l => l == th.tile | none => true) &&
    (!s.itemRange it || (match (s.tile th.tile).ranges.bound with
      | some b => b == th.tid t
      | none => true))
/-- Does an item wait for the range registers that a thread holds (R189)? -/
def wantsRange (s : State) (it : Item) (t : Nat) (th : Thread) : Bool :=
  s.itemRange it && it.place == some th.tile && !s.heldItem it &&
    (s.tile th.tile).ranges.bound == some (th.tid t)

/-- May a parked thread's wait end, so that it belongs in the ready queue (R301)? -/
def wakeable (s : State) (th : Thread) (w : Wait) : Bool :=
  match w.kind with
  | .recv f => th.msgs.any (fun m => m.matches f) || s.cancelled th || s.expired th w
  | .join sid _ => match s.scope? sid with | some c => c.state == .joined && s.joinHeard th sid | none => true
  | _ => true

/-- The save is complete: the range registers are unbound, so that a thread that waits for them has its turn, the
first in the order of R296 (R189; DESIGN CHOICE, log 54), and the thread is queued or parked (R188, R301).  A matrix
fault that came meanwhile is delivered at this boundary first (R391).  DESIGN CHOICE (log 38): where a join came during
the save, the thread is ready from the tick at which the save ends. -/
def spill (s : State) (t : Nat) (th : Thread) : State :=
  let s := s.dropSteal t th
  let th := match th.wait with
    | some ⟨.steal _, _, _⟩ => { th with wait := none }
    | _ => th
  let r := (s.tile th.tile).ranges
  let bound := r.bound == some (th.tid t)
  let th := { th with
    saving := false, savingFor := none, stalled := false, peer := []
    saved := if bound && r.thief.isNone && decide (r.lo < r.hi) then some (r.lo, r.hi, r.chunk) else th.saved }
  let next := ((s.ordered (s.cluster (tileCluster th.tile)).ready).find? (s.rangeOn th.tile)).map (·.record)
  let s := if bound then s.unbindRanges th.tile else s
  let s := if bound then s.setTile th.tile { s.tile th.tile with rangeTurn := next } else s
  match th.wait with
  | none => s.readyThread t th (some th.tile) s.time
  | some w =>
    if w.abandons && !th.pendMx.isEmpty && th.halted.isNone then
      let s := s.deliverMx t { th with wait := none } (th.pendMx.headD 0) th.pendMx.tail
      match s.thread? t with
      | some th => if th.ending then s else s.readyThread t th (some th.tile) s.time
      | none => s
    else match w.kind with
      | .recv _ | .join _ _ =>
        if s.wakeable th w then s.readyThread t th (some th.tile) s.time
        else s.setTh t { th with loc := .parked }
      | _ => s.readyThread t th (some th.tile) s.time

/-- Go on with a save: it waits for the thread's engine and remote operations (R84). -/
def goOnSaving (s : State) (t : Nat) (th : Thread) : State :=
  if s.engineBusy th.tile (th.tid t) || s.remoteBusy (th.tid t) then
    s.setTh t { th with saving := true, stalled := false }
  else s.spill t th

/-- May a thread be pre-empted now: it is at an instruction boundary of its context, or in a wait, which is
evaluated anew on resumption (R301, R376)? -/
def preemptible (th : Thread) : Bool :=
  th.isResident && !th.saving && !th.ending && !midInstruction th

/-- Does a thread's slice end in its pre-emption (R189, R300)? -/
def sliceTaken (s : State) (t : Nat) (th : Thread) : Bool :=
  (s.cluster (tileCluster th.tile)).ready.any (fun it =>
    (s.couldUse it t th && decide (th.prio ≤ s.effPrio it)) || s.wantsRange it t th)

/-- Is a save that answers an item's latency limit under way? -/
def saveUnderWay (s : State) (it : Item) : Bool :=
  s.threads.any (fun p => p.2.saving && p.2.savingFor == some (it.isTask, it.record))
/-- Is a resident thread one whose latency limit an item has reached (R189, R300)?  An item takes one context at a
time; the registers of a range are taken from whoever holds them.  DESIGN CHOICE (log 38): a thread inside an
instruction, whose operation at a peer is out, is none. -/
def limitHit (s : State) (it : Item) (t : Nat) (th : Thread) : Bool :=
  preemptible th && decide (0 < th.latlim ∧ th.latlim * 1000 ≤ s.time - it.readyAt) &&
    ((s.couldUse it t th && decide (th.prio < s.effPrio it) && !s.rangeBlocked it && !s.saveUnderWay it) ||
      s.wantsRange it t th)
/-- The thread of a cluster that an item pre-empts: the lowest PRIO, then the earliest dispatched (R300), and, DESIGN
CHOICE (log 38), of two dispatched in one tick the lower record. -/
def victim (s : State) (cl : Nat) (it : Item) : Option (Nat × Thread) :=
  (s.threads.filter (fun p => tileCluster p.2.tile == cl && s.limitHit it p.1 p.2)).foldl (fun best p => match best with
    | none => some p
    | some b => if p.2.prio < b.2.prio ∨ (p.2.prio = b.2.prio ∧ p.2.dispatched < b.2.dispatched) then some p
                else some b) none
/-- The first waiting item of a cluster that pre-empts a thread, and that thread, marked with the item. -/
def limitVictim (s : State) (cl : Nat) : Option (Nat × Thread) :=
  (s.ordered (s.cluster cl).ready).findSome? (fun it =>
    if s.heldItem it || (s.fitTile cl it).isSome then none
    else (s.victim cl it).map (fun p => (p.1, { p.2 with savingFor := some (it.isTask, it.record) })))

/-! ### The translation service core -/

/-- Does a tile's buffer hold no entry for an address? -/
def tlbMiss (s : State) (l as va : Nat) : Bool :=
  (s.buffered l as va).isNone

end State

/-! ### Events -/

/-- WEIGHT_RETURN: (position in the list of returns) (R29, R33), once the link to its home is open (R13). -/
def execWeightReturn (s : State) : Out :=
  .next <| match s.input with
    | .num i => match s.returns[i]? with
      | some r =>
        if s.linkOpen r.die (scopeDie r.sid) then ({ s with returns := s.returns.eraseIdx i } : State).returnHome r
        else s
      | none => s
    | _ => s

/-- TRACKER_RETURN: (tile, thread identifier) (R32). -/
def execTrackerReturn (s : State) : Out :=
  .next <| match s.input with
    | .num2 l id => match (s.tile l).tracker.find? (fun e => e.tid == id) with
      | some e => s.trackerEntry l e
      | none => s
    | _ => s

/-- CANCEL_MESSAGE_ARRIVE: (root scope).  A cancellation from another device marks the records and threads
here (R34), once a port and the links to them let it through (R13). -/
def execCancelMessageArrive (s : State) : Out :=
  .next <| match s.input with
    | .num sid => match s.scope? sid with
      | some c => if c.cancelled || !s.fabricOpen (scopeDie sid) || s.treeHeld (scopeDie sid) sid then s
                  else s.cancelTree sid
      | none => s
    | _ => s

/-- TASK_DISPATCH: (cluster) (R297). -/
def execTaskDispatch (s : State) : Out :=
  .next <| match s.input with
    | .num cl => s.dispatchCycle cl
    | _ => s

/-- SLICE_EXPIRY: (thread).  A save under way goes on; an expired slice ends in pre-emption or starts again
(R300). -/
def execSliceExpiry (s : State) : Out :=
  .next <| match s.input with
    | .num t => match s.thread? t with
      | some th =>
        if th.saving then s.orHeld (s.goOnSaving t th) t th s
        else if !State.preemptible th || th.slice == 0 || decide (s.time - th.sliceStart < th.slice * 1000) then s
        else if s.sliceTaken t th then s.orHeld (s.goOnSaving t th) t th s
        else s.setTh t { th with sliceStart := s.time }
      | none => s
    | _ => s

/-- LATLIM_EXPIRY: (cluster) (R300). -/
def execLatlimExpiry (s : State) : Out :=
  .next <| match s.input with
    | .num cl => match s.limitVictim cl with
      | some (t, th) => s.orHeld (s.goOnSaving t th) t th s
      | none => s
    | _ => s

/-- The tick at which a parked thread became ready: of the join its SCLOSE waits for, or now (R301, R377). -/
def wokenAt (s : State) (w : Wait) : Nat :=
  match w.kind with
  | .join sid _ => match s.scope? sid with | some c => c.joinedAt | none => s.time
  | _ => s.time
/-- PARKED_WAKE: (thread).  Its deadline passed, it was cancelled, or it hears of the join (R13, R301). -/
def execParkedWake (s : State) : Out :=
  .next <| match s.input with
    | .num t => match s.thread? t with
      | some th => match th.wait with
        | some w => if th.loc = .parked ∧ s.wakeable th w then s.readyThread t th (some th.tile) (wokenAt s w) else s
        | none => s
      | none => s
    | _ => s

/-- WATCHDOG: (thread).  Cause 54 at the boundary after the count reached 2^30 (R374).  A scope fault waits for
stalled links (R13). -/
def execWatchdog (s : State) : Out :=
  .next <| match s.input with
    | .num t => match s.thread? t with
      | some th =>
        if decide (2 ^ 30 ≤ th.watch) && State.preemptible th && State.runnable th && th.halted.isNone then
          s.orHeld (((s.dropSteal t th).trap t { th with wait := none } 54 (wOf (2 ^ 30))).ended t th) t th s
        else s
      | none => s
    | _ => s

/-- TSC_RESTART: (cluster).  Walks start again; a third restart within 1 s maps the cluster out (R412), once links
let it (R13). -/
def execTscRestart (s : State) : Out :=
  .next <| match s.input with
    | .num cl =>
      let c := s.cluster cl
      if (clusterTiles cl).any s.mapHeld then s else
      let rs := (c.restarts ++ [s.time]).filter (fun x => decide (s.time - x < 1000000000))
      let s := s.setCluster cl { c with restarts := rs }
      if 3 ≤ rs.length then (clusterTiles cl).foldl State.mapOut s else s
    | _ => s

/-- TRANSLATION_WALK: (tile, address space, address, store?).  The walk's leaf goes into the tile's buffer;
a store's first walk sets D (R56, R57).  A walk that finds no leaf the access may use leaves no entry
(R384). -/
def execTranslationWalk (s : State) : Out :=
  .next <| match s.input with
    | .walk l as va store =>
      if !translated va.toNat || !s.tlbMiss l as va.toNat then s
      else match s.walk as va.toNat with
        | some f =>
          if !f.bit (if store then 3 else 2) && !(!store && f.bit 4) then s
          else if s.walkHeld l as va.toNat || (store && s.dirtyHeld l as va.toNat f) then s
          else if store && s.logBlocks as va.toNat f then s
          else s.touch l as va.toNat store
        | none => s
    | _ => s

end Sys2Proof.Machine
end

