-- ==== Sys2Proof/Machine/KilnOps.lean ====
section
/-! DEFINITION. The Kiln: taking commands (R294, R328 to R330, R403, R404), launches (R290 to R293),
completions (R329, R331), kills (R378, R379), and the other host commands (R303 to R305, R313, R315, R332,
R337, R342, R385). -/

namespace Sys2Proof.Machine

/-! ### Queues and entries -/

/-- Entries of a queue's rings. -/
def Queue.entries (x : Queue) : Nat := 2 ^ x.log2n
/-- Location of a ring: device memory, or host memory under LOC (R328). -/
def Queue.ring (x : Queue) (base : Word) : Nat := (if x.loc then locHost else 0) + base.toNat
/-- Location of the next command entry. -/
def Queue.entryAt (x : Queue) : Nat := x.ring x.qbase + 64 * (x.ridx.toNat % x.entries)
/-- Location of the next completion entry. -/
def Queue.doneAt (x : Queue) : Nat := x.ring x.cbase + 16 * (x.cwidx.toNat % x.entries)

namespace State

/-- n words at a location. -/
def wordsAt (s : State) (a n : Nat) : List Word := (List.range n).map (fun k => wOf (s.numAt (a + 8 * k) 8))
/-- May device memory at a physical address be read by the Kiln (R58, R388)? -/
def readable (s : State) (a n : Nat) : Bool := inMemory a n && (s.poisonIn a n).isNone
/-- The entry at a queue's head; none where it returns poison or no data (R404): an address outside device
memory, or, while the Kiln still has to read it, a host that answers without data, which the input says. -/
def entry? (s : State) (x : Queue) : Option (List Word) :=
  let a := x.entryAt
  if (if x.loc then x.head.isNone && s.input == .flag true else !inMemory a 64) || (s.poisonIn a 64).isSome then none
  else some (s.wordsAt a 8)

/-- May function f name an address space (R330)? -/
def granted (s : State) (f as : Nat) : Bool :=
  f == 0 || (match tfind s.aspaces as with | some a => a.grant == some f | none => false)

end State

/-- Field n of a command's words. -/
def wordN (w : List Word) (n : Nat) : Word := w.getD n 0
/-- Bits that an opcode's words 1 to 6 may set (R330). -/
def opMasks (op : Nat) : Option (List Nat) :=
  let full := 2 ^ 64 - 1
  match op with
  | 0x01 => some [full]
  | 0x02 => some [2 ^ 48 - 1]
  | 0x03 => some [2 ^ 32 - 1]
  | 0x04 => some [2 ^ 8 - 1, full, full, 2 ^ 16 - 1, full]
  | 0x05 => some [2 ^ 8 - 1]
  | 0x06 => some [3, 2 ^ 48 - 1, 2 ^ 17 - 1, 2 ^ 56 - 1, (2 ^ 16 - 1) * 2 ^ 48 + (2 ^ 17 - 1), full]
  | 0x07 => some [2 ^ 32 - 1]
  | 0x08 => some [2 ^ 16 - 1, full]
  | 0x09 => some [2 ^ 16 - 1, full, full]
  | 0x0A => some [31, 2 ^ 17 - 1, full, full, 2 ^ 32 - 1]
  | 0x0B => some [3, full]
  | 0x0C => some [2 ^ 16 - 1, full]
  | _ => none
/-- Bits that word 0 may set (R330). -/
def word0Mask : Word := wOf (0xFFFF * 2 ^ 32 + 0xFF * 2 ^ 16 + 0x3FF)
/-- Is a reserved bit of an entry set? -/
def entryReserved (w : List Word) (ms : List Nat) : Bool :=
  wordN w 0 &&& ~~~word0Mask != 0 ||
    (List.range 6).any (fun k => wordN w (k + 1) &&& ~~~(wOf (ms.getD k 0)) != 0)
/-- Do the operands of an entry lie within their limits (R304, R330, R403)? -/
def operandsOk (op : Nat) (w : List Word) : Bool :=
  let n (k : Nat) : Nat := (wordN w k).toNat
  match op with
  | 0x04 => decide (2 ≤ n 3 ∧ n 3 ≤ 2 ^ 28 ∧ n 5 % 65536 = 0) && translated (n 5)
  | 0x08 => decide (n 2 % 65536 = 0) && inMemory (n 2) 65536
  | 0x0A =>
    let src := fld (wordN w 2) 7 0; let i := fld (wordN w 2) 15 8
    decide (src = 0 ∨ ((src = 1 ∨ src = 2 ∨ src = 3) ∧ i < 4) ∨ (src = 4 ∧ i < 64))
  | 0x0B => n 2 == 1800 || n 2 == 1500 || n 2 == 1200 || n 2 == 900
  | 0x0C => inMemory (n 2) 96
  | _ => true
/-- The address space an entry names (R330). -/
def namedAspace (op : Nat) (w : List Word) : Option Nat :=
  match op with
  | 0x04 => some (wordN w 4).toNat
  | 0x06 => some (fld (wordN w 5) 63 48)
  | 0x08 | 0x09 => some (wordN w 1).toNat
  | _ => none

/-- Why a command is refused when it is taken, 0 for not at all (R330, R341, R403, log 30). -/
def State.entryStatus (s : State) (f : Nat) (w : List Word) : Nat :=
  let op := fld (wordN w 0) 7 0
  match opMasks op with
  | none => 1
  | some ms =>
    if entryReserved w ms || !operandsOk op w then 2
    else if f != 0 && (op == 0x0A || op == 0x0B ||
        (match namedAspace op w with | some a => !s.granted f a | none => false)) then 3
    else if s.life == .returned && (op == 0x01 || op == 0x04 || op == 0x06) then 4
    else 0

/-! ### Launch checks (R290, R291) -/

/-- Check 1: the layout of a launch record (R290), for an image with an argument block or without. -/
def recordOk (r : List Word) (args : Bool) : Bool :=
  let w (n : Nat) : Word := wordN r n
  fld (w 0) 63 56 == 0 && fld (w 0) 7 0 == 0 && fld (w 1) 63 56 == 0 && (!args || fld (w 1) 2 0 == 0) &&
  fld (w 2) 63 48 == 0 && fld (w 2) 31 11 == 0 && decide (1 ≤ fld (w 2) 10 0 ∧ fld (w 2) 10 0 ≤ 1024) &&
  fld (w 3) 63 32 == 0 && fld (w 3) 29 23 == 0 && fld (w 3) 11 0 == 0 &&
  (match plMode (w 3) with
    | 1 => true
    | 2 => fld (w 3) 15 12 == 0
    | 3 => fld (w 3) 21 12 == 0
    | _ => false) &&
  fld (w 4) 1 0 == 0 && fld (w 5) 1 0 == 0 && fld (w 7) 63 32 == 0 && fld (w 7) 31 16 != 0 &&
  fld (w 7) 15 0 != 0

/-- Check 2 but for ENC: the limits of an image header (R118, R120) that the check names.  DESIGN CHOICE
(log 42): it names no ARGSIZE, so one above the 65,536 of R118 fails no check. -/
def headerOk (h0 h1 : Word) : Bool :=
  fld h0 63 32 == 0x46494C53 && decide (1 ≤ fld h0 31 24 ∧ fld h0 31 24 ≤ 3) &&
  decide (fld h0 23 16 ≤ 16) && decide (fld h0 15 12 ≤ 4 ∧ fld h0 11 8 ≤ 4) &&
  fld h0 15 8 != 0 && decide (fld h1 31 0 ≤ 0x60000) && fld h1 5 0 == 0

/-- Check 3: a buffer record under R62, ending at or below LOCALMEM. -/
def bufferOk (localmem : Nat) (r : Word) : Bool :=
  let count := fld r 40 32; let slotu := fld r 31 21
  fld r 63 45 == 0 && fld r 20 19 == 0 && fld r 5 0 == 0 && decide (count ≤ 256) &&
    (count == 0 || decide (1 ≤ slotu ∧ slotu ≤ 1024)) &&
    decide (fld r 18 0 + count * slotu * 64 ≤ localmem)
/-- A buffer record's number and its configuration word (R120). -/
def bufferRec (r : Word) : Nat × Nat := (fld r 44 41, (r &&& ~~~(wOf (15 * 2 ^ 41))).toNat)
/-- Does no number stand twice in a list? -/
def noRepeats : List Nat → Bool
  | [] => true
  | a :: as => !as.contains a && noRepeats as

/-- Check 4: a section under R115, R116 and R120.  DESIGN CHOICE (log 42): word 2 [63:32] not zero, or an
OFFSET that is no multiple of 256, fails it, though R291 names R115 and R116 alone; so do contents that run past the
end of the translated window, though R115 limits the address alone. -/
def sectionOk (w : List Word) : Bool :=
  let va := (wordN w 0).toNat
  let len := fld (wordN w 2) 31 0
  let perm := (wordN w 3).toNat
  fld (wordN w 2) 63 32 == 0 && va % 65536 == 0 && fld (wordN w 1) 7 0 == 0 && translated va &&
    (len == 0 || translated (va + len - 1)) && (perm == 0x14 || perm == 0x4 || perm == 0xC)
def secOf (w : List Word) : Sec :=
  ⟨(wordN w 0).toNat, (wordN w 1).toNat, fld (wordN w 2) 31 0, (wordN w 3).toNat⟩
/-- Pages of a section's span. -/
def Sec.pages (x : Sec) : Nat := (x.filesz + 65535) / 65536
/-- Do no two sections overlap, and does each kind occur at most once?  DESIGN CHOICE (log 42): a section of
FILESZ 0 overlaps another where it stands strictly inside its span. -/
def sectionsApart : List Sec → Bool
  | [] => true
  | x :: xs => xs.all (fun y => decide (x.va + 65536 * x.pages ≤ y.va ∨ y.va + 65536 * y.pages ≤ x.va) &&
      x.perm != y.perm) && sectionsApart xs

/-- Is a page of a section's span not mapped, or mapped by a 64 KiB ORDINARY leaf (R291)? -/
def State.pageUsable (s : State) (as va : Nat) : Bool :=
  match s.walk as va with
  | none => true
  | some f => f.size == 65536 && f.cls == 0

/-- Can tiles in service meet a placement (check 6 of R291)? -/
def State.placeable (s : State) (r : LaunchRec) : Bool :=
  let p := wOf r.place
  let l := plTile p
  match plMode p with
  | 1 => decide (l + r.tiles ≤ 1024) && (List.range r.tiles).all (fun i => s.inService (l + i))
  | 2 => decide (r.tiles ≤ ((clusterTiles (tileCluster l)).filter s.inService).length)
  | _ => decide (r.tiles ≤ s.tilesIn)

def verOf (n : Nat) : Version := if n = 1 then .v1 else if n = 2 then .v2 else .v3
/-- The launch that a record and image ask for. -/
def launchRec (r : List Word) (h0 h1 h2 : Word) (bs : List Word) (secs : List Sec) : LaunchRec where
  image := (wordN r 0).toNat
  args := wordN r 1
  aspace := fld (wordN r 2) 47 32
  tiles := fld (wordN r 2) 10 0
  place := (wordN r 3).toNat
  cland := wordN r 4
  utvec := wordN r 5
  seedkey := wordN r 6
  latlim := fld (wordN r 7) 31 16
  slice := fld (wordN r 7) 15 0
  enc := verOf (fld h0 7 0)
  entry := h2
  ctxs := fld h0 15 12
  ctxc := fld h0 11 8
  localmem := fld h1 31 0
  argsize := fld h1 63 32
  cbufs := bs.map bufferRec
  secs := secs

/-- Check 5: ARGSIZE bytes at ARGS are mapped with L and W; the untranslated windows are mapped by no address
space. -/
def State.argsMapped (s : State) (r : LaunchRec) : Bool :=
  let a := r.args.toNat; let e := a + r.argsize
  let ok (bit : Nat) : Bool := (s.walkFails r.aspace bit (r.argsize / 65536 + 2) a e).isNone
  r.argsize == 0 || (translated a && translated (e - 1) && ok 2 && ok 3)

/-- The checks of R291 in their order: STATUS and VALUE of the first that fails, or the launch.  DESIGN CHOICE
(log 42): buffer records may stand in any order of their numbers, and what is poisoned or outside device memory
fails the check it belongs to: the record 1, the header 2, buffer records 3, sections and their contents 4.  An ENTRY
that is no multiple of 4 fails none, and the thread fetches the four bytes there. -/
def State.checkLaunch (s : State) (f : Nat) (a : Word) : Except (Nat × Nat) LaunchRec :=
  let n := a.toNat
  if n % 64 ≠ 0 ∨ !s.readable n 64 then .error (5, 1) else
  let r := s.wordsAt n 8
  let img := (wordN r 0).toNat
  let hdr := s.readable img 64
  let h := s.wordsAt img 3
  if !recordOk r (hdr && fld (wordN h 1) 63 32 != 0) then .error (5, 1)
  else if !s.granted f (fld (wordN r 2) 47 32) then .error (3, 0)
  else if !hdr then .error (5, 2)
  else if fld (wordN h 0) 7 0 < 1 ∨ 3 < fld (wordN h 0) 7 0 then .error (57, 0)
  else if !headerOk (wordN h 0) (wordN h 1) then .error (5, 2) else
  let ncb := fld (wordN h 0) 23 16
  let nsec := fld (wordN h 0) 31 24
  let bs := s.wordsAt (img + 64) ncb
  if !s.readable (img + 64) (8 * ncb) || !bs.all (bufferOk (fld (wordN h 1) 31 0)) ||
      !noRepeats (bs.map (fun b => (bufferRec b).1)) then .error (5, 3) else
  let ws := (List.range nsec).map (fun k => s.wordsAt (img + 64 + 8 * ncb + 32 * k) 4)
  let secs := ws.map secOf
  let l := launchRec r (wordN h 0) (wordN h 1) (wordN h 2) bs secs
  let e := l.entry.toNat
  if !s.readable (img + 64 + 8 * ncb) (32 * nsec) || !ws.all sectionOk || !sectionsApart secs ||
      !secs.all (fun x => x.filesz == 0 || s.readable (img + x.off) x.filesz) ||
      !secs.any (fun x => x.perm == 0x14 && decide (x.va ≤ e ∧ e < x.va + x.filesz)) ||
      !secs.all (fun x => (List.range x.pages).all (fun j => s.pageUsable l.aspace (x.va + 65536 * j))) then
    .error (5, 4)
  else if !s.argsMapped l then .error (5, 5)
  else if !s.placeable l then .error (5, 6)
  else .ok l

/-! ### Choosing tiles (R292) -/

/-- Is a tile fit for a launch? -/
def State.fitLaunch (s : State) (r : LaunchRec) (l : Nat) : Bool :=
  s.inService l && decide (r.ctxs ≤ s.freeCtx l .stage ∧ r.ctxc ≤ s.freeCtx l .compute) &&
    ((r.localmem == 0 && r.cbufs.isEmpty) || (s.tile l).resv.isNone)
/-- The tiles a launch takes now, if every one it needs is fit and thread records are free.  DESIGN CHOICE (log
43): with too few free thread records it waits, as it does for its tiles. -/
def State.tilesFor (s : State) (r : LaunchRec) : Option (List Nat) :=
  let p := wOf r.place
  let l := plTile p
  let ts := match plMode p with
    | 1 => let ls := (List.range r.tiles).map (fun i => l + i)
           if ls.all (s.fitLaunch r) then ls else []
    | 2 => ((clusterTiles (tileCluster l)).filter (s.fitLaunch r)).take r.tiles
    | _ => ((List.range 1024).filter (s.fitLaunch r)).take r.tiles
  if ts.length = r.tiles ∧ s.threads.length + r.tiles * (r.ctxs + r.ctxc) ≤ 0x100000 then some ts else none

/-! ### Placing a launch (R293) -/

namespace State

/-- Step 1 for one page: written in place, or allocated and mapped.  DESIGN CHOICE (log 43): a space without a
root table, or a page that no table can be found for, is answered as want of memory is. -/
def writePage (s : State) (as d va perm : Nat) (bs : List Byte) : Option State :=
  match s.walk as va with
  | some f =>
    let w := (f.word &&& ~~~0x1C#64) ||| wOf perm
    some ((((s.putNum f.entry 8 w.toNat).wipe f.addr 65536).putBytes f.addr bs).dropTlb as va 65536)
  | none => match s.allocFrom d with
    | none => none
    | some (p, s) =>
      (((s.notePage as p).mapPage as d va (p + 3 + perm))).map (fun s => (s.putBytes p bs).dropTlb as va 65536)
/-- Step 1 for the pages of a section. -/
def writeSection (s : State) (as d img : Nat) (x : Sec) : Nat → Option State
  | 0 => some s
  | j + 1 => match s.writeSection as d img x j with
    | none => none
    | some s => s.writePage as d (x.va + 65536 * j) x.perm
        (s.bytesAt (img + x.off + 65536 * j) (min 65536 (x.filesz - 65536 * j)))
/-- Step 1 for every section: none where no die has memory. -/
def writeSections (s : State) (as d img : Nat) : List Sec → Option State
  | [] => some s
  | x :: xs => match s.writeSection as d img x x.pages with
    | none => none
    | some s => s.writeSections as d img xs

/-- A birth from the Kiln's handle (R30): the member's weight, what the Kiln keeps, and the device. -/
def kilnBirth (s : State) (sid w : Nat) : Nat × Nat × State :=
  if w = 1 then
    let s := match s.scope? sid with
      | some c => s.setScope sid { c with o := c.o + 0x1000000 }
      | none => s
    ((w + 0x1000000) / 2, (w + 0x1000000) - (w + 0x1000000) / 2, s)
  else (w / 2, w - w / 2, s)

/-- Step 3 on a tile: the reservation, and the buffers the image defines. -/
def reserve (s : State) (id : Nat) (r : LaunchRec) (l : Nat) : State :=
  let x := s.tile l
  let x := r.cbufs.foldl (fun x b => x.setCb b.1 (cbOfWord (wOf b.2))) x
  s.setTile l (if r.localmem = 0 ∧ r.cbufs.isEmpty then x else { x with resv := some id })

/-- Step 4 for one thread: its birth from the Kiln's handle. -/
def firstThread (id prio sid : Nat) (r : LaunchRec) (p : Nat × State) (at_ : Nat × CoreClass) : Nat × State :=
  let (w, keep, s) := p.2.kilnBirth sid p.1
  match s.freeThread with
  | none => p
  | some k =>
    let th : Thread := { fresh (s.nextReuse k) r.entry r.args sid w at_.2 at_.1 with
      cland := r.cland, utvec := r.utvec, seedkey := r.seedkey, ver := r.enc, prio := prio
      slice := r.slice, latlim := r.latlim, aspace := r.aspace, cmd := id }
    (keep, s.placeOn k (s.bornUnder th) at_.1)
/-- The first threads of a launch in the order of their births: tiles ascending, stage before compute. -/
def firstOrder (r : LaunchRec) (ts : List Nat) : List (Nat × CoreClass) :=
  ts.flatMap (fun l => List.replicate r.ctxs (l, .stage) ++ List.replicate r.ctxc (l, .compute))

/-- Place a launch on its tiles: steps 2 to 5 after its sections are written (R293, R295). -/
def placeLaunch (s : State) (id : Nat) (c : Command) (r : LaunchRec) (ts : List Nat) (rec : Nat) : State :=
  let (sid, s) := s.openScope rec 0 1 0 0 id c.group false
  let s : State := { s with cmds := tset s.cmds id { c with phase := .running, root := sid, launch := some r } }
  let s := ts.foldl (fun s l => s.reserve id r l) s
  let (w, s) := (firstOrder r ts).foldl (firstThread id (s.queue c.queue).prio sid r) (0x10000000000, s)
  (s.closeScope s.kilnDie sid w).journalAdd (.place c.queue id)

/-! ### Taking commands (R294, R329, R403, R404) -/

/-- Does a takeover of the Kiln last (R339, R411)? -/
def takingOver (s : State) : Bool := decide (s.time < s.takeoverUntil)
/-- Does a Kiln serve now (R339, R410, R411, R417)? -/
def kilnServes (s : State) : Bool := s.booted && !s.kilnFailed && !s.takingOver
/-- Does a decision reach the standby, to which it is sent before it is performed, over the link between D0 and
D2 (R13, R339)? -/
def journalOpen (s : State) : Bool := !s.standby || s.linkOpen 0 2
/-- Does a Kiln make decisions that its journal takes down? -/
def decides (s : State) : Bool := s.kilnServes && s.journalOpen
/-- May the Kiln take commands (R407 to R410, R416)? -/
def kilnTakes (s : State) : Bool := s.decides && !s.tripped && !s.devEvents.getLsbD 7
/-- Is a command taken and not yet carried out, other than one that waits for a token? -/
def kilnBusy (s : State) : Bool := s.cmds.any (fun p => p.2.phase == .taken && p.2.op != 3)
/-- Is a queue one the Kiln may take from (R328, R333, R408)? -/
def queueReady (s : State) (q : Nat) (x : Queue) : Bool :=
  x.enable && x.state == .active && x.hold.isNone && x.notify != x.ridx &&
    (s.func (q / 16)).tdisp != .locked && (s.func (q / 16)).tdisp != .error && s.homeOpen s.kilnDie x.entryAt

/-- What stands at a queue's head: an entry that cannot be read, a launch to check, a launch that its
tiles are waited for, a launch whose placement tiles in service no longer meet, a launch that can be
placed, or another command. -/
inductive Head where
  | bad
  | unchecked (w : List Word)
  | waiting
  | unmet (w : List Word)
  | launch (w : List Word) (r : LaunchRec) (ts : List Nat) (rec : Nat)
  | other (w : List Word) (status : Nat)

/-- The addresses whose translations the checks of a launch ask for: the pages of its sections and of its argument
block (R291). -/
def checkedPages (s : State) (r : List Word) : List Nat :=
  let img := (wordN r 0).toNat
  let h := s.wordsAt img 2
  let ncb := fld (wordN h 0) 23 16
  let args := (wordN r 1).toNat
  ((List.range (fld (wordN h 0) 31 24)).flatMap (fun k =>
    let x := secOf (s.wordsAt (img + 64 + 8 * ncb + 32 * k) 4)
    (List.range x.pages).map (fun j => x.va + 65536 * j))) ++
  (List.range ((args % 65536 + fld (wordN h 1) 63 32 + 65535) / 65536)).map (fun j => args + 65536 * j)
/-- Does the Kiln reach a launch record, its image, and the tables that its checks walk (R13)? -/
def recordOpen (s : State) (a : Nat) : Bool :=
  let r := s.wordsAt a 3
  s.homeOpen s.kilnDie a && s.homeOpen s.kilnDie (wordN r 0).toNat &&
    (!s.anyStall || (s.checkedPages r).all (fun va => !s.walkFar s.kilnDie (fld (wordN r 2) 47 32) va))
/-- Does the Kiln reach the dies that a placement touches: those of its tiles, its root scope and its image, and
every die for the translations that its sections change (R13, R57, R293)? -/
def placeReach (s : State) (r : LaunchRec) (ts : List Nat) (rec : Nat) : Bool :=
  ts.all (fun l => s.linkOpen s.kilnDie (tileDie l)) && s.linkOpen s.kilnDie (scopeDie (scopeId rec 0)) &&
    s.homeOpen s.kilnDie r.image && (r.secs.isEmpty || s.allOpen s.kilnDie)
/-- The head of a queue.  A launch behind a stalled link waits (R13), and, DESIGN CHOICE (log 43), one for which
no scope record is free. -/
def headOf (s : State) (q : Nat) (x : Queue) : Head :=
  match s.entry? x with
  | none => .bad
  | some w =>
    let st := s.entryStatus (q / 16) w
    if st ≠ 0 ∨ fld (wordN w 0) 7 0 ≠ 1 then .other w st
    else match x.head with
      | none => if s.recordOpen (wordN w 1).toNat then .unchecked w else .waiting
      | some r =>
        if !s.placeable r then .unmet w
        else match s.tilesFor r with
          | none => .waiting
          | some ts => match s.pickScope (tileDie (ts.headD 0)) with
            | some rec => if s.placeReach r ts rec then .launch w r ts rec else .waiting
            | none => .waiting

/-- Is a head one that the tiles in service no longer meet? -/
def Head.isUnmet : Head → Bool
  | .unmet _ => true
  | _ => false
/-- The queue the Kiln turns to: one whose head failed its placement when a tile was mapped out (R291), else the
highest priority whose head does not wait, in rotation (R294). -/
def kilnChoice (s : State) : Option (Nat × Queue × Head) :=
  let cs := s.queues.filterMap (fun p =>
    if s.queueReady p.1 p.2 then match s.headOf p.1 p.2 with
      | .waiting => none
      | h => some (p.1, p.2, h)
    else none)
  let top := cs.foldl (fun m c => max m c.2.1.prio) 0
  let same := cs.filter (fun c => c.2.1.prio == top)
  match cs.find? (fun c => c.2.2.isUnmet) with
  | some c => some c
  | none => match tfind s.lastTaken top with
    | some l => match same.find? (fun c => decide (l < c.1)) with
      | some c => some c
      | none => same.head?
    | none => same.head?

/-- A queue enters ERROR (R404). -/
def queueError (s : State) (q v : Nat) : State :=
  s.setQueue q { s.queue q with state := .error, errVal := some v, head := none }

/-- A command has been carried out, or was refused: its completion may be written (R329, R403).  A silent
one has none (R407). -/
def finishCmd (s : State) (id st v : Nat) : State :=
  match tfind s.cmds id with
  | none => s
  | some c =>
    if c.silent then { s with cmds := tdel s.cmds id }
    else { s with cmds := tset s.cmds id { c with phase := .finished, status := st, value := v }
                  donePosts := s.donePosts ++ [id] }

/-- Take the command at a queue's head: RIDX advances, and a record of it is kept (R294).  A queue it leaves
empty was non-empty until now (R303). -/
def takeEntry (s : State) (q : Nat) (x : Queue) (w : List Word) : Nat × Command × State :=
  let w0 := wordN w 0
  let c : Command := ⟨q, x.ridx.toNat, fld w0 7 0, fld w0 47 32, fld w0 23 16, w0.getLsbD 9, w0.getLsbD 8,
    w, wordN w 7, .taken, 0, 0, 0, none, false, []⟩
  let id := s.nextCmd
  let s := (s.setQueue q { x with
    ridx := x.ridx + 1, head := none, busySince := if x.ridx + 1 = x.notify then s.time else x.busySince
    hold := if c.op = 3 then some id else none }).journalAdd (.take q x.ridx)
  (id, c, { s with cmds := tset s.cmds id c, nextCmd := id + 1, lastTaken := tset s.lastTaken x.prio q })

/-- Take a command that is refused. -/
def takeRefused (s : State) (q : Nat) (x : Queue) (w : List Word) (st v : Nat) : State :=
  let (id, c, s) := s.takeEntry q x w
  (s.setQueue q { s.queue q with hold := none }).finishCmd id st v
/-- Check a launch at a queue's head (R291): it stays there, checked, or is refused. -/
def checkHead (s : State) (q : Nat) (x : Queue) (w : List Word) : State :=
  match s.checkLaunch (q / 16) (wordN w 1) with
  | .ok r => s.setQueue q { x with head := some r }
  | .error (st, v) => s.takeRefused q x w st v
/-- Take and place a launch (R292, R293); without memory for its sections it is refused and nothing has
changed. -/
def takeLaunch (s : State) (q : Nat) (x : Queue) (w : List Word) (r : LaunchRec) (ts : List Nat) (rec : Nat) :
    State :=
  match s.writeSections r.aspace (tileDie (ts.headD 0)) r.image r.secs with
  | none => s.takeRefused q x w 5 4
  | some s =>
    let (id, c, s) := s.takeEntry q x w
    s.placeLaunch id c r ts rec

/-- A step of the Kiln on the queue it turns to. -/
def kilnStep (s : State) (q : Nat) (x : Queue) : Head → State
  | .bad => s.queueError q x.ridx.toNat
  | .unchecked w => s.checkHead q x w
  | .waiting => s
  | .unmet w => s.takeRefused q x w 5 6
  | .launch w r ts rec => s.takeLaunch q x w r ts rec
  | .other w st => if st = 0 then (s.takeEntry q x w).2.2 else s.takeRefused q x w st 0

/-! ### Completions (R329, R331, R404, R405) -/

/-- Have all taken commands of a queue posted their completions? -/
def drained (s : State) (q : Nat) : Bool := !s.cmds.any (fun p => p.2.queue == q && !p.2.silent)
/-- A queue without ENABLE is DISABLED once it is drained (R405). -/
def settleQueue (s : State) (q : Nat) : State :=
  let x := s.queue q
  if !x.enable && x.state != .disabled && s.drained q && x.errVal.isNone then
    s.setQueue q { x with state := .disabled } else s
/-- Is there room in a queue's completion ring (R329)? -/
def ringRoom (x : Queue) : Bool := decide ((x.cwidx - x.chead).toNat < x.entries)
/-- The bytes of a completion entry (R331). -/
def completionBytes (cookie : Word) (st v : Nat) : List Byte :=
  leBytes 8 cookie.toNat ++ leBytes 8 (v % 2 ^ 32 * 2 ^ 32 + st)
/-- Write a completion entry (R331).  One whose place lies outside device memory is written nowhere. -/
def writeCompletion (s : State) (q : Nat) (cookie : Word) (st v : Nat) : State :=
  let x := s.queue q
  let s := if x.loc || inMemory x.doneAt 16 then s.putBytes x.doneAt (completionBytes cookie st v) else s
  s.setQueue q { x with cwidx := x.cwidx + 1 }
/-- POST and IRQ of a completed command (R331). -/
def announce (s : State) (q : Nat) (c : Command) : State :=
  let f := q / 16
  let s := if c.post then
      let x := s.func f
      let v := (tfind x.tokens c.token).getD 0 + 1
      (s.setFunc f { x with tokens := tset x.tokens c.token v }).journalAdd (.token f c.token v)
    else s
  if c.irq then s.toHost s.kilnDie (.msix f (s.queue q).vector) else s
/-- Has the Kiln heard of what finished a command: a root's join comes from the die of its scope (R13)? -/
def doneHeard (s : State) (c : Command) : Bool := c.root == 0 || s.linkOpen s.kilnDie (scopeDie c.root)
/-- Write the next completion of a queue, if there is one and room for it, over links that do not stall. -/
def postOne (s : State) (q : Nat) : State :=
  let x := s.queue q
  if !ringRoom x || !s.homeOpen s.kilnDie x.doneAt then s
  else match s.donePosts.find? (fun id => match tfind s.cmds id with | some c => c.queue == q | none => false) with
    | some id => match tfind s.cmds id with
      | some c =>
        if !s.doneHeard c then s else
        let s := ((s.writeCompletion q c.cookie c.status c.value).announce q c).journalAdd (.complete q id)
        ({ s with cmds := tdel s.cmds id, donePosts := s.donePosts.filter (· != id) } : State).settleQueue q
      | none => s
    | none => match x.errVal with
      | some v =>
        if x.state == .error && s.drained q then
          let s := (s.writeCompletion q 0 9 v).journalAdd (.failed q)
          (s.setQueue q { s.queue q with errVal := none }).settleQueue q
        else s
      | none => s

/-! ### Kills (R378, R379) -/

/-- Is the root scope of a command still live? -/
def rootLive (s : State) (c : Command) : Bool :=
  c.root != 0 && (match s.scope? c.root with | some k => k.state == .opened || k.state == .closing | none => false)
/-- The hard kill of a command: its root is faulted, and every thread of it ends (R379). -/
def hardKill (s : State) (id root cause : Nat) : State :=
  ((s.threads.filter (fun p => p.2.cmd == id)).map (·.1)).foldl (fun s t => s.faultThread t cause)
    ((s.markFault root cause).cancelTree root)
/-- Does the kill of a command, or its hard kill, wait for a link (R13, R34, R364, R379)? -/
def killHeld (s : State) (id root : Nat) : Bool :=
  s.anyStall && (s.treeHeld s.kilnDie root || s.threads.any (fun p => p.2.cmd == id && s.handlesFar p.2))
/-- A soft kill, then a hard one (R407). -/
def killTwice (s : State) (id root cause : Nat) : State := (s.cancelTree root).hardKill id root cause

/-! ### Clocks (R13, R342) -/

/-- The frequency a die runs at, or steps to at the next cycle boundary. -/
def clockOf (s : State) (d : Nat) : Nat := (s.die d).nextMhz.getD (s.die d).mhz
/-- A die's clock steps at its next cycle boundary, and its links stall from there for 2,000 ticks.  A step back
to the frequency it still runs at is none. -/
def stepClock (s : State) (d mhz : Nat) : State :=
  let x := s.die d
  if s.clockOf d = mhz then s
  else s.setDie d (if x.mhz = mhz then { x with nextMhz := none }
    else if x.phase = 0 then relock x mhz s.time else { x with nextMhz := some mhz })

/-- Has a WAIT_TOKEN's counter reached its value (R332)? -/
def tokenMet (s : State) (c : Command) : Bool :=
  let x := (tfind (s.func (c.queue / 16)).tokens c.token).getD 0
  !(x - (wordN c.words 1).setWidth 32).msb

/-- The die of a location of device memory. -/
def memDie (a : Nat) : Nat := a / dieRange
/-- The dies a command reaches from the Kiln's (R13): of the table of a heap, of a bitmap, of a die's clock, of the
root scope that KILL names, and every die for a change of its translation buffers or a stream's area. -/
def cmdDies (s : State) (c : Command) : List Nat :=
  let w := wordN c.words 1
  match c.op with
  | 0x02 => ((s.cmds.find? (fun p => p.2.queue == fld w 47 32 && p.2.index == fld w 31 0 && s.rootLive p.2)).map
      (fun p => scopeDie p.2.root)).toList
  | 0x0C => [memDie (wordN c.words 2).toNat]
  | 0x05 => ((tfind s.heaps w.toNat).map (fun h => memDie h.table)).toList
  | 0x04 | 0x06 | 0x07 | 0x08 | 0x09 => [0, 1, 2, 3]
  | 0x0B => [w.toNat]
  | _ => []
/-- May the Kiln carry out a command now: it serves, and no link to a die the command reaches stalls, nor, for a
bitmap whose group may be cancelled already, that to the fabric (R337)? -/
def cmdOpen (s : State) (c : Command) : Bool :=
  s.kilnServes && (s.cmdDies c).all (s.linkOpen s.kilnDie) && (c.op != 0x0C || s.fabricOpen s.kilnDie)
/-- Run a command of one opcode that was taken (R330). -/
def withCmd (s : State) (op : Nat) (k : Nat → Command → State) : Out :=
  .next <| match s.input with
    | .num id => match tfind s.cmds id with
      | some c => if c.op = op ∧ c.phase = .taken ∧ s.cmdOpen c then k id c else s
      | none => s
    | _ => s

/-! ### NOTIFY (R329, R339, R404, R407) -/

/-- A counter that saturates (R406). -/
def satUp (n : Nat) : Nat := min (n + 1) (2 ^ 32 - 1)
/-- A NOTIFY write that is discarded is counted (R404, R407). -/
def dropNotify (s : State) (f : Nat) : State := s.setFunc f { s.func f with dropNotify := satUp (s.func f).dropNotify }
/-- Is an FLR of a function under way: roots it killed have not joined, and its 100 ms are not over (R407)? -/
def inFlr (s : State) (f : Nat) : Bool :=
  (s.func f).flr && s.silentLive f && decide (s.time < (s.func f).flrAt + 100000000)
/-- A NOTIFY write takes effect. -/
def notify (s : State) (q v : Nat) : State :=
  let f := q / 16
  if s.inFlr f || s.inFlr 0 then s.dropNotify f
  else
    let x := s.queue q
    let w := BitVec.ofNat 32 v
    if x.state = .error then s.dropNotify f
    else
      let x := { x with notify := w, busySince := if x.notify ≠ x.ridx ∧ w = x.ridx then s.time else x.busySince }
      let s := s.setQueue q x
      if x.state = .active ∧ x.entries < (w - x.ridx).toNat then s.queueError q w.toNat else s
/-- NOTIFY writes accepted during a takeover are applied after it, in their order (R339). -/
def afterTakeover (s : State) : State :=
  if s.takingOver then s
  else s.lateNotify.foldl (fun s p => s.notify p.1 p.2) { s with lateNotify := [] }

end State

/-! ### Events: taking and completing -/

/-- KILN_TAKE: (is the read of an entry in host memory without data?) (R294, R404). -/
def execKilnTake (s : State) : Out :=
  let s := s.afterTakeover
  .next <| if !s.kilnTakes || s.kilnBusy then s
    else match s.kilnChoice with
      | some (q, x, h) => s.kilnStep q x h
      | none => s

/-- LAUNCH: (queue).  The launch at the head of the queue that the Kiln turns to is checked (R291, R294). -/
def execLaunch (s : State) : Out :=
  let s := s.afterTakeover
  .next <| match s.input with
    | .num q =>
      if !s.kilnTakes || s.kilnBusy then s
      else match s.kilnChoice with
        | some (k, x, .unchecked w) => if k = q then s.checkHead q x w else s
        | _ => s
    | _ => s

/-- LAUNCH_PLACE: the Kiln's choice is a launch whose tiles are fit (R292, R293). -/
def execLaunchPlace (s : State) : Out :=
  let s := s.afterTakeover
  .next <| if !s.kilnTakes || s.kilnBusy then s
    else match s.kilnChoice with
      | some (q, x, .launch w r ts rec) => s.takeLaunch q x w r ts rec
      | _ => s

/-- COMPLETION_POST: (queue) (R331). -/
def execCompletionPost (s : State) : Out :=
  .next <| match s.input with
    | .num q => if s.decides then s.postOne q else s
    | _ => s

/-! ### Events: commands -/

/-- KILL: (command) (R378, R379).  It waits for the links to what it cancels and ends (R13). -/
def execKill (s : State) : Out :=
  s.withCmd 0x02 fun id c =>
    let w := wordN c.words 1
    match s.cmds.find? (fun p => p.2.queue == fld w 47 32 && p.2.index == fld w 31 0 && s.rootLive p.2) with
    | none => s.finishCmd id 8 0
    | some (k, x) => match s.scope? x.root with
      | none => s.finishCmd id 8 0
      | some r =>
        if s.killHeld k x.root then s
        else if r.cancelled then (s.finishCmd id 0 0).hardKill k x.root 54
        else (s.cancelTree x.root).finishCmd id 0 0

/-- A WAIT_TOKEN lets its queue go on, if it is the one that holds it. -/
def State.release (s : State) (q id : Nat) : State :=
  let x := s.queue q
  s.setQueue q { x with hold := if x.hold = some id then none else x.hold }
/-- WAIT_TOKEN: (command) (R332). -/
def execWaitToken (s : State) : Out :=
  s.withCmd 0x03 fun id c =>
    if s.tokenMet c then (s.release c.queue id).finishCmd id 0 0 else s

/-- CREATE_HEAP: (command) (R304).  A table whose last 64 KiB page would reach out of the die's memory is
refused, since the Kiln never maps a hole (R58, log 48). -/
def execCreateHeap (s : State) : Out :=
  s.withCmd 0x04 fun id c =>
    let n (k : Nat) : Nat := (wordN c.words k).toNat
    let bytes := 32 * n 3
    let pages := (bytes + 65535) / 65536
    if (tfind s.heaps (n 1)).isSome ∨ n 2 % 65536 ≠ 0 ∨ !inMemory (n 2) (65536 * pages) then s.finishCmd id 6 0
    else
      let t := (List.range pages).foldl (fun (s : Option State) j => match s with
        | some s => s.mapPage (n 4) (n 2 / dieRange) (n 5 + 65536 * j) (n 2 + 65536 * j + 7)
        | none => none) (some (s.wipe (n 2) bytes))
      match t with
      | none => s.finishCmd id 6 0
      | some t =>
        let t := t.dropTlb (n 4) (n 5) bytes
        ({ t with heaps := tset t.heaps (n 1) ⟨n 2, n 3, n 5⟩ } : State).finishCmd id 0 0

/-- May a heap be destroyed: every descriptor FREE or poisoned, and no relocation (R305, R394)? -/
def State.heapIdle (s : State) (hn : Nat) (h : Heap) : Bool :=
  (List.range h.ndesc).all (fun i => s.descBad (h.desc i) || (s.readDesc (h.desc i)).state == 0) &&
    !s.dies.any (fun p => p.2.weevil.any (fun r => r.heap == hn))

/-- DESTROY_HEAP: (command) (R305). -/
def execDestroyHeap (s : State) : Out :=
  s.withCmd 0x05 fun id c =>
    let hn := (wordN c.words 1).toNat
    match tfind s.heaps hn with
    | none => s.finishCmd id 6 0
    | some h =>
      if s.heapIdle hn h then ({ s with heaps := tdel s.heaps hn } : State).finishCmd id 0 0
      else s.finishCmd id 6 0

/-- Does a table, or a table below it, hold a valid leaf (R55, R56)? -/
def State.anyLeaf (s : State) : List (Nat × Nat × Nat) → Nat → Bool
  | [], _ => false
  | (hi, lo, size) :: rest, tbl => (List.range (2 ^ (hi + 1 - lo))).any (fun i =>
      let e := tbl + 8 * i
      let w := wOf (s.numAt e 8)
      w.getLsbD 0 && (if w.getLsbD 1 then size != 0 && (Leaf.mk w e 0 size).ok
        else s.anyLeaf rest (fld w 50 16 * 65536)))
/-- Are the 4 GiB at an address of a space unmapped, so that a stream's window may stand there (R313)? -/
def State.kvFree (s : State) (as kv : Nat) : Bool :=
  match s.root as with
  | none => false
  | some r =>
    let w := wOf (s.numAt (r + 8 * fld (wOf kv) 55 39) 8)
    if !w.getLsbD 0 then true
    else !w.getLsbD 1 && (List.range 4).all (fun i =>
      let e := fld w 50 16 * 65536 + 8 * (fld (wOf kv) 38 30 + i)
      let v := wOf (s.numAt e 8)
      !v.getLsbD 0 || (if v.getLsbD 1 then !(Leaf.mk v e 0 0x40000000).ok
        else !s.anyLeaf (levels.drop 2) (fld v 50 16 * 65536)))

/-- Take contiguous memory of a die for the Kiln, in whole pages (log 11). -/
def State.allocRun (s : State) (d n : Nat) : Option (Nat × State) :=
  let x := s.die d
  if n = 0 then some (0, s)
  else if d * dieRange + 65536 * n ≤ x.allocTop then
    some (x.allocTop - 65536 * n,
      (s.setDie d { x with allocTop := x.allocTop - 65536 * n }).wipe (x.allocTop - 65536 * n) (65536 * n))
  else none
/-- Pages of the 64 snapshot slots of RSIZE bytes. -/
def slotPages (rsize : Nat) : Nat := (64 * rsize + 65535) / 65536

/-- The lowest free stream record of a die, and its next reuse count (R266, log 10). -/
def State.freeStream (s : State) (d : Nat) : Option (Nat × Nat) :=
  let r := lowestUnlisted (fun st : Stream => st.live) s.streams (16384 * d)
  if r < 16384 * (d + 1) then
    some (r, match tfind s.streams r with
      | some st => if 65535 ≤ st.reuse then 1 else st.reuse + 1
      | none => 1)
  else none

/-- A new stream as a CREATE_STREAM command gives it (R267, R313), with its slots at a location. -/
def streamFor (c : Command) (reuse slots : Nat) (pool : List Nat) : Stream :=
  let n (k : Nat) : Nat := (wordN c.words k).toNat
  ⟨reuse, true, 0, 0, 0, 0, 0, n 2, [], pool, n 6, n 4, fld (wordN c.words 5) 16 0, [], slots, false, 0,
    fld (wordN c.words 5) 63 48⟩
/-- A part of a new stream's area that a peer holds and that has not come yet, or that the peer did not send. -/
def missingPart (got : List PeerVal) (rs : List (Nat × Option Nat × Nat × Nat)) :
    Option (Bool × Nat × Option Nat × Nat × Nat) :=
  rs.findSome? (fun r => match State.gotRun got r.1 r.2.2.2 with
    | none => some (false, r)
    | some v => if v.ans = .failed then some (true, r) else none)
/-- Read a part of the area from its peer for a command, one at a time and over links that do not stall. -/
def State.readForCmd (s : State) (id l : Nat) (r : Nat × Option Nat × Nat × Nat) : State :=
  if s.remotes.any (fun k => k.kind == .cmdRead id) || !s.fabricOpen (tileDie l) then s
  else ({ s with
    remotes := s.remotes ++ [⟨s.nextOp, l, 0x100000, 0, r.2.1.getD 0, r.2.2.1, r.1, r.2.2.2, .cmdRead id, 0, 0, s.time, false⟩]
    nextOp := s.nextOp + 1 } : State).send (.remote s.nextOp (r.2.1.getD 0) r.2.2.1 r.2.2.2 (.cmdRead id))

/-- CREATE_STREAM: (command) (R313).  Parts of the area that a peer holds are read first; DESIGN CHOICE (log 53): one
that the peer does not send fails the command. -/
def execCreateStream (s : State) : Out :=
  s.withCmd 0x06 fun id c =>
    let n (k : Nat) : Nat := (wordN c.words k).toNat
    let d := n 1; let st := streamFor c 0 0 []; let l := State.dieTile d
    if st.kvbase % 2 ^ 32 ≠ 0 ∨ !translated st.kvbase ∨ !s.kvFree st.aspace st.kvbase ∨ st.rsize % 64 ≠ 0 ∨
        65536 < st.rsize ∨ (s.die d).kvPool.length < n 3 then s.finishCmd id 7 0
    else match s.freeStream d, s.allocRun d (slotPages st.rsize) with
      | some (rec, reuse), some (slots, s1) =>
        let sid := rec * 65536 + reuse
        match missingPart c.got (State.areaPeers st (s.areaSegs l sid st)) with
        | some (true, _) => s.finishCmd id 7 0
        | some (false, r) => s.readForCmd id l r
        | none =>
          let x := s1.die d
          let s := s1.setDie d { x with kvPool := x.kvPool.drop (n 3) }
          let (st, s) := s.snapshot l sid (streamFor c reuse slots (x.kvPool.take (n 3))) c.got 0
          (s.setStream sid st).finishCmd id 0 sid
      | _, _ => s.finishCmd id 7 0

/-- DESTROY_STREAM: (command) (R314, R315).  Pages are wiped before they return to a pool. -/
def execDestroyStream (s : State) : Out :=
  s.withCmd 0x07 fun id c =>
    let sid := (wordN c.words 1).toNat
    match s.stream? sid with
    | none => s.finishCmd id 7 0
    | some st =>
      if s.threads.any (fun p => p.2.stream.toNat == sid) then s.finishCmd id 7 0
      else
        let (st, s) := s.truncate st 0
        let d := State.streamDie sid
        let s := st.pool.foldl (fun s p => s.wipe p 65536) s
        let s := (List.range (slotPages st.rsize)).foldl (fun s j =>
          (s.wipe (st.slots + 65536 * j) 65536).freePage (st.slots + 65536 * j)) s
        let x := s.die d
        let s := s.setDie d { x with kvPool := x.kvPool ++ st.pool }
        (s.setStream sid { st with live := false, pool := [] }).finishCmd id 0 0

/-! ### Address spaces (R330, R385) -/

/-- The address space of the command a scope belongs to. -/
def State.aspaceOf (s : State) (sid : Nat) : Option Nat :=
  match s.scope? sid with
  | some c => match tfind s.cmds c.cmd with
    | some k => k.launch.map (·.aspace)
    | none => none
  | none => none
/-- The copies of an address space in flight that used a translation which reaches into [a, a + n) (R385). -/
def State.opsUsing (s : State) (as a n : Nat) : List Nat :=
  s.tiles.flatMap (fun p => (p.2.copies.filter (fun c => s.aspaceOf c.sid == some as &&
    (c.srcSegs ++ c.dstSegs).any (fun g => translated g.va && overlap g.page a n))).map (·.id))
/-- Has every operation of a list finished? -/
def State.opsDone (s : State) (ops : List Nat) : Bool :=
  !s.tiles.any (fun p => p.2.copies.any (fun c => ops.contains c.id))
/-- Run a command on an address space: `start` when it was taken, then the wait for the operations that
used what it removes, and `fin` (R385). -/
def State.aspaceCmd (s : State) (op : Nat) (start : Nat → Command → List Nat × State)
    (fin : Command → State → State) : Out :=
  .next <| match s.input with
    | .num id => match tfind s.cmds id with
      | some c =>
        if c.op ≠ op ∨ !s.cmdOpen c then s
        else match c.phase with
          | .taken =>
            let (ops, s) := start id c
            if s.opsDone ops then (fin c s).finishCmd id 0 0
            else { s with cmds := tset s.cmds id { c with phase := .draining ops } }
          | .draining ops => if s.opsDone ops then (fin c s).finishCmd id 0 0 else s
          | _ => s
      | none => s
    | _ => s

/-- ASPACE_SET: (command).  Removing a space gives back the pages the Kiln allocated for it (R293, R330). -/
def execAspaceSet (s : State) : Out :=
  s.aspaceCmd 0x08
    (fun _ c =>
      let as := (wordN c.words 1).toNat; let root := (wordN c.words 2).toNat
      let a := (tfind s.aspaces as).getD ⟨0, none, []⟩
      let ops := s.opsUsing as 0 (2 ^ 64)
      (ops, { s with aspaces := tset s.aspaces as { a with root := root } }.dropTlb as 0 (2 ^ 64)))
    (fun c s =>
      let as := (wordN c.words 1).toNat
      match tfind s.aspaces as with
      | some a => if a.root = 0 then
          a.pages.foldl (fun s p => s.freePage p.2) { s with aspaces := tset s.aspaces as { a with pages := [] } }
        else s
      | none => s)

/-- ASPACE_INVAL: (command) (R57, R385). -/
def execAspaceInval (s : State) : Out :=
  s.aspaceCmd 0x09
    (fun _ c =>
      let as := (wordN c.words 1).toNat; let a := (wordN c.words 2).toNat
      let n := if wordN c.words 3 = 0 then 2 ^ 64 else (wordN c.words 3).toNat
      let a := if wordN c.words 3 = 0 then 0 else a
      (s.opsUsing as a n, s.dropTlb as a n))
    (fun _ s => s)

/-! ### Thresholds (R303) -/

/-- THRESHOLD: (command).  The entry is registered and armed. -/
def execThreshold (s : State) : Out :=
  s.withCmd 0x0A fun id c =>
    let w := wordN c.words 2
    let e : Threshold := ⟨fld w 7 0, fld w 15 8, w.getLsbD 16, (wordN c.words 3).toNat,
      (wordN c.words 4).toNat, (wordN c.words 5).toNat, true, 0, 0, none⟩
    ({ s with thresholds := tset s.thresholds (wordN c.words 1).toNat e } : State).finishCmd id 0 0

/-- The sample of a source; `hbm` is what the die's HBM controllers count (R303). -/
def State.sampleOf (s : State) (e : Threshold) (hbm : Nat) : Nat :=
  if e.source = 0 then
    let x := s.queue e.index
    if x.notify != x.ridx then 0 else s.time - x.busySince
  else if e.source = 1 then (s.die e.index).temp
  else if e.source = 2 then (s.die e.index).power
  else if e.source = 3 then hbm
  else (s.cluster e.index).ready.length
/-- Does a sample cross the threshold in the entry's direction (log 29)? -/
def Threshold.crosses (e : Threshold) (v : Nat) : Bool :=
  match e.prev with
  | none => false
  | some p => if e.fall then decide (e.level < p ∧ v ≤ e.level) else decide (p < e.level ∧ e.level ≤ v)
/-- Is a sample beyond the threshold by the hysteresis in the other direction? -/
def Threshold.rearms (e : Threshold) (v : Nat) : Bool :=
  if e.fall then decide (e.level < v ∧ e.level + e.hyst ≤ v) else decide (v < e.level ∧ v + e.hyst ≤ e.level)

/-- The dies a sample of an entry reaches: where its source counts, and its task's cluster (R13). -/
def State.thresholdDies (s : State) (e : Threshold) : List Nat :=
  (if e.source = 0 then [] else if e.source = 4 then [e.index / 16] else [e.index]) ++
    ((s.task? e.task).map (fun x => x.cluster / 16)).toList
/-- A signal that an entry owes: sent, dropped and counted where TSKSIG would fault, or owed on while it
waits for room in the cluster's table (R41, R303). -/
def State.payOwed (s : State) (e : Threshold) : Threshold × State :=
  if e.owed = 0 then (e, s)
  else match s.signal e.task with
    | .ok (some s) => ({ e with owed := e.owed - 1 }, s)
    | .ok none => (e, s)
    | .error _ => ({ e with owed := e.owed - 1, drops := e.drops + 1 }, s)
/-- THRESHOLD_SAMPLE: (entry, bytes its die's HBM moved in the last 1 µs) (R303).  A sample behind a stalled link
is taken after it (R13). -/
def execThresholdSample (s : State) : Out :=
  .next <| match s.input with
    | .num2 k hbm =>
      match tfind s.thresholds k with
      | none => s
      | some e =>
        if !s.kilnTakes || !(s.thresholdDies e).all (s.linkOpen s.kilnDie) then s else
        let (e, s) := s.payOwed e
        let v := s.sampleOf e hbm
        let put (s : State) (e : Threshold) : State := { s with thresholds := tset s.thresholds k e }
        if !e.armed then put s { e with armed := e.rearms v, prev := some v }
        else if e.crosses v then
          let (e, s) := (s.journalAdd (.fire k)).payOwed { e with armed := false, prev := some v, owed := e.owed + 1 }
          put s e
        else put s { e with prev := some v }
    | _ => s

/-! ### Clocks and groups -/

/-- SET_CLOCK's step (R342).  The host's step leaves no firmware step to be taken back; after a trip no die steps
until a reset (R416). -/
def State.hostStep (s : State) (d mhz : Nat) : State :=
  if s.clockOf d = mhz ∨ s.tripped then s else
  let s := s.stepClock d mhz
  s.setDie d { s.die d with stepped := 0 }
/-- A SET_CLOCK is over once its step has been made, or another has taken its place (R330). -/
def State.clockDone (s : State) (id : Nat) (c : Command) (d mhz : Nat) : State :=
  if (s.die d).nextMhz = some mhz then { s with cmds := tset s.cmds id { c with phase := .draining [] } }
  else s.finishCmd id 0 0
/-- SET_CLOCK: (command) (R330, R342). -/
def execSetClock (s : State) : Out :=
  .next <| match s.input with
    | .num id => match tfind s.cmds id with
      | some c =>
        if c.op ≠ 0x0B ∨ !s.cmdOpen c then s
        else
          let d := (wordN c.words 1).toNat; let mhz := (wordN c.words 2).toNat
          match c.phase with
          | .taken => (s.hostStep d mhz).clockDone id c d mhz
          | .draining _ => s.clockDone id c d mhz
          | _ => s
      | none => s
    | _ => s

/-- CLOCK_STALL_END: (die) (R13). -/
def execClockStallEnd (s : State) : Out :=
  .next <| match s.input with
    | .num d =>
      let x := s.die d
      if x.stallUntil ≠ 0 ∧ x.stallUntil ≤ s.time then s.setDie d { x with stallUntil := 0 } else s
    | _ => s

/-- Live root scopes of a group. -/
def State.groupRoots (s : State) (g : Nat) : List (Nat × Scope) :=
  if g = 0 then [] else s.scopes.filter (fun p => p.2.depth == 1 && p.2.group == g &&
    (p.2.state == .opened || p.2.state == .closing))

/-- GROUP_SET: (command).  A group that was cancelled before its bitmap was known carries its cancellation
now (R337). -/
def execGroupSet (s : State) : Out :=
  s.withCmd 0x0C fun id c =>
    let g := (wordN c.words 1).toNat
    let s : State := { s with groups := tset s.groups g (s.numAt (wordN c.words 2).toNat 96) }
    let s := if (s.groupRoots g).any (fun p => p.2.cancelled) then s.cancelGroup g else s
    s.finishCmd id 0 0

/-- Does a cancellation that comes over the fabric wait for a link to a root scope, or to what it marks (R13)? -/
def State.arrivalHeld (s : State) (sid : Nat) : Bool := !s.fabricOpen (scopeDie sid) || s.treeHeld (scopeDie sid) sid
/-- GROUP_CANCEL_RECEIVE: (group).  Every root scope of the group is cancelled (R337).  The cancellation waits
for a port and for links that do not stall (R13). -/
def execGroupCancelReceive (s : State) : Out :=
  .next <| match s.input with
    | .num g =>
      let roots := ((s.groupRoots g).filter (fun p => !p.2.cancelled)).map (fun p => State.scopeId p.1 p.2.reuse)
      if !s.portOpen || roots.any s.arrivalHeld then s else roots.foldl State.cancelTree s
    | _ => s

end Sys2Proof.Machine
end

