-- ==== Sys2Proof/Machine/HostOps.lean ====
section
/-! DEFINITION. What the host does to the device's registers (R328, R332, R334, R404 to R406, R409), function
resets and TDISP (R333, R407, R408), and its accesses through CXL.mem (R18, R327). -/

namespace Sys2Proof.Machine

namespace State

/-- Does D0's host port take requests now: no clock step stalls its FIFOs (R13)? -/
def hostOpen (s : State) : Bool := !s.stalledDie 0
/-- Does a request of the host reach the Kiln, which performs it (R13, log 47)? -/
def hostKiln (s : State) : Bool := s.hostOpen && s.hostLink s.kilnDie
/-- Is a function's interface locked (R333)? -/
def locked (s : State) (f : Nat) : Bool := f != 0 && ((s.func f).tdisp == .locked || (s.func f).tdisp == .run)
/-- A write refused under a TDISP lock is counted (R333). -/
def refuse (s : State) (f : Nat) : State := s.setFunc f { s.func f with refused := satUp (s.func f).refused }
/-- A write of function f's registers by its host: it waits at a stalled port or link, is ignored where the
device did not boot, and is refused under a lock; NOTIFY writes accepted before it are applied before it. -/
def hostReg (s : State) (f : Nat) (k : State → State) : State :=
  if !s.hostKiln || !s.booted || decide (63 < f) then s
  else if s.locked f then s.refuse f
  else k s.afterTakeover

/-- A write that changes scheduler state: the change goes to the standby first (R13, R339). -/
def hostDecision (s : State) (f : Nat) (k : State → State) : State := if s.journalOpen then s.hostReg f k else s

/-- A thread without what the session of a function set: its entries, its halt, its step (R419). -/
def unset (f : Nat) (th : Thread) : Thread :=
  { th with
    bp := Vector.ofFn (fun i => if th.bpBy[i] = f then 0 else th.bp[i])
    wp := Vector.ofFn (fun i => if th.wpBy[i] = f then ⟨0, 0, 0⟩ else th.wp[i])
    halted := if th.haltedBy = f then none else th.halted
    halting := th.halting && th.haltedBy != f
    stepping := if th.stepping = some f then none else th.stepping }
/-- Is a thread that holds something of a function's session behind a stalled link (R13)? -/
def unsetFar (s : State) (f : Nat) : Bool :=
  s.anyStall && s.threads.any (fun p => unset f p.2 != p.2 && !s.linkOpen 0 (tileDie p.2.tile))
/-- End a debug session: what it set is cleared and what it halted runs again (R419). -/
def endSession (s : State) (f : Nat) : State :=
  match (s.func f).session with
  | none => s
  | some _ =>
    let s : State := { s with
      threads := s.threads.map (fun p => (p.1, unset f p.2)), dbgScopes := s.dbgScopes.filter (fun e => e.1 != f)
      posts := s.posts.filter (fun p => match p.2 with | .halted g _ _ => g != f | _ => true) }
    s.setFunc f { s.func f with session := none }

/-- Does the end of a function's commands wait for a link (R13): that to the standby, or those of a kill? -/
def silenceHeld (s : State) (f : Nat) : Bool :=
  !s.journalOpen || (s.anyStall && s.cmds.any (fun p => (f == 0 || p.2.queue / 16 == f) && s.rootLive p.2 &&
    s.killHeld p.1 p.2.root))
/-- Commands of a function that the Kiln took, as it was asked to end them: root scopes that are live are
killed twice, the others are dropped, and no completion is written (R407, R408). -/
def silence (s : State) (f : Nat) : State :=
  (s.cmds.filter (fun p => f == 0 || p.2.queue / 16 == f)).foldl (fun s p =>
    let s : State := { s with donePosts := s.donePosts.filter (· != p.1) }
    if s.rootLive p.2 then
      ({ s with cmds := tset s.cmds p.1 { p.2 with silent := true } } : State).killTwice p.1 p.2.root 54
    else match p.2.phase with
      | .draining _ => { s with cmds := tset s.cmds p.1 { p.2 with silent := true } }
      | _ => { s with cmds := tdel s.cmds p.1 }) (s.journalAdd (.silence f))
/-- A queue wiped and DISABLED; one that was not empty was non-empty until now (R303). -/
def wiped (s : State) (x : Queue) : Queue :=
  { Queue.idle with busySince := if x.notify = x.ridx then x.busySince else s.time }
/-- A function's queues are wiped and DISABLED (R333, R407). -/
def wipeQueues (s : State) (f : Nat) : State :=
  { s with queues := s.queues.map (fun p => if p.1 / 16 = f then (p.1, s.wiped p.2) else p)
           lateNotify := s.lateNotify.filter (fun p => p.1 / 16 != f) }

/-- The functions an FLR applies to: one, or every one (R407). -/
def flrFuncs (f : Nat) : List Nat := if f = 0 then List.range 64 else [f]
/-- An FLR of one function, but for its commands. -/
def resetFunc (s : State) (f : Nat) : State :=
  let s := ((s.endSession f).wipeQueues f).journalAdd (.wipe f true)
  let s : State := { s with posts := s.posts.filter (fun p => match p.2 with | .answer g _ => g != f | _ => true) }
  if (tfind s.funcs f).isNone then s
  else s.setFunc f { s.func f with
      tdisp := .unlocked, ide := false, tokens := [], msix := [], doe := [], dbgOut := [], dbgWait := [] }

end State

/-! ### Queue registers -/

/-- NOTIFY_WRITE: (queue, value) (R329, R404, R407). During a takeover the port on D0 accepts it, and it is applied
afterwards (R339), or discarded and counted where an FLR is under way; otherwise it waits for the links to the Kiln
(R13). -/
def execNotifyWrite (s : State) : Out :=
  .next <| match s.input with
    | .num2 q v =>
      if !s.hostOpen || !s.booted || decide (1024 ≤ q) then s
      else if s.takingOver then
        if s.inFlr (q / 16) || s.inFlr 0 then s.dropNotify (q / 16) else { s with lateNotify := s.lateNotify ++ [(q, v)] }
      else if !s.hostKiln then s
      else s.afterTakeover.notify q v
    | _ => s

/-- CHEAD_WRITE: (queue, value) (R329). -/
def execCheadWrite (s : State) : Out :=
  .next <| match s.input with
    | .num2 q v =>
      if s.hostKiln && s.booted && decide (q < 1024) then
        s.setQueue q { s.queue q with chead := BitVec.ofNat 32 v }
      else s
    | _ => s

/-- QUEUE_ENABLE: (queue).  ENABLE 1 on a DISABLED queue resets its indices (R405, log 31). -/
def execQueueEnable (s : State) : Out :=
  .next <| match s.input with
    | .num q => s.hostDecision (q / 16) fun s =>
        let x := s.queue q
        if x.state = .disabled then
          let s := s.setQueue q { x with
            enable := true, state := .active, ridx := 0, notify := 0, cwidx := 0, chead := 0
            errVal := none, head := none, hold := none
            busySince := if x.notify = x.ridx then x.busySince else s.time }
          ({ s with lateNotify := s.lateNotify.filter (fun p => p.1 != q) } : State).journalAdd (.enable q)
        else s
    | _ => s

/-- QUEUE_DISABLE: (queue).  DISABLED once every command taken has posted (R405). -/
def execQueueDisable (s : State) : Out :=
  .next <| match s.input with
    | .num q => s.hostReg (q / 16) fun s =>
        (s.setQueue q { s.queue q with enable := false, head := none }).settleQueue q
    | _ => s

/-- TOKEN_COUNTER_WRITE: (function, counter, value) (R332); a token change is journaled (R339).  DESIGN CHOICE
(log 17): a counter of 256 or above does not exist, and its write is ignored. -/
def execTokenCounterWrite (s : State) : Out :=
  .next <| match s.input with
    | .num3 f n v => s.hostDecision f fun s =>
        if 255 < n then s else
        (s.setFunc f { s.func f with tokens := tset (s.func f).tokens n (BitVec.ofNat 32 v) }).journalAdd
          (.token f n (BitVec.ofNat 32 v))
    | _ => s

/-- DEVICE_EVENT_CLEAR: (mask).  FAILED is not cleared; vector 0 goes on while a bit is set (R409). -/
def execDeviceEventClear (s : State) : Out :=
  .next <| match s.input with
    | .num m =>
      if !s.hostOpen || !s.booted then s else
      let e := s.devEvents &&& ~~~(BitVec.ofNat 8 m &&& 0x7F#8)
      let s : State := { s with devEvents := e }
      if e = 0 then s else s.send (.msix 0 0)
    | _ => s

/-- A field of 64-byte alignment. -/
def align64 (v : Word) : Word := v &&& ~~~63#64
/-- CONTROL of a queue but for ENABLE: LOG2N only while ENABLE is 0 and in its range (R328). -/
def Queue.control (x : Queue) (v : Word) : Queue :=
  { x with vector := fld v 31 24, prio := fld v 10 8
           log2n := if x.enable ∨ fld v 4 0 < 3 ∨ 16 < fld v 4 0 then x.log2n else fld v 4 0 }

/-- The function whose lock guards a register (R333). -/
def State.regOwner (s : State) (r : HostReg) : Nat :=
  match r with
  | .qbase q | .cbase q | .control q => q / 16
  | .msix f _ => f
  | .grant as => match tfind s.aspaces as with | some a => a.grant.getD 0 | none => 0
  | _ => 0
/-- IDE of a function's streams is set up or torn down (R327); torn down in RUN, its interface is in ERROR (R408).
DESIGN CHOICE (log 32): in CONFIG_LOCKED, whose streams need IDE, it is not torn down. -/
def State.writeIde (s : State) (f : Nat) (on : Bool) : State :=
  let x := s.func f
  if !on ∧ x.tdisp = .locked then s
  else if !on ∧ x.tdisp = .run then
    if s.silenceHeld f then s else (s.setFunc f { x with ide := false, tdisp := .error }).silence f
  else s.setFunc f { x with ide := on }
/-- Does a register belong to a function or a vector that does not exist (R327)? -/
def absentReg : HostReg → Bool
  | .ide f | .logBase f | .logSize f | .logHead f | .dbgen f => decide (63 < f)
  | .msix f v => decide (63 < f ∨ 63 < v)
  | .qbase q | .cbase q | .control q => decide (1023 < q)
  | _ => false
/-- What writing a register does (R295, R327, R328, R330, R334, R336, R338, R419).  DESIGN CHOICE (log 17): a
device number of 768 or above, which is never assigned (R19), is ignored, as is a queue, a function or a vector
that does not exist. -/
def State.writeReg (s : State) (r : HostReg) (v : Word) : State :=
  if absentReg r then s else
  match r with
  | .timeMaster => { s with timeMaster := v.getLsbD 0 }
  | .ide f => s.writeIde f (v.getLsbD 0)
  | .qbase q =>
    let x := s.queue q
    if x.enable then s else s.setQueue q { x with qbase := align64 v, loc := v.getLsbD 0 }
  | .cbase q =>
    let x := s.queue q
    if x.enable then s else s.setQueue q { x with cbase := align64 v }
  | .control q => if !s.journalOpen then s else (s.setQueue q ((s.queue q).control v)).journalAdd (.prio q (fld v 10 8))
  | .devNum => if v.toNat < 768 then { s with devNum := v.toNat } else s
  | .logBase f => s.setFunc f { s.func f with logBase := v.toNat }
  | .logSize f =>
    if v = 0 then s.setFunc f { s.func f with logSize := none }
    else if 6 ≤ v.toNat ∧ v.toNat ≤ 20 then
      s.setFunc f { s.func f with logSize := some v.toNat, logHead := 0, logTail := 0 }
    else s
  | .logHead f => s.setFunc f { s.func f with logHead := v.toNat }
  | .grant as =>
    let a := (tfind s.aspaces as).getD ⟨0, none, []⟩
    { s with aspaces := tset s.aspaces as { a with grant := if v = 0 then none else some (v.toNat % 64) } }
  | .dbgen f => s.setFunc f { s.func f with dbgen := v.getLsbD 0 }
  | .msix f n => s.setFunc f { s.func f with msix := tset (s.func f).msix n v }
/-- REGISTER_WRITE: (register, value).  A grant to a locked function is refused too (R333). -/
def execRegisterWrite (s : State) : Out :=
  .next <| match s.input with
    | .reg r v => s.hostReg (s.regOwner r) fun s => match r with
      | .grant _ => if s.locked (v.toNat % 64) then s.refuse (v.toNat % 64) else s.writeReg r v
      | _ => s.writeReg r v
    | _ => s

/-! ### Resets and TDISP -/

/-- FLR: (function) (R407).  NOTIFY writes accepted before it take effect before it; with no root of the function
live it is over at once.  It waits for the links to what it ends (R13). -/
def execFlr (s : State) : Out :=
  .next <| match s.input with
    | .num f =>
      if !s.hostKiln || decide (63 < f) || s.silenceHeld f || (State.flrFuncs f).any s.unsetFar then s else
      let s := ((State.flrFuncs f).foldl State.resetFunc s.afterTakeover)
      let s := s.setFunc f { s.func f with flr := true, flrAt := s.time }
      (s.silence f).flrDone f
    | _ => s

/-- TDISP_LOCK: (function, run?).  CONFIG_UNLOCKED to CONFIG_LOCKED, or CONFIG_LOCKED to RUN (R333), only with
IDE on the function's streams (R327, log 32). -/
def execTdispLock (s : State) : Out :=
  .next <| match s.input with
    | .numFlag f run =>
      let x := s.func f
      if f = 0 ∨ 63 < f ∨ !x.ide ∨ !s.hostKiln then s
      else if run ∧ x.tdisp = .locked then s.setFunc f { x with tdisp := .run }
      else if !run ∧ x.tdisp = .unlocked then s.setFunc f { x with tdisp := .locked }
      else s
    | _ => s

/-- Is a command of a function over once its queue is wiped: finished, or waiting for a token? -/
def wipedCmd (f : Nat) (c : Command) : Bool :=
  c.queue / 16 == f && (c.phase == .finished || (c.phase == .taken && c.op == 3))
/-- STOP_INTERFACE: (function).  CONFIG_UNLOCKED, with the function's queues wiped, and with them its WAIT_TOKENs
(R333, R408, log 32). -/
def execStopInterface (s : State) : Out :=
  .next <| match s.input with
    | .num f =>
      let x := s.func f
      if x.tdisp = .unlocked ∨ !s.hostKiln ∨ !s.journalOpen then s
      else
        let s := (((s.setFunc f { x with tdisp := .unlocked }).wipeQueues f).journalAdd (.wipe f false)).journalAdd
          (.silence f)
        { s with cmds := (s.cmds.filter (fun p => !wipedCmd f p.2)).map
                   (fun p => if p.2.queue / 16 = f then (p.1, { p.2 with silent := true }) else p)
                 donePosts := s.donePosts.filter (fun id => match tfind s.cmds id with
                   | some c => c.queue / 16 != f
                   | none => false) }
    | _ => s

/-- IDE_FAILURE: (function).  RUN becomes ERROR and the function's commands end (R408), over links that do not
stall (R13). -/
def execIdeFailure (s : State) : Out :=
  .next <| match s.input with
    | .num f =>
      let x := s.func f
      if x.tdisp = .run ∧ !s.silenceHeld f then (s.setFunc f { x with tdisp := .error }).silence f else s
    | _ => s

/-! ### CXL.mem -/

/-- Location of a function's access through CXL.mem: function 0 names a device physical address; a virtual
function names an address space it is granted in bits [71:56] and a virtual address below (log 33). -/
def State.cxlLoc (s : State) (f addr n : Nat) : Option Nat :=
  if f = 0 then (if inMemory addr n then some addr else none)
  else
    let as := addr / 2 ^ 56; let va := addr % 2 ^ 56
    if !s.granted f as then none
    else match s.walk as va with
      | some g =>
        let a := g.addr + (va - g.va)
        if g.cls ≠ 3 ∧ g.cls ≠ 4 ∧ va + n ≤ g.va + g.size then some a else none
      | none => none
/-- CXL_MEM_ACCESS: (function, address, bytes, data to write).  A read answers data, poison, or nothing where
the function sees no memory; a write never clears poison (R18, R327, R388).  It waits for a stalled link (R13); a
device that did not boot exposes no memory (R417). -/
def execCxlMemAccess (s : State) : Out :=
  .next <| match s.input with
    | .cxl f addr n data =>
      if !s.hostOpen || !s.booted || (f != 0 && s.walkFar 0 (addr / 2 ^ 56) (addr % 2 ^ 56)) then s else
      match data, (s.cxlLoc f addr (match data with | some bs => bs.length | none => n)) with
      | some bs, some a => if s.homeOpen 0 a then s.putBytes a bs else s
      | none, some a =>
        if !s.homeOpen 0 a then s
        else s.send (if (s.poisonIn a n).isSome then .cxlPoison else .cxlData (s.bytesAt a n))
      | none, none => s.send (.cxlData [])
      | some _, none => s
    | _ => s

end Sys2Proof.Machine
end

