-- ==== Sys2Proof/Machine/DebugOps.lean ====
section
/-! DEFINITION. The debug mailbox (R418 to R429): each request posts one response, whose word 0 holds the
status and a result and whose other words are the block asked for. -/

namespace Sys2Proof.Machine

/-! ### Requests (R418, R420) -/

def opOf (r : DbgReq) : Nat := fld r.hdr 7 0
def argOf (r : DbgReq) : Nat := fld r.hdr 15 8
def namesScope (r : DbgReq) : Bool := r.hdr.getLsbD 16
def targetOf (r : DbgReq) : Nat := fld r.hdr 63 32
def opnd (r : DbgReq) (n : Nat) : Word := r.ws.getD (n - 1) 0

/-- Status codes (R420). -/
def dbgOk : Nat := 0
def dbgDenied : Nat := 1
def dbgNotHalted : Nat := 2
def dbgStale : Nat := 3
def dbgBlocked : Nat := 4
def dbgFault : Nat := 5
def dbgExited : Nat := 6
def dbgOperand : Nat := 7

/-- Is a code one of the requests of R420? -/
def listedReq (op : Nat) : Bool :=
  [0x01, 0x02, 0x10, 0x11, 0x12, 0x20, 0x21, 0x30, 0x31, 0x32, 0x33, 0x40].contains op

namespace State

/-- Post a response. -/
def respond (s : State) (f status result : Nat) (block : List Word) : State :=
  s.setFunc f { s.func f with dbgOut := (s.func f).dbgOut ++ wOf (result * 2 ^ 32 + status) :: block }

/-- May a session of function f name what belongs to a command (R419)? -/
def mayName (s : State) (f cmd : Nat) : Bool :=
  let g := s.ownerOf cmd
  if f = 0 then !s.locked g else g == f

/-- A request of a code that R420 does not list has its response too (R418): OPERAND in a session, DENIED without
one.  DESIGN CHOICE (log 41). -/
def unlisted (s : State) (f : Nat) (r : DbgReq) : State :=
  if listedReq (opOf r) then s
  else s.respond f (if (s.func f).session.isNone then dbgDenied else dbgOperand) 0 []
/-- A request of one code, in a session (R418, R419): a reserved bit, or an ISSCOPE that the request does
not take, is OPERAND (R420). -/
def request (s : State) (op : Nat) (scopeToo : Bool) (k : Nat → DbgReq → State) : Out :=
  .next <| match s.input with
    | .dbg f r =>
      if 63 < f ∨ !s.hostOpen then s
      else if opOf r ≠ op then s.unlisted f r
      else if (s.func f).session.isNone then s.respond f dbgDenied 0 []
      else if fld r.hdr 31 17 ≠ 0 ∨ (namesScope r ∧ !scopeToo) then s.respond f dbgOperand 0 []
      else k f r
    | _ => s

/-- The live thread a request names, if its session may name it (R419, R420), over a link that does not stall
(R13). -/
def onThread (s : State) (f : Nat) (r : DbgReq) (k : Nat → Thread → State) : State :=
  match s.byTid (targetOf r) with
  | none => s.respond f dbgStale 0 []
  | some (t, th) =>
    if !s.linkOpen 0 (tileDie th.tile) then s
    else if th.ending then s.respond f dbgStale 0 []
    else if !s.mayName f th.cmd then s.respond f dbgDenied 0 [] else k t th
/-- The live scope a request names, if its session may name it, over a link that does not stall. -/
def onScope (s : State) (f : Nat) (r : DbgReq) (k : Nat → Scope → State) : State :=
  match s.scope? (targetOf r) with
  | none => s.respond f dbgStale 0 []
  | some c =>
    if !s.linkOpen 0 (scopeDie (targetOf r)) then s
    else if !s.mayName f c.cmd then s.respond f dbgDenied 0 [] else k (targetOf r) c
/-- A request on every thread of a scope and below it: it waits for the links to them (R13). -/
def onTree (s : State) (f : Nat) (r : DbgReq) (k : Nat → State) : State :=
  s.onScope f r fun sid _ => if s.haltFar 0 sid then s else k sid
/-- A request on a halted thread (R427 to R429). -/
def onHalted (s : State) (f : Nat) (r : DbgReq) (k : Nat → Thread → State) : State :=
  s.onThread f r fun t th => if th.halted.isNone then s.respond f dbgNotHalted 0 [] else k t th

/-- Threads born into a scope or below it. -/
def threadsUnder (s : State) (sid : Nat) : List (Nat × Thread) :=
  s.threads.filter (fun p => s.under sid 256 p.2.sid0 && !p.2.ending)
/-- Change the threads of a scope tree. -/
def mapUnder (s : State) (sid : Nat) (f : Thread → Thread) : State :=
  { s with threads := s.threads.map (fun p => if s.under sid 256 p.2.sid0 then (p.1, f p.2) else p) }
/-- Write an entry for a scope tree: it stands before those written earlier, and in place of the session's own
for the same scope (R421). -/
def putEntry (s : State) (f sid : Nat) (e : ScopeEntry) (same : ScopeEntry → Bool) : State :=
  { s with dbgScopes := (f, sid, e) :: s.dbgScopes.filter (fun x => !(x.1 == f && x.2.1 == sid && same x.2.2)) }

end State

/-- A thread that a debugger lets go: the first instruction is not checked again (R422), and a halt that has not
taken effect does not. -/
def resumed (th : Thread) : Thread := { th with halted := none, halting := false }

namespace State

/-- A request whose response is still to come (R418). -/
def await (s : State) (f : Nat) (k : DbgWait) : State :=
  s.setFunc f { s.func f with dbgWait := (s.func f).dbgWait ++ [k] }
/-- Is the halt of a thread still to take effect at its next boundary (R424)? -/
def haltPending (s : State) (tid : Nat) : Bool :=
  match s.byTid tid with | some (_, th) => th.halting && !th.ending | none => false
/-- Is a thread on a die that D0 does not hear from now (R13)? -/
def tidFar (s : State) (tid : Nat) : Bool :=
  match s.byTid tid with | some (_, th) => !s.linkOpen 0 (tileDie th.tile) | none => false
/-- A HALT answers once every thread it names has halted, and D0 has heard of it (R13, R424). -/
def haltAnswer (s : State) (f n : Nat) (tids : List Nat) : State :=
  let left := tids.filter (fun tid => s.haltPending tid || s.tidFar tid)
  if left.isEmpty then s.respond f dbgOk n [] else s.await f (.halt left n)

end State

/-! ### Sessions -/

/-- ATTACH (R418, R419): a virtual function needs its DBGEN bit. -/
def execAttach (s : State) : Out :=
  .next <| match s.input with
    | .dbg f r =>
      if 63 < f ∨ !s.hostOpen then s
      else if opOf r ≠ 0x01 then s.unlisted f r
      else if (f != 0 && !(s.func f).dbgen) || (s.func f).session.isSome then s.respond f dbgDenied 0 []
      else if fld r.hdr 31 17 ≠ 0 ∨ fld (opnd r 1) 63 8 ≠ 0 then s.respond f dbgOperand 0 []
      else (s.setFunc f { s.func f with session := some ⟨fld (opnd r 1) 7 0, []⟩ }).respond f dbgOk 0 []
    | _ => s

/-- DETACH (R419).  It waits for the links to the threads that it lets go (R13). -/
def execDetach (s : State) : Out :=
  s.request 0x02 true fun f _ => if s.unsetFar f then s else (s.endSession f).respond f dbgOk 0 []

/-! ### Halting and stepping -/

/-- HALT (R424); the result counts the threads halted. -/
def execHalt (s : State) : Out :=
  s.request 0x10 true fun f r =>
    if namesScope r then
      s.onTree f r fun sid =>
        let ths := (s.threadsUnder sid).filter (fun p => p.2.halted.isNone)
        (s.haltScope f sid).haltAnswer f ths.length (ths.map (fun p => p.2.tid p.1))
    else
      s.onThread f r fun t th =>
        (s.halt f t th).haltAnswer f (if th.halted.isSome then 0 else 1) [th.tid t]

/-- RESUME (R424); the result counts the threads resumed, and a scope's halt stands no more. -/
def execResume (s : State) : Out :=
  s.request 0x11 true fun f r =>
    if namesScope r then
      s.onTree f r fun sid =>
        let n := ((s.threadsUnder sid).filter (fun p => p.2.halted.isSome)).length
        let s := s.mapUnder sid resumed
        ({ s with dbgScopes := s.dbgScopes.filter (fun e => !(e.1 == f && e.2.2 == .halt && s.under sid 256 e.2.1)) } :
          State).respond f dbgOk n []
    else
      s.onThread f r fun t th =>
        (s.setTh t (resumed th)).respond f dbgOk (if th.halted.isNone then 0 else 1) []

/-- A thread without a wait does not stay parked outside the ready queue (R301). -/
def State.unpark (s : State) (t : Nat) : State :=
  match s.thread? t with
  | some th => if th.loc = .parked ∧ th.wait.isNone ∧ !th.ending then s.readyThread t th (some th.tile) s.time else s
  | none => s
/-- A STEP that a halt overtook before its thread reached the end of an instruction is answered BLOCKED, at the
latest before the next STEP of the thread (R418, log 34). -/
def State.overtaken (s : State) (f tid : Nat) : State :=
  if (s.func f).dbgWait.contains (.step tid) then s.answerStep 0 f tid dbgBlocked else s
/-- STEP (R427): the thread is released for one instruction, whose end answers the request; one halted in a
wait evaluates its condition once more.  A fault of that wait that waits for a link holds the request (R13). -/
def execStep (s : State) : Out :=
  s.request 0x12 false fun f r =>
    s.onHalted f r fun t th =>
      let s0 := s
      let s := (s.overtaken f (th.tid t)).await f (.step (th.tid t))
      match th.wait with
      | some w =>
        let th : Thread := { th with halted := none, stepping := some f }
        s0.orHeld (((s.evalWait t th w).ended t th).unpark t) t th s0
      | none => s.setTh t { th with halted := none, skipCheck := true, stepping := some f }

/-! ### Breakpoints and watchpoints (R421) -/

/-- SETBP. -/
def execSetbp (s : State) : Out :=
  s.request 0x20 true fun f r =>
    let i := (argOf r); let w := opnd r 1
    if 7 < i then s.respond f dbgOperand 0 []
    else if namesScope r then
      s.onTree f r fun sid =>
        ((s.mapUnder sid (fun th => th.setBp f i w)).putEntry f sid (.bp i w)
          (fun e => match e with | .bp j _ => j == i | _ => false)).respond f dbgOk 0 []
    else s.onThread f r fun t th => (s.setTh t (th.setBp f i w)).respond f dbgOk 0 []

/-- SETWP: a reserved bit, or an enabled watchpoint of no bytes, is OPERAND. -/
def execSetwp (s : State) : Out :=
  s.request 0x21 true fun f r =>
    let i := (argOf r); let w : Watch := ⟨opnd r 1, opnd r 2, opnd r 3⟩
    if 3 < i ∨ fld w.ctl 63 37 ≠ 0 ∨ (w.ctl.getLsbD 32 ∧ fld w.ctl 31 0 = 0) then s.respond f dbgOperand 0 []
    else if namesScope r then
      s.onTree f r fun sid =>
        ((s.mapUnder sid (fun th => th.setWp f i w)).putEntry f sid (.wp i w)
          (fun e => match e with | .wp j _ => j == i | _ => false)).respond f dbgOk 0 []
    else s.onThread f r fun t th => (s.setTh t (th.setWp f i w)).respond f dbgOk 0 []

/-! ### Reading (R428) -/

/-- STATE of a thread's context, in its entry; a thread outside any context reads 0 (R298). -/
def State.stateOf (s : State) (th : Thread) : Nat :=
  match th.loc with
  | .resident x => fld (s.ctxEntry th.tile th.cls x) 1 0
  | _ => 0
def reasonWord : Option HaltReason → Word
  | none => 0
  | some .request => 1
  | some (.breakpoint i) => wOf (i * 256 + 2)
  | some (.watchpoint i) => wOf (i * 256 + 3)
  | some .ebreak => 4
  | some .stepped => 5
def verCode : Version → Nat
  | .v1 => 1 | .v2 => 2 | .v3 => 3
/-- The void bits of some words as a mask. -/
def voidMask {w : Nat} (vs : List (VWord w)) : Word :=
  wOf (vs.foldr (fun v n => (if v.void then 1 else 0) + 2 * n) 0)
/-- Values, then their void mask. -/
def regBlock {w : Nat} (vs : List (VWord w)) : List Word := vs.map (fun v => v.val.setWidth 64) ++ [voidMask vs]
/-- The pin windows: 8 of them, each a reference, a base and a size with its read-only flag. -/
def windowBlock (th : Thread) : List Word :=
  (List.range 8).flatMap (fun i => match th.windows[i]? with
    | some w => [w.ref, wOf w.base, wOf (w.size + (if w.readOnly then 2 ^ 63 else 0))]
    | none => [0, 0, 0])
/-- The user CSRs of R158, in order. -/
def csrList : List Nat :=
  [1, 2, 3] ++ (List.range 12).map (· + 0x800) ++ [0xC00, 0xC01, 0xCC0, 0xCC1, 0xCC2, 0xCC3]
/-- The 64 status words of a core's tags (R212). -/
def tagBlock (x : Tile) (c : CoreClass) : List Word :=
  (List.range 64).map (fun n => match tfind x.tags (tagKey c n) with
    | some (.set st bytes) => tagWord n st bytes
    | _ => 0)

/-- A block of a halted thread; none for a number that names none (R428). -/
def State.block (s : State) (t : Nat) (th : Thread) (n : Nat) : Option (List Word) :=
  if n = 0 then some [th.pc, wOf (th.tid t), th.place s.devNum, wOf (s.stateOf th), reasonWord th.halted,
    bit01 th.armed, bit01 th.cancel, th.shieldn.setWidth 64, wOf th.watch, wOf (verCode th.ver)]
  else if n = 1 then some (regBlock ((List.range 32).map (fun i => th.rx (BitVec.ofNat 5 i))))
  else if n = 2 then some (regBlock th.f.toList)
  else if n = 3 then some ((List.range 8).map (fun i => th.rm (BitVec.ofNat 3 i)) ++ [th.vpred.setWidth 64])
  else if n = 4 then some (th.q.toList ++ windowBlock th)
  else if n = 5 then some (th.k.toList.flatMap (fun h => [wOf h.kind.code, wOf h.sid, wOf h.weight]))
  else if n = 6 then some (csrList.map (s.csrRead t th))
  else if n = 7 then some ((s.tile th.tile).tagMask th.cls :: tagBlock (s.tile th.tile) th.cls)
  else if n = 8 then some ((s.tile th.tile).cbs.toList.flatMap (fun c => [c.cfgWord, c.stateWord]))
  else if n = 9 then some (match th.wait with
    | some ⟨.bar a g i, _, _⟩ => [a, wOf g, wOf i]
    | _ => [0, 0, 0])
  else if 0x40 ≤ n ∧ n ≤ 0x5F ∧ th.cls = .compute then
    some (regBlock (th.rv (BitVec.ofNat 5 (n - 0x40))).toList)
  else none

/-- READ. -/
def execRead (s : State) : Out :=
  s.request 0x30 false fun f r =>
    s.onHalted f r fun t th => match s.block t th (argOf r) with
      | some ws => s.respond f dbgOk 0 ws
      | none => s.respond f dbgOperand 0 []

/-- SCOPE: the fields of R27 in order, with O (R428). -/
def scopeBlock (c : Scope) : List Word :=
  [wOf c.state.code, wOf c.parent, wOf c.depth, wOf c.o, bit01 c.cancelled, bit01 c.succeeded, wOf c.winner,
   bit01 c.faulted, wOf c.cause, wOf c.opener]
def execScope (s : State) : Out :=
  s.request 0x32 true fun f r =>
    if !namesScope r then s.respond f dbgOperand 0 []
    else s.onScope f r fun _ c => s.respond f dbgOk 0 (scopeBlock c)

/-! ### Writing (R429) -/

/-- The value a WRITE gives a register of w bits: void reads as VOIDWORD (R147). -/
def dbgVal (w : Nat) (v : Word) (void : Bool) : VWord w := if void then .voidword else .of (v.setWidth w)
/-- The user CSRs a debugger may write: those with RW fields, but for STREAM. -/
def csrWritable (c : Nat) : Bool :=
  decide (1 ≤ c ∧ c ≤ 3) || decide (0x800 ≤ c ∧ c ≤ 0x807) || c == 0x80B
/-- A thread that a debugger takes out of a wait: an SCLOSE whose join is still to come leaves its handle CLOSED, as
SCLOSEA does (R168, log 34). -/
def leaveWait (th : Thread) : Thread :=
  match th.wait with
  | some ⟨.join j k, _, _⟩ => { th.wk k ⟨.closed, j, 0⟩ with wait := none }
  | _ => { th with wait := none }
/-- WRITE's effect; none for what it may not change.  A new pc abandons a wait under way (log 34), and with it
an answer it waits for; a write of UCAUSE does not arm the thread. -/
def dbgWrite (th : Thread) (block reg : Nat) (v : Word) (void : Bool) : Option Thread :=
  if block = 0 then
    if reg = 0 ∧ fld v 1 0 = 0 ∧ !void then some { leaveWait th with pc := v, remoteOut := none, peer := [] } else none
  else if block = 1 then
    if 1 ≤ reg ∧ reg ≤ 31 then some (th.wx (BitVec.ofNat 5 reg) (dbgVal 64 v void)) else none
  else if block = 2 then
    if reg ≤ 31 then some (th.wf (BitVec.ofNat 5 reg) (dbgVal 32 v void)) else none
  else if block = 3 then
    if 1 ≤ reg ∧ reg ≤ 7 then some (th.wm (BitVec.ofNat 3 reg) v) else none
  else if block = 6 then
    if csrWritable reg && !void then
      some { th.csrWrite reg v with armed := th.armed, service := th.service } else none
  else if 0x40 ≤ block ∧ block ≤ 0x5F ∧ th.cls = .compute then
    if h : reg < 64 then
      let r := BitVec.ofNat 5 (block - 0x40)
      some (th.wv r ((th.rv r).set reg (dbgVal 32 v void) h))
    else none
  else none

/-- WRITE. -/
def execWrite (s : State) : Out :=
  s.request 0x31 false fun f r =>
    s.onHalted f r fun t th =>
      match (if fld (opnd r 3) 63 1 ≠ 0 then none else dbgWrite th (argOf r) (opnd r 1).toNat (opnd r 2) ((opnd r 3).getLsbD 0)) with
      | some th => ((s.setTh t th).unpark t).respond f dbgOk 0 []
      | none => s.respond f dbgOperand 0 []

/-! ### MEM (R429) -/

/-- One byte of a debugger's access: windows, translation and permission, and poison for a read; the cause
of the first check that fails, or where the byte stands. -/
def State.dbgByte (s : State) (th : Thread) (a : Nat) (write : Bool) : Except Nat Place :=
  if (windowEnd a).isNone then .error (if write then 7 else 5)
  else
    let p : Except Nat Place :=
      if !translated a then .ok (.loc (windowLoc th.tile a))
      else match s.leafOf th.tile th.aspace a with
        | none => .error (if write then 15 else 13)
        | some g => if g.bit (if write then 3 else 2) then .ok (g.place th.tile a) else .error (if write then 15 else 13)
    match p with
    | .ok (.loc x) => if !write && (s.poisonIn x 1).isSome then .error 30 else p
    | _ => p
/-- All bytes of an access. -/
def State.dbgBytes (s : State) (th : Thread) (write : Bool) (a : Nat) : Nat → Except Nat (List Place)
  | 0 => .ok []
  | n + 1 => do
    let p ← s.dbgByte th a write
    let ps ← s.dbgBytes th write (a + 1) n
    .ok (p :: ps)
/-- Eight bytes a word. -/
def packBytes : Nat → List Byte → List Word
  | 0, _ => []
  | n + 1, bs => if bs.isEmpty then [] else wOf (leNat (bs.take 8)) :: packBytes n (bs.drop 8)
/-- Does a place follow another? -/
def placeNext : Place → Place → Bool
  | .loc x, .loc y => y == x + 1
  | .peer d a, .peer e b => d == e && b == a + 1
  | _, _ => false
/-- The stretches of an access from an offset on: offset, place of the first byte, length. -/
def memRuns : Nat → List Place → List (Nat × Place × Nat)
  | _, [] => []
  | k, p :: ps => match memRuns (k + 1) ps with
    | (j, q, n) :: rs => if placeNext p q then (k, p, n + 1) :: rs else (k, p, 1) :: (j, q, n) :: rs
    | [] => [(k, p, 1)]

namespace State

/-- The stretches of a MEM that stand here: the bytes read, by offset, or what is to be written. -/
def memHere (s : State) (rs : List (Nat × Place × Nat)) (data : Option (List Byte)) : List (Nat × List Byte) :=
  rs.filterMap (fun r => match r.2.1 with
    | .loc x => some (match data with
      | none => (r.1, s.bytesAt x r.2.2)
      | some bs => (x, (bs.drop r.1).take r.2.2))
    | .peer _ _ => none)
/-- Send the stretches of a MEM that peers hold: the operations. -/
def memAway (s : State) (f l : Nat) (rs : List (Nat × Place × Nat)) (data : Option (List Byte)) : List Nat × State :=
  rs.foldl (fun (p : List Nat × State) r => match r.2.1 with
    | .loc _ => p
    | .peer dev addr =>
      let s := p.2
      let kind : RemoteKind := match data with
        | none => .dbgRead f
        | some bs => .dbgWrite f ((bs.drop r.1).take r.2.2)
      (p.1 ++ [s.nextOp], ({ s with
        remotes := s.remotes ++ [⟨s.nextOp, l, 0x100000, 0, dev, addr, r.1, r.2.2, kind, 0, 0, s.time, false⟩]
        nextOp := s.nextOp + 1 } : State).send (.remote s.nextOp dev addr r.2.2 kind))) ([], s)
/-- A MEM is over: its FAULT with nothing written here, its bytes written, or its bytes read (R429). -/
def memDone (s : State) (f n : Nat) (write : Bool) (parts : List (Nat × List Byte)) (fault : Option Nat) : State :=
  match fault with
  | some c => s.respond f dbgFault c []
  | none =>
    if write then (parts.foldl (fun s p => s.putBytes p.1 p.2) s).respond f dbgOk 0 []
    else s.respond f dbgOk 0 (packBytes 32 ((List.range n).map (fun i =>
      (parts.findSome? (fun p => if p.1 ≤ i then p.2[i - p.1]? else none)).getD 0)))
/-- A response whose request has come to its end (R418): a HALT whose threads have all halted, a STEP of a
thread that ended, or that something else halted first (log 34), a MEM whose operations are over. -/
def settleWait (s : State) (f : Nat) (k : DbgWait) : State :=
  match k with
  | .halt tids n => s.haltAnswer f n tids
  | .step tid => match s.byTid tid with
    | some (_, th) => if s.tidFar tid then s.await f k
        else if th.ending then s.respond f dbgExited 0 []
        else if th.stepping = some f then s.await f k else s.respond f dbgBlocked 0 []
    | none => s.respond f dbgExited 0 []
  | .mem ops n write parts fault => if ops.isEmpty then s.memDone f n write parts fault else s.await f k
/-- The debug mailbox of a function answers the requests that have come to their end. -/
def debugTurn (s : State) (f : Nat) : State :=
  (s.func f).dbgWait.foldl (fun s k => s.settleWait f k) (s.setFunc f { s.func f with dbgWait := [] })

end State

/-- MEM.  It waits for a stalled link (R13) and, as a store does, for room in a full log ring (R334); with bytes
that a peer holds it answers once the peer has. -/
def execMem (s : State) : Out :=
  s.request 0x33 false fun f r =>
    s.onThread f r fun _ th =>
      let a := opnd r 1; let n := fld (opnd r 2) 8 0; let write := (opnd r 2).getLsbD 63
      let data := if write then some ((r.ws.drop 2).flatMap (fun w => leBytes 8 w.toNat)) else none
      if n = 0 ∨ 256 < n ∨ fld (opnd r 2) 62 9 ≠ 0 then s.respond f dbgOperand 0 []
      else match s.dbgBytes th write a.toNat n with
        | .error c => s.respond f dbgFault c []
        | .ok ps =>
          let ends := [a, a + wOf (n - 1)]
          let rs := memRuns 0 ps
          if !rs.all (fun r => s.placeOpen th (a.toNat + r.1) r.2.1) then s
          else if write && !s.logFits th.tile th.aspace (ends.map (·.toNat)) then
            (if s.devEvents.getLsbD 0 then s else s.event (tileDie th.tile) 0)
          else
            let s := s.touched th write ends
            let here := s.memHere rs data
            let (ops, s) := s.memAway f th.tile rs data
            if ops.isEmpty then s.memDone f n write here none else s.await f (.mem ops n write here none)

/-! ### EVENTS (R420) -/

/-- EVENTS: up to 8 pending halt events, each a thread and its reason. -/
def execEvents (s : State) : Out :=
  s.request 0x40 true fun f _ =>
    match (s.func f).session with
    | some ss =>
      let es := ss.events.take 8
      (s.setFunc f { s.func f with session := some { ss with events := ss.events.drop 8 } }).respond f dbgOk
        es.length (es.map (fun e => wOf (e.1 * 2 ^ 32) ||| reasonWord (some e.2)))
    | none => s

end Sys2Proof.Machine
end

