-- ==== Sys2Proof/Machine/FabricOps.lean ====
section
/-! DEFINITION. Imenais Link: acknowledgements and timeouts of remote operations (R336, R415), operations
that peers send (R58, R336), links (R415) and the fabric's time (R338). -/

namespace Sys2Proof.Machine

namespace State

/-- A remote operation is over: its weight goes home from the die that issued it (R31, R415). -/
def remoteOver (s : State) (r : Remote) : State :=
  { s with remotes := s.remotes.filter (fun k => k.id != r.id) }.giveBack (tileDie r.tile) r.sid r.weight
/-- The thread that waits for a remote operation. -/
def remoteThread (s : State) (r : Remote) : Option Thread :=
  match s.thread? r.t with
  | some th => if th.tid r.t = r.tid ∧ th.remoteOut = some r.id then some th else none
  | none => none
/-- The waiting thread has the peer's answer: its instruction is executed again and meets it, as data, as poison
(R389), or as a failure that faults it (R58, R415). -/
def remoteValue (s : State) (r : Remote) (amo : Bool) (bs : List Byte) (ans : PeerAns) : State :=
  match s.remoteThread r with
  | some th => s.setTh r.t { th with
      peer := th.peer ++ [⟨r.va, r.n, amo, bs, ans, r.weight⟩], remoteOut := none, stalled := false }
  | none => s
/-- A debugger's MEM whose operation is over: its bytes, or the cause it failed with (R429). -/
def remoteMem (s : State) (f id : Nat) (g : Nat → DbgWait → DbgWait) : State :=
  let x := s.func f
  s.setFunc f { x with dbgWait := x.dbgWait.map (fun k => match k with
    | .mem ops _ _ _ _ => if ops.contains id then g id k else k
    | k => k) }
/-- An operation of a MEM brought bytes, to an offset, or failed with a cause. -/
def memOver (off : Nat) (bs : List Byte) (cause : Option Nat) (id : Nat) : DbgWait → DbgWait
  | .mem ops n w parts fault =>
    .mem (ops.filter (· != id)) n w (if w then parts else parts ++ [(off, bs)]) (fault.orElse fun _ => cause)
  | k => k
/-- Change the copy a remote operation belongs to. -/
def remoteCopy (s : State) (r : Remote) (k : Nat) (f : Copy → Copy) : State :=
  match s.copy? r.tile k with
  | some c => s.setCopy r.tile (f c)
  | none => s

/-- What a peer answered to a command's read (R313). -/
def remoteCmd (s : State) (r : Remote) (id : Nat) (bs : List Byte) (ans : PeerAns) : State :=
  match tfind s.cmds id with
  | some c => { s with cmds := tset s.cmds id { c with got := c.got ++ [⟨r.va, r.n, false, bs, ans, 0⟩] } }
  | none => s

/-- The peer acknowledged, with the data of a read (R336). -/
def remoteOk (s : State) (r : Remote) (bs : List Byte) : State :=
  match r.kind with
  | .load => s.remoteValue r false bs .ok
  | .amo _ _ _ => s.remoteValue r true bs .ok
  | .bar => s.remoteValue r true bs .ok
  | .store _ => s
  | .copyRead k => s.remoteCopy r k (fun c => { c with got := c.got ++ [⟨r.va, r.n, false, bs, .ok, 0⟩] })
  | .copyWrite _ _ => s
  | .dbgRead f => s.remoteMem f r.id (memOver r.va bs none)
  | .dbgWrite f _ => s.remoteMem f r.id (memOver r.va [] none)
  | .cmdRead id => s.remoteCmd r id bs .ok
/-- The operation was not acknowledged, or was refused (R58, R415). -/
def remoteFails (s : State) (r : Remote) : State :=
  match r.kind with
  | .load => s.remoteValue r false [] .failed
  | .amo _ _ _ => s.remoteValue r true [] .failed
  | .bar => s.remoteValue r true [] .failed
  | .store _ => s.scopeFault r.sid 55
  | .copyRead k => s.remoteCopy r k (fun c => { c with failed := true })
  | .copyWrite k bs => s.remoteCopy r k (fun c => { c with failed := true, done := c.done - bs.length })
  | .dbgRead f => s.remoteMem f r.id (memOver r.va [] (some 55))
  | .dbgWrite f _ => s.remoteMem f r.id (memOver r.va [] (some 55))
  | .cmdRead id => s.remoteCmd r id [] .failed
/-- The peer met poison (R389, R390). -/
def remotePoison (s : State) (r : Remote) : State :=
  match r.kind with
  | .load => s.remoteValue r false [] .poisoned
  | .amo _ _ _ => s.remoteValue r true [] .poisoned
  | .bar => s.remoteValue r true [] .poisoned
  | .copyRead k => s.remoteCopy r k (fun c => { c with failed := true })
  | .dbgRead f => s.remoteMem f r.id (memOver r.va [] (some 30))
  | .cmdRead id => s.remoteCmd r id [] .poisoned
  | _ => s

/-- Perform an operation of a peer at this device's home, and acknowledge it (R58, R72, R336). -/
def performPeer (s : State) (dev serial : Nat) (op : PeerOp) : State :=
  let ok (a n : Nat) (reads : Bool) (k : State) : State :=
    if !inMemory a n then s.send (.nack dev serial)
    else if reads && (s.poisonIn a n).isSome then s.send (.poisoned dev serial)
    else k
  match op with
  | .load a n => ok a n true (s.send (.ack dev serial (s.bytesAt a n)))
  | .store a bs => ok a bs.length false ((s.putClean a bs).send (.ack dev serial []))
  | .amo o a n d e =>
    ok a n true <|
      let old := s.numAt a n
      let (new, w) := amoNat o n old d.toNat e.toNat
      (if w then s.putNum a n new else s).send (.ack dev serial (leBytes n old))
  | .bar a =>
    ok a 16 true <|
      let bs := s.bytesAt a 16
      let s := match barArrive (s.numAt a 8) (s.numAt (a + 8) 8) with
        | some (w, _, _) => s.putNum a 8 w
        | none => s
      s.send (.ack dev serial bs)

end State

/-- Does the scope fault of a store that fails wait for a link (R13, R415)? -/
def State.storeHeld (s : State) (r : Remote) : Bool :=
  match r.kind with
  | .store _ => s.treeHeld (tileDie r.tile) r.sid
  | _ => false
/-- REMOTE_ACK: (operation, answer) (R336).  It waits at stalled links (R13). -/
def execRemoteAck (s : State) : Out :=
  .next <| match s.input with
    | .ack id d => match s.remotes.find? (fun r => r.id == id) with
      | some r => if !s.fabricOpen (tileDie r.tile) then s else match d with
        | .bytes bs => (s.remoteOver r).remoteOk r bs
        | .poisoned => (s.remoteOver r).remotePoison r
        | .refused => if s.storeHeld r then s else (s.remoteOver r).remoteFails r
      | none => s
    | _ => s

/-- REMOTE_TIMEOUT: (operation).  10 ms without an acknowledgement (R415).  A scope fault waits for links (R13). -/
def execRemoteTimeout (s : State) : Out :=
  .next <| match s.input with
    | .num id => match s.remotes.find? (fun r => r.id == id) with
      | some r => if 10000000 ≤ s.time - r.issued ∧ !s.storeHeld r then (s.remoteOver r).remoteFails r else s
      | none => s
    | _ => s

/-- Address of a peer's operation. -/
def peerAddr : PeerOp → Nat
  | .load a _ => a
  | .store a _ => a
  | .amo _ a _ _ _ => a
  | .bar a => a
/-- REMOTE_OPERATION_ARRIVE: (device, serial number, operation).  It waits at stalled links to its home (R13). -/
def execRemoteOperationArrive (s : State) : Out :=
  .next <| match s.input with
    | .peer dev serial op => if s.fabricOpen (peerAddr op / dieRange) then s.performPeer dev serial op else s
    | _ => s

/-- LINK_FAILURE: (port, lanes that work).  The port retrains with fewer lanes, or goes down (R415). -/
def execLinkFailure (s : State) : Out :=
  .next <| match s.input with
    | .num2 p n =>
      if p < 18 ∧ n < s.portLanes p ∧ (n = 0 ∨ n = 1 ∨ n = 2 ∨ n = 4) then
        { s with lanes := tset s.lanes p n }.event (portDie p) 3
      else s
    | _ => s

/-- TIME_FLIT: (the master's time).  The master itself has nothing to follow.  TIMEBASE of another moves toward
it by one tick, at most once in 1,000, and never steps back: a tick too many is taken out of the next ones
(R338). -/
def execTimeFlit (s : State) : Out :=
  .next <| match s.input with
    | .num m =>
      if s.timeMaster ∨ !s.portOpen ∨ s.time < s.slewAt + 1000 ∨ m = s.time then s
      else if s.time < m then { s.ageThreads 1 with time := s.time + 1, slewAt := s.time + 1 }
      else { s with slew := s.slew + 1, slewAt := s.time }
    | _ => s

end Sys2Proof.Machine
end

