-- ==== Sys2Proof/Machine/FirmwareOps.lean ====
section
/-! DEFINITION. Boot, measurement and attestation (R340, R417), the life cycle (R341), Kiln failures (R339,
R410), map-outs (R412, R413), and errors found at rest (R388, R396, R414). -/

namespace Sys2Proof.Machine

namespace State

/-! ### Reset and boot -/

/-- The end of a die's usable memory below the ranges of channels mapped out (R414, log 11). -/
def usableTop (lost : List (Nat × Nat)) (d : Nat) : Nat :=
  let low := (lost.filter (fun r => r.1 / dieRange == d)).foldl (fun m r => min m (r.1 / 65536 * 65536)) (dieTop d)
  max low (d * dieRange)
/-- A die at boot: its KV pool of wiped pages (R314). -/
def bootDie (lost : List (Nat × Nat)) (d : Nat) : Die :=
  let top := usableTop lost d
  Die.boot top (min Config.kvPoolPages ((top - d * dieRange) / 65536))
/-- Images that were loaded: every one up to the first that does not verify, at most four (R340, R417). -/
def loadedImages : List Bool → List Bool
  | [] => []
  | true :: bs => true :: loadedImages bs
  | false :: _ => [false]
/-- Measurements of the images that were loaded, in indices 1 to 4 (R340); of one that does not verify, the
SHAKE256 of the rejected image (R417). -/
def measurements (vs : List Bool) : Table (List Byte) :=
  ((loadedImages vs).take 4).mapIdx (fun i ok => (i + 1, (Config.imageDigest (i + 1) ok).toList))
/-- Does every image verify? -/
def allVerified (vs : List Bool) : Bool := (loadedImages vs).length == 4 && vs.all id

/-- What a reset keeps of memory: device memory and the host's own; every SRAM is wiped (R341). -/
def afterWipe (s : State) : Memory := Memory.below s.mem locSram ++ Memory.from_ s.mem locHost
/-- A device reset and boot (R340, R341, R414, R417): device memory, the host's memory, the life-cycle
state, the fabric lanes and the schedule stay. -/
def bootState (s : State) (vs : List Bool) (out : List Nat) (lost : List (Nat × Nat)) (ch bytes : Nat) : State :=
  let dies := (List.range 4).map (fun d => (d, bootDie lost d))
  let t : State := { State.reset with
    mem := s.afterWipe, poison := s.poison.filter (fun u => decide (64 * u < locSram ∨ locHost ≤ 64 * u))
    tiles := (sortNat out).eraseDups.map (fun l => (l, { Tile.idle with outOfService := true }))
    dies := dies, life := s.life, booted := allVerified vs, lanes := s.lanes, hbmLost := lost
    hbmch := ch, hbmbytes := bytes, measured := measurements vs, sent := s.sent, freeCount := s.freeCount
    agenda := s.agenda, input := s.input }
  dies.foldl (fun t p => p.2.kvPool.foldl (fun t pa => t.wipe pa 65536) t) t

/-- A life-cycle change wipes all HBM before the new state takes effect (R341). -/
def changeLife (s : State) (old new : Life) : State :=
  if s.life ≠ old then s
  else { s with mem := Memory.from_ s.mem locSram, life := new
                poison := s.poison.filter (fun u => decide (locSram ≤ 64 * u)) }

def lifeCode : Life → Nat
  | .blank => 0 | .provisioned => 1 | .deployed => 2 | .returned => 3
/-- The capability block of function 0 (R335): words 0 and 1, and the tile bitmap. -/
def capWord0 (s : State) : Word :=
  wOf (lifeCode s.life * 2 ^ 42 + 7 * 2 ^ 39 + s.lanesIn * 2 ^ 31 + s.hbmch * 2 ^ 21 + s.tilesIn * 2 ^ 10 + s.devNum)
def capWord1 (s : State) : Word := wOf s.hbmbytes
def capBitmap (s : State) (k : Nat) : Word :=
  wOf ((List.range 64).foldl (fun n i => if s.inService (64 * k + i) then n + 2 ^ i else n) 0)

/-- The six measurements (R340, R410, R417): images, the life-cycle state, and takeovers and reloads. -/
def measured6 (s : State) : List (List Byte) :=
  (List.range 4).map (fun i => (tfind s.measured (i + 1)).getD []) ++
    [[BitVec.ofNat 8 (lifeCode s.life)], leBytes 8 s.takeovers]
/-- An SPDM request over a function's DOE mailbox (R340): a device that did not boot answers only function
0's (R417). -/
def spdm (s : State) (code : Nat) : Out :=
  .next <| match s.input with
    | .bytes f bs =>
      if !s.hostOpen || (!s.booted && f != 0) || decide (63 < f) then s
      else s.setFunc f { s.func f with doe := Config.spdmBody code bs s.measured6 }
    | _ => s

/-! ### Kiln failures -/

/-- Ticks of the next takeover, at most 40,000 (R339). -/
def takeoverLen (s : State) : Nat := Config.takeoverTicks s.takeovers % 40001
/-- A standby becomes primary with its own copy of the decisions and of the scheduler state (R339). -/
def adopt (s : State) : State :=
  { s with
    journal := s.replica
    queues := s.queues.map (fun p => (p.1, { p.2 with
      ridx := (tfind s.shadow.ridx p.1).getD 0, cwidx := (tfind s.shadow.cwidx p.1).getD 0
      prio := (tfind s.shadow.prio p.1).getD 0 }))
    funcs := s.funcs.map (fun p => (p.1, { p.2 with
      tokens := (s.shadow.tokens.filter (fun k => k.1 / 256 == p.1)).map (fun k => (k.1 % 256, k.2)) })) }
/-- The Kiln that serves fails: the standby takes over, and serves when the takeover is over; or no Kiln serves
(R339, R410, R411). -/
def primaryFails (s : State) : State :=
  if s.kilnFailed then s
  else if s.standby then
    { s.adopt with kilnDie := 2 - s.kilnDie, standby := false, takeovers := s.takeovers + 1
                   takeoverUntil := s.time + s.takeoverLen }.event (2 - s.kilnDie) 1
  else { s with kilnFailed := true }.event s.kilnDie 7

/-! ### Errors at rest -/

/-- A stream is DAMAGED and its OWNER learns of it (R396). -/
def damage (s : State) (k : Nat) (st : Stream) : State :=
  let s : State := { s with streams := tset s.streams k { st with damaged := true } }
  match s.scope? st.owner with
  | some c => if c.state = .opened ∨ c.state = .closing then s.scopeFault st.owner 30 else s
  | none => s
/-- The place of a physical page in a stream's list. -/
def pageIndex (st : Stream) (pa : Nat) : Option Nat := st.pages.findIdx? (fun k => k.pa == pa)
/-- Does the scope fault of a stream that holds a page wait for a link (R13, R396)? -/
def damageHeld (s : State) (pa : Nat) : Bool :=
  s.anyStall && s.streams.any (fun p => p.2.live && (pageIndex p.2 pa).isSome && s.treeHeld (p.1 / 16384) p.2.owner)
/-- The speculative outcome: the entry's 4 KiB are dropped and counted (R396). -/
def dropEntry (s : State) (d a : Nat) : State :=
  let x := s.die d
  (s.addPoison (unitsOf (a / 4096 * 4096) 4096)).setDie d { x with kvdrop := (x.kvdrop + 1) % 2 ^ 64 }
/-- The Tun classifies an error in a KV page (R396). -/
def kvError (s : State) (a : Nat) : State :=
  let pa := a / 65536 * 65536
  match s.pfx.find? (fun p => p.2.page == pa) with
  | some (e, _) =>
    (s.streams.filter (fun p => p.2.live)).foldl (fun s p => match tfind s.streams p.1 with
      | some st => match pageIndex st pa with
        | some j => if 16 * j < st.g then s.damage p.1 st else s
        | none => s
      | none => s) (s.mapPfx [e] (fun x => { x with damaged := true }))
  | none => match s.streams.find? (fun p => p.2.live && (pageIndex p.2 pa).isSome) with
    | some (k, st) =>
      if 16 * (pageIndex st pa).getD 0 + a % 65536 / 4096 < st.g then s.damage k st
      else s.dropEntry (k / 16384) a
    | none => match s.streams.find? (fun p => p.2.live && p.2.pool.contains pa) with
      | some (k, _) => s.dropEntry (k / 16384) a
      | none => if (s.die (pa / dieRange)).kvPool.contains pa then s.dropEntry (pa / dieRange) a else s

end State

/-! ### Events -/

/-- DEVICE_RESET: (images that verify, tiles out of service, memory of channels mapped out, HBMCH,
HBMBYTES) (R340, R341). -/
def execDeviceReset (s : State) : Out :=
  .next <| match s.input with
    | .boot vs out lost ch bytes => s.bootState vs out lost ch bytes
    | _ => s

def execLifecycleProvision (s : State) : Out := .next (s.changeLife .blank .provisioned)
def execLifecycleDeploy (s : State) : Out := .next (s.changeLife .provisioned .deployed)
def execLifecycleReturn (s : State) : Out := .next (s.changeLife .deployed .returned)
def execLifecycleReprovision (s : State) : Out := .next (s.changeLife .returned .provisioned)

/-! SPDM requests, by their request codes of SPDM 1.2 (log 15). -/
def execSpdmVersion (s : State) : Out := s.spdm 0x84
def execSpdmCapabilities (s : State) : Out := s.spdm 0xE1
def execSpdmAlgorithms (s : State) : Out := s.spdm 0xE3
def execSpdmDigests (s : State) : Out := s.spdm 0x81
def execSpdmCertificate (s : State) : Out := s.spdm 0x82
def execSpdmChallenge (s : State) : Out := s.spdm 0x83
def execSpdmMeasurements (s : State) : Out := s.spdm 0xE0
def execSpdmKeyExchange (s : State) : Out := s.spdm 0xE4

/-- KILN_TAKEOVER: (ticks for which the primary's heartbeat was missed).  At 10 µs the standby takes over
(R339). -/
def execKilnTakeover (s : State) : Out :=
  .next <| match s.input with
    | .num n => if 10000 ≤ n then s.primaryFails else s
    | _ => s

/-- KILN_SCRUB: (die, soft error found?) (R410). -/
def execKilnScrub (s : State) : Out :=
  .next <| match s.input with
    | .numFlag d err =>
      if !err then s
      else if d = s.kilnDie then s.primaryFails
      else if d = 2 - s.kilnDie then { s with standby := false }
      else s
    | _ => s

/-- KILN_RELOAD: (verified?).  A failed Kiln becomes the standby and copies the scheduler state, or ATTEST is
set (R410). -/
def execKilnReload (s : State) : Out :=
  .next <| match s.input with
    | .flag ok =>
      if s.standby || s.kilnFailed then s
      else
        let s : State := { s with takeovers := s.takeovers + 1 }
        if ok then { s with standby := true, replica := s.journal, shadow := s.sched } else s.event (2 - s.kilnDie) 6
    | _ => s

/-- TILE_MAPOUT: (tile) (R413).  It waits for the links to what the ends of its threads cancel (R13). -/
def execTileMapout (s : State) : Out :=
  .next <| match s.input with
    | .num l => if s.mapHeld l then s else s.mapOut l
    | _ => s

/-- PATROL_SCRUB: (64-byte unit of a location), or (tile, unit of its accumulators): an error that ECC
cannot correct is found there (R388, R396).  Where it damages a stream it waits for links (R13). -/
def execPatrolScrub (s : State) : Out :=
  .next <| match s.input with
    | .num u => if s.damageHeld (64 * u / 65536 * 65536) then s else (s.addPoison [u]).kvError (64 * u)
    | .num2 l k =>
      let x := s.tile l
      if k < 4096 ∧ !x.accPoison.contains k then s.setTile l { x with accPoison := k :: x.accPoison } else s
    | _ => s

end Sys2Proof.Machine
end

