-- ==== Sys2Proof/Machine/SampleOps.lean ====
section
/-! DEFINITION. Draws, list merges and draft trees (R284, R286 to R289). -/

namespace Sys2Proof.Machine

/-- mix of R284. -/
def mix64 (z : Word) : Word :=
  let z := (z ^^^ (z >>> 30)) * 0xBF58476D1CE4E5B9
  let z := (z ^^^ (z >>> 27)) * 0x94D049BB133111EB
  z ^^^ (z >>> 31)
/-- The draw of a key (R284). -/
def drawOf (seed pos att : Word) : W32 :=
  let z := mix64 (seed ^^^ (pos * 0x9E3779B97F4A7C15))
  let z := mix64 (z ^^^ (wOf (fld att 31 0) * 0xD6E8FEB86659FD93))
  rne32 (.fin false (fld z 63 40) (-24))

/-- SDRAW (R284). -/
def execSdraw (rd : FReg) (rs1 rs2 : XReg) (s : State) : Out :=
  withTh s fun t th =>
    let p := th.rx rs1; let a := th.rx rs2
    if p.void || a.void then s.done t ((th.wf rd .voidword).see (sawProp ||| sawMem))
    else if fld a.val 63 32 ≠ 0 then s.trap t th 2 a.val
    else s.done t (th.wf rd (.of (drawOf th.seedkey p.val a.val)))

/-! ### TOPKMRG (R286) -/

/-- Does candidate (value, index) a come before b: larger value, −0 below +0, then smaller index. -/
def mergeBefore (a b : W32 × W32) : Bool :=
  lt0 b.1 a.1 || (!lt0 a.1 b.1 && decide (a.2.toNat < b.2.toNat))
/-- Insert after everything that does not come later. -/
def mergeInsert (c : W32 × W32) : List (W32 × W32) → List (W32 × W32)
  | [] => [c]
  | d :: ds => if mergeBefore c d then c :: d :: ds else d :: mergeInsert c ds
/-- Candidates of one list of 64 words. -/
def listCands (ws : List Nat) : List (W32 × W32) :=
  (List.range 32).filterMap (fun e =>
    let v := BitVec.ofNat 32 (ws.getD e 0); let i := BitVec.ofNat 32 (ws.getD (32 + e) 0)
    if i == 0xFFFFFFFF || isNan32 v then none else some (v, i))
/-- The 64 words of a list of at most k entries, with the fill of R245. -/
def listWords (k : Nat) (cs : List (W32 × W32)) : List Word :=
  let part (f : W32 × W32 → W32) (fill : W32) : List Word := (List.range 32).map (fun e =>
    match (if e < k then cs[e]? else none) with
    | some c => (f c).setWidth 64
    | none => fill.setWidth 64)
  part (·.1) 0xFF800000 ++ part (·.2) 0xFFFFFFFF

def execTopkmrg (rd rs1 rs2 : XReg) (s : State) : Out :=
  withTh s fun t th =>
    let a := th.rx rs1; let c := th.rx rs2
    let n := fld c.val 39 32; let k := fld c.val 5 0
    let vas := words4 a.val (64 * n)
    if a.void || c.void then s.nullifyX t th rd (sawProp ||| sawMem)
    else if a.val.toNat % 64 ≠ 0 then s.trap t th 4 a.val
    else if fld c.val 63 40 ≠ 0 ∨ fld c.val 31 6 ≠ 0 ∨ n = 0 ∨ 64 < n ∨ k = 0 ∨ 32 < k then s.trap t th 2 c.val
    else match s.readVals th .base (vas.map (fun v => (v, 4))) with
      | .error e => s.stop t th e
      | .ok ws =>
        let cs := ((chunks 64 n ws).flatMap listCands).foldl (fun l c => mergeInsert c l) []
        let vds := List.zip (words4 a.val 64) (listWords k cs)
        match s.storeChecks th 4 vds with
        | .error e => s.stop t th e
        | .ok ps =>
          let (th, s) := (s.touched th false vas).storeAll t th 4 (List.zip ps vds)
          s.done t (th.wx rd (.of (wOf (min k cs.length))))

/-! ### TREEGEN (R287, R288) -/

/-- The widths of a width word; none where a byte follows a zero byte. -/
def treeWidths : Nat → Word → Option (List Nat)
  | 0, w => if w = 0 then some [] else none
  | fuel + 1, w =>
    let b := fld w 7 0
    if b = 0 then (if w = 0 then some [] else none) else (treeWidths fuel (w >>> 8)).map (b :: ·)
/-- Nodes of the subtree below a node of the level whose child widths are given, itself included. -/
def treeSize : List Nat → Nat
  | [] => 1
  | w :: ws => 1 + w * treeSize ws
/-- A node's record (R287). -/
def nodeWord (parent branch depth exit entry : Nat) : Word :=
  wOf (parent * 2 ^ 48 + branch * 2 ^ 40 + depth * 2 ^ 32 + exit * 2 ^ 16 + entry)
/-- The records of a subtree in preorder, from its root's entry. -/
def treeRecords : List Nat → Nat → Nat → Nat → Nat → List Word
  | [], parent, branch, depth, e => [nodeWord parent branch depth e e]
  | w :: ws, parent, branch, depth, e =>
    nodeWord parent branch depth (e + treeSize (w :: ws) - 1) e ::
      (List.range w).flatMap (fun b => treeRecords ws e b (depth + 1) (e + 1 + b * treeSize ws))

def execTreegen (rd rs1 rs2 : XReg) (s : State) : Out :=
  withTh s fun t th =>
    let w := th.rx rs1; let a := th.rx rs2
    if w.void || a.void then s.nullifyX t th rd (sawProp ||| sawMem)
    else match treeWidths 8 w.val with
      | none => s.trap t th 2 w.val
      | some ws =>
        let n := treeSize ws
        if 256 < n then s.trap t th 2 w.val
        else
          let vds := ((List.range n).map (fun i => a.val + wOf (8 * i))).zip (treeRecords ws 0 0 0 0)
          match s.storeChecks th 8 vds with
          | .error e => s.stop t th e
          | .ok ps =>
            let (th, s) := s.storeAll t th 8 (List.zip ps vds)
            s.done t (th.wx rd (.of (wOf n)))

/-! ### DACCEPT (R289) -/

/-- TOKEN, PARENT and PRESENT of a node lane. -/
def nodeToken (v : W32) : Nat := (v.extractLsb' 0 17).toNat
def nodeParent (v : W32) : Nat := (v.extractLsb' 18 6).toNat
/-- The accepted nodes, in order, from node c. -/
def acceptGo (nodes target : Nat → W32) : Nat → Nat → List Nat
  | 0, _ => []
  | fuel + 1, c =>
    match (List.range 64).find? (fun n => decide (c < n) && (nodes n).getLsbD 31 && nodeParent (nodes n) == c &&
        nodeToken (nodes n) == nodeToken (target c)) with
    | some n => n :: acceptGo nodes target fuel n
    | none => []

/-- DACCEPT (R289); its own word stands here as R138 has it.  A void lane nullifies it (R265, log 28). -/
def execDaccept (rd rs1 rs2 : VReg) (s : State) : Out :=
  onComputeWord ((mkR 3 rs2 rs1 4 rd 0x7B).setWidth 64) s fun t th =>
    let a := th.rv rs1; let b := th.rv rs2
    if a.any (·.void) || b.any (·.void) then s.done t ((th.wv rd allVoid).see (sawProp ||| sawMem))
    else
      let nodes (i : Nat) : W32 := (laneOf a i).val
      let target (i : Nat) : W32 := (laneOf b i).val
      let ns := acceptGo nodes target 64 0
      let len := ns.length
      let c := ns.getLastD 0
      let lane (n tok : Nat) : VWord 32 := .of (BitVec.ofNat 32 (n * 2 ^ 24 + len * 2 ^ 18 + tok))
      let out : Vector (VWord 32) 64 := Vector.ofFn (fun i : Fin 64 =>
        if i.val < len then
          let n := ns.getD i.val 0
          lane n (nodeToken (nodes n))
        else if i.val = len then lane c (nodeToken (target c))
        else .voidword)
      s.done t (th.wv rd out)

end Sys2Proof.Machine
end

