-- ==== Sys2Proof/Machine/ThermalOps.lean ====
section
/-! DEFINITION. Temperature and power (R20, R342, R343, R416). -/

namespace Sys2Proof.Machine

/-- Temperatures in units of 0.125 °C (R303): the limit of 95 °C, 5 °C below it, and 105 °C (R343, R416). -/
def hotLimit : Nat := 760
def coolLimit : Nat := 720
def tripLimit : Nat := 840
/-- One CLKC step down, one up (R12). -/
def stepDown (mhz : Nat) : Nat := if mhz = 1800 then 1500 else if mhz = 1500 then 1200 else 900
def stepUp (mhz : Nat) : Nat := if mhz = 900 then 1200 else if mhz = 1200 then 1500 else 1800

namespace State

/-- Since when a condition has held without a break. -/
def since (s : State) (holds : Bool) (old : Option Nat) : Option Nat :=
  if holds then some (old.getD s.time) else none
/-- Has a condition held for 1 ms? -/
def forMs (s : State) (since_ : Option Nat) : Bool :=
  match since_ with | some t => decide (1000000 ≤ s.time - t) | none => false

/-- A sample of a die: a die at its limit steps down, at most once per 100 µs (R342, R343). -/
def sampleDie (s : State) (d temp power : Nat) (limit : Bool) : State :=
  let x := s.die d
  let hot := decide (hotLimit ≤ temp) || limit
  let cool := s.since (decide (temp ≤ coolLimit) && !limit) x.coolSince
  let x := { x with
    temp := temp, power := power, atLimit := hot, coolSince := cool
    limitSince := s.since (hot && x.mhz == 900) x.limitSince
    halved := x.halved && !s.forMs cool }
  let s := s.setDie d x
  let rested := match x.lastStep with | some t => decide (100000 ≤ s.time - t) | none => true
  if hot && rested && s.clockOf d != 900 then
    let s := s.stepClock d (stepDown (s.clockOf d))
    s.setDie d { s.die d with lastStep := some s.time, stepped := x.stepped + 1 }
  else s

end State

/-- TEMP_POWER_SAMPLE: (die, temperature, power, power limit reached?) (R343). -/
def execTempPowerSample (s : State) : Out :=
  .next <| match s.input with
    | .sample d temp power limit => if d < 4 then s.sampleDie d temp power limit else s
    | _ => s

/-- THERMAL_STEP_UP: (die).  One step that firmware took down is taken back after 1 ms (R343).  The 100 µs of
R342 limit steps down alone. -/
def execThermalStepUp (s : State) : Out :=
  .next <| match s.input with
    | .num d =>
      let x := s.die d
      if s.forMs x.coolSince && decide (0 < x.stepped) && s.clockOf d != 1800 && !s.tripped then
        let s := s.stepClock d (stepUp (s.clockOf d))
        s.setDie d { s.die d with stepped := x.stepped - 1, coolSince := some s.time, halved := false }
      else s
    | _ => s

/-- THERMAL: (die).  1 ms at the limit at 0.9 GHz: THERMAL is set and the arrays admit half (R416). -/
def execThermal (s : State) : Out :=
  .next <| match s.input with
    | .num d =>
      let x := s.die d
      if s.forMs x.limitSince && x.mhz == 900 && !x.halved then
        (s.setDie d { x with halved := true }).event d 4
      else s
    | _ => s

/-- A trip: TRIP and FAILED, every command hard-killed with cause 55, the dies at 0.9 GHz until a reset
(R416). -/
def State.trip (s : State) : State :=
  if s.tripped then s else
  let s := (({ s with tripped := true } : State).event s.kilnDie 5).event s.kilnDie 7
  let s := (s.cmds.filter (fun p => s.rootLive p.2)).foldl (fun s p => s.killTwice p.1 p.2.root 55) s
  (List.range 4).foldl (fun s d => s.stepClock d 900) s
/-- Does a trip wait for the links to what its kills cancel and end (R13)? -/
def State.tripHeld (s : State) : Bool :=
  s.anyStall && s.cmds.any (fun p => s.rootLive p.2 && s.killHeld p.1 p.2.root)
/-- TRIP: (die), or the board's coolant-failure signal (R416). -/
def execTrip (s : State) : Out :=
  .next <| match s.input with
    | .num d => if tripLimit ≤ (s.die d).temp ∧ !s.tripHeld then s.trip else s
    | .flag true => if s.tripHeld then s else s.trip
    | _ => s

end Sys2Proof.Machine
end

