-- ==== Sys2Proof/Machine/Dispatch.lean ====
section
/-! DEFINITION. What each instruction and event does: one call of its meaning. -/

namespace Sys2Proof.Machine

def exec (i : Instr) (s : State) : Host.Outcome State Fault Refusal :=
  match i with
  | .lui rd imm => Sys2Proof.Machine.execLui rd imm s
  | .auipc rd imm => Sys2Proof.Machine.execAuipc rd imm s
  | .jal rd imm => Sys2Proof.Machine.execJal rd imm s
  | .jalr rd rs1 imm => Sys2Proof.Machine.execJalr rd rs1 imm s
  | .beq rs1 rs2 imm => Sys2Proof.Machine.execBeq rs1 rs2 imm s
  | .bne rs1 rs2 imm => Sys2Proof.Machine.execBne rs1 rs2 imm s
  | .blt rs1 rs2 imm => Sys2Proof.Machine.execBlt rs1 rs2 imm s
  | .bge rs1 rs2 imm => Sys2Proof.Machine.execBge rs1 rs2 imm s
  | .bltu rs1 rs2 imm => Sys2Proof.Machine.execBltu rs1 rs2 imm s
  | .bgeu rs1 rs2 imm => Sys2Proof.Machine.execBgeu rs1 rs2 imm s
  | .lb rd rs1 imm => Sys2Proof.Machine.execLb rd rs1 imm s
  | .lh rd rs1 imm => Sys2Proof.Machine.execLh rd rs1 imm s
  | .lw rd rs1 imm => Sys2Proof.Machine.execLw rd rs1 imm s
  | .ld rd rs1 imm => Sys2Proof.Machine.execLd rd rs1 imm s
  | .lbu rd rs1 imm => Sys2Proof.Machine.execLbu rd rs1 imm s
  | .lhu rd rs1 imm => Sys2Proof.Machine.execLhu rd rs1 imm s
  | .lwu rd rs1 imm => Sys2Proof.Machine.execLwu rd rs1 imm s
  | .sb rs1 rs2 imm => Sys2Proof.Machine.execSb rs1 rs2 imm s
  | .sh rs1 rs2 imm => Sys2Proof.Machine.execSh rs1 rs2 imm s
  | .sw rs1 rs2 imm => Sys2Proof.Machine.execSw rs1 rs2 imm s
  | .sd rs1 rs2 imm => Sys2Proof.Machine.execSd rs1 rs2 imm s
  | .addi rd rs1 imm => Sys2Proof.Machine.execAddi rd rs1 imm s
  | .slti rd rs1 imm => Sys2Proof.Machine.execSlti rd rs1 imm s
  | .sltiu rd rs1 imm => Sys2Proof.Machine.execSltiu rd rs1 imm s
  | .xori rd rs1 imm => Sys2Proof.Machine.execXori rd rs1 imm s
  | .ori rd rs1 imm => Sys2Proof.Machine.execOri rd rs1 imm s
  | .andi rd rs1 imm => Sys2Proof.Machine.execAndi rd rs1 imm s
  | .slli rd rs1 shamt => Sys2Proof.Machine.execSlli rd rs1 shamt s
  | .srli rd rs1 shamt => Sys2Proof.Machine.execSrli rd rs1 shamt s
  | .srai rd rs1 shamt => Sys2Proof.Machine.execSrai rd rs1 shamt s
  | .addiw rd rs1 imm => Sys2Proof.Machine.execAddiw rd rs1 imm s
  | .slliw rd rs1 shamt => Sys2Proof.Machine.execSlliw rd rs1 shamt s
  | .srliw rd rs1 shamt => Sys2Proof.Machine.execSrliw rd rs1 shamt s
  | .sraiw rd rs1 shamt => Sys2Proof.Machine.execSraiw rd rs1 shamt s
  | .add rd rs1 rs2 => Sys2Proof.Machine.execAdd rd rs1 rs2 s
  | .sub rd rs1 rs2 => Sys2Proof.Machine.execSub rd rs1 rs2 s
  | .sll rd rs1 rs2 => Sys2Proof.Machine.execSll rd rs1 rs2 s
  | .slt rd rs1 rs2 => Sys2Proof.Machine.execSlt rd rs1 rs2 s
  | .sltu rd rs1 rs2 => Sys2Proof.Machine.execSltu rd rs1 rs2 s
  | .xor rd rs1 rs2 => Sys2Proof.Machine.execXor rd rs1 rs2 s
  | .srl rd rs1 rs2 => Sys2Proof.Machine.execSrl rd rs1 rs2 s
  | .sra rd rs1 rs2 => Sys2Proof.Machine.execSra rd rs1 rs2 s
  | .or rd rs1 rs2 => Sys2Proof.Machine.execOr rd rs1 rs2 s
  | .and rd rs1 rs2 => Sys2Proof.Machine.execAnd rd rs1 rs2 s
  | .addw rd rs1 rs2 => Sys2Proof.Machine.execAddw rd rs1 rs2 s
  | .subw rd rs1 rs2 => Sys2Proof.Machine.execSubw rd rs1 rs2 s
  | .sllw rd rs1 rs2 => Sys2Proof.Machine.execSllw rd rs1 rs2 s
  | .srlw rd rs1 rs2 => Sys2Proof.Machine.execSrlw rd rs1 rs2 s
  | .sraw rd rs1 rs2 => Sys2Proof.Machine.execSraw rd rs1 rs2 s
  | .mul rd rs1 rs2 => Sys2Proof.Machine.execMul rd rs1 rs2 s
  | .mulh rd rs1 rs2 => Sys2Proof.Machine.execMulh rd rs1 rs2 s
  | .mulhsu rd rs1 rs2 => Sys2Proof.Machine.execMulhsu rd rs1 rs2 s
  | .mulhu rd rs1 rs2 => Sys2Proof.Machine.execMulhu rd rs1 rs2 s
  | .div rd rs1 rs2 => Sys2Proof.Machine.execDiv rd rs1 rs2 s
  | .divu rd rs1 rs2 => Sys2Proof.Machine.execDivu rd rs1 rs2 s
  | .rem rd rs1 rs2 => Sys2Proof.Machine.execRem rd rs1 rs2 s
  | .remu rd rs1 rs2 => Sys2Proof.Machine.execRemu rd rs1 rs2 s
  | .mulw rd rs1 rs2 => Sys2Proof.Machine.execMulw rd rs1 rs2 s
  | .divw rd rs1 rs2 => Sys2Proof.Machine.execDivw rd rs1 rs2 s
  | .divuw rd rs1 rs2 => Sys2Proof.Machine.execDivuw rd rs1 rs2 s
  | .remw rd rs1 rs2 => Sys2Proof.Machine.execRemw rd rs1 rs2 s
  | .remuw rd rs1 rs2 => Sys2Proof.Machine.execRemuw rd rs1 rs2 s
  | .fence fm pred succ rd rs1 => Sys2Proof.Machine.execFence fm pred succ rd rs1 s
  | .csrrw rd rs1 csr => Sys2Proof.Machine.execCsrrw rd rs1 csr s
  | .csrrs rd rs1 csr => Sys2Proof.Machine.execCsrrs rd rs1 csr s
  | .csrrc rd rs1 csr => Sys2Proof.Machine.execCsrrc rd rs1 csr s
  | .csrrwi rd imm csr => Sys2Proof.Machine.execCsrrwi rd imm csr s
  | .csrrsi rd imm csr => Sys2Proof.Machine.execCsrrsi rd imm csr s
  | .csrrci rd imm csr => Sys2Proof.Machine.execCsrrci rd imm csr s
  | .flw rd rs1 imm => Sys2Proof.Machine.execFlw rd rs1 imm s
  | .fsw rs1 rs2 imm => Sys2Proof.Machine.execFsw rs1 rs2 imm s
  | .fmaddS rd rs1 rs2 rs3 rm => Sys2Proof.Machine.execFmaddS rd rs1 rs2 rs3 rm s
  | .fmsubS rd rs1 rs2 rs3 rm => Sys2Proof.Machine.execFmsubS rd rs1 rs2 rs3 rm s
  | .fnmsubS rd rs1 rs2 rs3 rm => Sys2Proof.Machine.execFnmsubS rd rs1 rs2 rs3 rm s
  | .fnmaddS rd rs1 rs2 rs3 rm => Sys2Proof.Machine.execFnmaddS rd rs1 rs2 rs3 rm s
  | .faddS rd rs1 rs2 rm => Sys2Proof.Machine.execFaddS rd rs1 rs2 rm s
  | .fsubS rd rs1 rs2 rm => Sys2Proof.Machine.execFsubS rd rs1 rs2 rm s
  | .fmulS rd rs1 rs2 rm => Sys2Proof.Machine.execFmulS rd rs1 rs2 rm s
  | .fdivS rd rs1 rs2 rm => Sys2Proof.Machine.execFdivS rd rs1 rs2 rm s
  | .fsqrtS rd rs1 rm => Sys2Proof.Machine.execFsqrtS rd rs1 rm s
  | .fsgnjS rd rs1 rs2 => Sys2Proof.Machine.execFsgnjS rd rs1 rs2 s
  | .fsgnjnS rd rs1 rs2 => Sys2Proof.Machine.execFsgnjnS rd rs1 rs2 s
  | .fsgnjxS rd rs1 rs2 => Sys2Proof.Machine.execFsgnjxS rd rs1 rs2 s
  | .fminS rd rs1 rs2 => Sys2Proof.Machine.execFminS rd rs1 rs2 s
  | .fmaxS rd rs1 rs2 => Sys2Proof.Machine.execFmaxS rd rs1 rs2 s
  | .feqS rd rs1 rs2 => Sys2Proof.Machine.execFeqS rd rs1 rs2 s
  | .fltS rd rs1 rs2 => Sys2Proof.Machine.execFltS rd rs1 rs2 s
  | .fleS rd rs1 rs2 => Sys2Proof.Machine.execFleS rd rs1 rs2 s
  | .fclassS rd rs1 => Sys2Proof.Machine.execFclassS rd rs1 s
  | .fmvXW rd rs1 => Sys2Proof.Machine.execFmvXW rd rs1 s
  | .fcvtWS rd rs1 rm => Sys2Proof.Machine.execFcvtWS rd rs1 rm s
  | .fcvtWuS rd rs1 rm => Sys2Proof.Machine.execFcvtWuS rd rs1 rm s
  | .fcvtLS rd rs1 rm => Sys2Proof.Machine.execFcvtLS rd rs1 rm s
  | .fcvtLuS rd rs1 rm => Sys2Proof.Machine.execFcvtLuS rd rs1 rm s
  | .fcvtSW rd rs1 rm => Sys2Proof.Machine.execFcvtSW rd rs1 rm s
  | .fcvtSWu rd rs1 rm => Sys2Proof.Machine.execFcvtSWu rd rs1 rm s
  | .fcvtSL rd rs1 rm => Sys2Proof.Machine.execFcvtSL rd rs1 rm s
  | .fcvtSLu rd rs1 rm => Sys2Proof.Machine.execFcvtSLu rd rs1 rm s
  | .fmvWX rd rs1 => Sys2Proof.Machine.execFmvWX rd rs1 s
  | .sopen rd rs1 => Sys2Proof.Machine.execSopen rd rs1 s
  | .sclose rd rs1 => Sys2Proof.Machine.execSclose rd rs1 s
  | .sclosea rs1 => Sys2Proof.Machine.execSclosea rs1 s
  | .scloseaV2 rs1 => Sys2Proof.Machine.execScloseaV2 rs1 s
  | .senter rd rs1 => Sys2Proof.Machine.execSenter rd rs1 s
  | .senterV2 rd rs1 => Sys2Proof.Machine.execSenterV2 rd rs1 s
  | .scancel rs1 => Sys2Proof.Machine.execScancel rs1 s
  | .scancelV1V2 rs1 => Sys2Proof.Machine.execScancelV1V2 rs1 s
  | .succeed rd => Sys2Proof.Machine.execSucceed rd s
  | .succeedV1V2 rd => Sys2Proof.Machine.execSucceedV1V2 rd s
  | .sstat rd rs1 => Sys2Proof.Machine.execSstat rd rs1 s
  | .sstatV1V2 rd rs1 => Sys2Proof.Machine.execSstatV1V2 rd rs1 s
  | .spawn rd rs1 rs2 rs3 => Sys2Proof.Machine.execSpawn rd rs1 rs2 rs3 s
  | .spawnIn rd rs1 rs2 rs3 => Sys2Proof.Machine.execSpawnIn rd rs1 rs2 rs3 s
  | .tsknew rd rs1 rs2 => Sys2Proof.Machine.execTsknew rd rs1 rs2 s
  | .tskpub rs1 => Sys2Proof.Machine.execTskpub rs1 s
  | .tsksig rs1 => Sys2Proof.Machine.execTsksig rs1 s
  | .tskstat rd rs1 => Sys2Proof.Machine.execTskstat rd rs1 s
  | .rnginit rd rs1 rs2 => Sys2Proof.Machine.execRnginit rd rs1 rs2 s
  | .rclaim rd => Sys2Proof.Machine.execRclaim rd s
  | .rsteal rd rs1 => Sys2Proof.Machine.execRsteal rd rs1 s
  | .msend rs1 rs2 => Sys2Proof.Machine.execMsend rs1 rs2 s
  | .msend4 rs1 rs2 => Sys2Proof.Machine.execMsend4 rs1 rs2 s
  | .mrecv rd rs1 => Sys2Proof.Machine.execMrecv rd rs1 s
  | .mrecv4 rd rs1 => Sys2Proof.Machine.execMrecv4 rd rs1 s
  | .mpeek rd rs1 => Sys2Proof.Machine.execMpeek rd rs1 s
  | .bar rd rs1 => Sys2Proof.Machine.execBar rd rs1 s
  | .waiteq rd rs1 rs2 => Sys2Proof.Machine.execWaiteq rd rs1 rs2 s
  | .waitne rd rs1 rs2 => Sys2Proof.Machine.execWaitne rd rs1 rs2 s
  | .waitge rd rs1 rs2 => Sys2Proof.Machine.execWaitge rd rs1 rs2 s
  | .void rd => Sys2Proof.Machine.execVoid rd s
  | .vtest rd rs1 => Sys2Proof.Machine.execVtest rd rs1 s
  | .bvoid rs1 imm => Sys2Proof.Machine.execBvoid rs1 imm s
  | .bnvoid rs1 imm => Sys2Proof.Machine.execBnvoid rs1 imm s
  | .jtab rs1 rs2 imm => Sys2Proof.Machine.execJtab rs1 rs2 imm s
  | .lda r z rd rs1 => Sys2Proof.Machine.execLda r z rd rs1 s
  | .stl r z rs1 rs2 => Sys2Proof.Machine.execStl r z rs1 rs2 s
  | .lds z rd rs1 => Sys2Proof.Machine.execLds z rd rs1 s
  | .mcst z rs1 rs2 => Sys2Proof.Machine.execMcst z rs1 rs2 s
  | .amoadd r wd rd rs1 rs2 => Sys2Proof.Machine.execAmoadd r wd rd rs1 rs2 s
  | .amoswp r wd rd rs1 rs2 => Sys2Proof.Machine.execAmoswp r wd rd rs1 rs2 s
  | .amocas r wd rd rs1 rs2 => Sys2Proof.Machine.execAmocas r wd rd rs1 rs2 s
  | .amomax r wd rd rs1 rs2 => Sys2Proof.Machine.execAmomax r wd rd rs1 rs2 s
  | .amomin r wd rd rs1 rs2 => Sys2Proof.Machine.execAmomin r wd rd rs1 rs2 s
  | .amoand r wd rd rs1 rs2 => Sys2Proof.Machine.execAmoand r wd rd rs1 rs2 s
  | .amoor r wd rd rs1 rs2 => Sys2Proof.Machine.execAmoor r wd rd rs1 rs2 s
  | .amoxor r wd rd rs1 rs2 => Sys2Proof.Machine.execAmoxor r wd rd rs1 rs2 s
  | .fenceReach r pred succ => Sys2Proof.Machine.execFenceReach r pred succ s
  | .cpy tag rs1 rs2 rs3 => Sys2Proof.Machine.execCpy tag rs1 rs2 rs3 s
  | .cpymc tag rs1 rs2 rs3 => Sys2Proof.Machine.execCpymc tag rs1 rs2 rs3 s
  | .cpy2d tag rs1 rs2 rs3 => Sys2Proof.Machine.execCpy2d tag rs1 rs2 rs3 s
  | .cbcfg cb rs2 => Sys2Proof.Machine.execCbcfg cb rs2 s
  | .cbwaitf rd cb rs2 => Sys2Proof.Machine.execCbwaitf rd cb rs2 s
  | .cbwaite rd cb rs2 => Sys2Proof.Machine.execCbwaite rd cb rs2 s
  | .cbadvp cb rs2 => Sys2Proof.Machine.execCbadvp cb rs2 s
  | .cbadvc cb rs2 => Sys2Proof.Machine.execCbadvc cb rs2 s
  | .cbstat rd cb rs2 => Sys2Proof.Machine.execCbstat rd cb rs2 s
  | .tagwa rd rs1 => Sys2Proof.Machine.execTagwa rd rs1 s
  | .tagwl rd rs1 => Sys2Proof.Machine.execTagwl rd rs1 s
  | .tagff rd rs1 => Sys2Proof.Machine.execTagff rd rs1 s
  | .tagclr rs1 => Sys2Proof.Machine.execTagclr rs1 s
  | .bgive rs1 rs2 => Sys2Proof.Machine.execBgive rs1 rs2 s
  | .btake rd rs1 rs2 => Sys2Proof.Machine.execBtake rd rs1 rs2 s
  | .bstat rd rs1 => Sys2Proof.Machine.execBstat rd rs1 s
  | .qld rd rs1 rs2 => Sys2Proof.Machine.execQld rd rs1 rs2 s
  | .qldw rd rs1 rs2 => Sys2Proof.Machine.execQldw rd rs1 rs2 s
  | .qst rd rs1 rs2 => Sys2Proof.Machine.execQst rd rs1 rs2 s
  | .qstw rd rs1 rs2 => Sys2Proof.Machine.execQstw rd rs1 rs2 s
  | .qldq rd rs1 rs2 => Sys2Proof.Machine.execQldq rd rs1 rs2 s
  | .qstq rd rs1 rs2 => Sys2Proof.Machine.execQstq rd rs1 rs2 s
  | .qnew rd rs1 rs2 => Sys2Proof.Machine.execQnew rd rs1 rs2 s
  | .qpin rd rs1 => Sys2Proof.Machine.execQpin rd rs1 s
  | .qunpin rs1 => Sys2Proof.Machine.execQunpin rs1 s
  | .qeq rd rs1 rs2 => Sys2Proof.Machine.execQeq rd rs1 rs2 s
  | .qtag rd rs1 rs2 => Sys2Proof.Machine.execQtag rd rs1 rs2 s
  | .qclr rd => Sys2Proof.Machine.execQclr rd s
  | .qmv rd rs1 => Sys2Proof.Machine.execQmv rd rs1 s
  | .reloc rd rs1 rs2 => Sys2Proof.Machine.execReloc rd rs1 rs2 s
  | .vadd ty rd rs1 rs2 => Sys2Proof.Machine.execVadd ty rd rs1 rs2 s
  | .vsub ty rd rs1 rs2 => Sys2Proof.Machine.execVsub ty rd rs1 rs2 s
  | .vmul ty rd rs1 rs2 => Sys2Proof.Machine.execVmul ty rd rs1 rs2 s
  | .vmax ty rd rs1 rs2 => Sys2Proof.Machine.execVmax ty rd rs1 rs2 s
  | .vmin ty rd rs1 rs2 => Sys2Proof.Machine.execVmin ty rd rs1 rs2 s
  | .vand ty rd rs1 rs2 => Sys2Proof.Machine.execVand ty rd rs1 rs2 s
  | .vor ty rd rs1 rs2 => Sys2Proof.Machine.execVor ty rd rs1 rs2 s
  | .vxor ty rd rs1 rs2 => Sys2Proof.Machine.execVxor ty rd rs1 rs2 s
  | .vshl ty rd rs1 rs2 => Sys2Proof.Machine.execVshl ty rd rs1 rs2 s
  | .vshr ty rd rs1 rs2 => Sys2Proof.Machine.execVshr ty rd rs1 rs2 s
  | .vsra ty rd rs1 rs2 => Sys2Proof.Machine.execVsra ty rd rs1 rs2 s
  | .vabs ty rd rs1 => Sys2Proof.Machine.execVabs ty rd rs1 s
  | .vneg ty rd rs1 => Sys2Proof.Machine.execVneg ty rd rs1 s
  | .vexp2 ty rd rs1 => Sys2Proof.Machine.execVexp2 ty rd rs1 s
  | .vlog2 ty rd rs1 => Sys2Proof.Machine.execVlog2 ty rd rs1 s
  | .vrcp ty rd rs1 => Sys2Proof.Machine.execVrcp ty rd rs1 s
  | .vrsq ty rd rs1 => Sys2Proof.Machine.execVrsq ty rd rs1 s
  | .vmov ty rd rs1 => Sys2Proof.Machine.execVmov ty rd rs1 s
  | .vbcast ty rd rs1 => Sys2Proof.Machine.execVbcast ty rd rs1 s
  | .vfma rd rs1 rs2 rs3 => Sys2Proof.Machine.execVfma rd rs1 rs2 rs3 s
  | .vfms rd rs1 rs2 rs3 => Sys2Proof.Machine.execVfms rd rs1 rs2 rs3 s
  | .vsel rd rs1 rs2 rs3 => Sys2Proof.Machine.execVsel rd rs1 rs2 rs3 s
  | .vld rd rs1 imm => Sys2Proof.Machine.execVld rd rs1 imm s
  | .vst rs2 rs1 imm => Sys2Proof.Machine.execVst rs2 rs1 imm s
  | .vredsum rd rs1 => Sys2Proof.Machine.execVredsum rd rs1 s
  | .vredmax rd rs1 => Sys2Proof.Machine.execVredmax rd rs1 s
  | .vredmin rd rs1 => Sys2Proof.Machine.execVredmin rd rs1 s
  | .vmvx rd rs1 rs2 => Sys2Proof.Machine.execVmvx rd rs1 rs2 s
  | .vmvf rd rs1 rs2 => Sys2Proof.Machine.execVmvf rd rs1 rs2 s
  | .vins rd rs1 rs2 => Sys2Proof.Machine.execVins rd rs1 rs2 s
  | .vperm rd rs1 rs2 => Sys2Proof.Machine.execVperm rd rs1 rs2 s
  | .vslide rd rs1 rs2 => Sys2Proof.Machine.execVslide rd rs1 rs2 s
  | .vhad rd rs1 rs2 => Sys2Proof.Machine.execVhad rd rs1 rs2 s
  | .vtopk rd rs1 rs2 => Sys2Proof.Machine.execVtopk rd rs1 rs2 s
  | .vtmask rd rs1 rs2 => Sys2Proof.Machine.execVtmask rd rs1 rs2 s
  | .vcmpeq rd rs1 rs2 => Sys2Proof.Machine.execVcmpeq rd rs1 rs2 s
  | .vcmpne rd rs1 rs2 => Sys2Proof.Machine.execVcmpne rd rs1 rs2 s
  | .vcmplt rd rs1 rs2 => Sys2Proof.Machine.execVcmplt rd rs1 rs2 s
  | .vcmple rd rs1 rs2 => Sys2Proof.Machine.execVcmple rd rs1 rs2 s
  | .vcvt code rd rs1 => Sys2Proof.Machine.execVcvt code rd rs1 s
  | .mand rd rs1 rs2 => Sys2Proof.Machine.execMand rd rs1 rs2 s
  | .mor rd rs1 rs2 => Sys2Proof.Machine.execMor rd rs1 rs2 s
  | .mnot rd rs1 => Sys2Proof.Machine.execMnot rd rs1 s
  | .mpop rd rs1 => Sys2Proof.Machine.execMpop rd rs1 s
  | .vldx rd rs1 rs2 => Sys2Proof.Machine.execVldx rd rs1 rs2 s
  | .vstx rd rs1 rs2 => Sys2Proof.Machine.execVstx rd rs1 rs2 s
  | .vlds rd rs1 rs2 => Sys2Proof.Machine.execVlds rd rs1 rs2 s
  | .mxstrm p acc cb rs2 rs3 => Sys2Proof.Machine.execMxstrm p acc cb rs2 rs3 s
  | .mxldw cb rs2 => Sys2Proof.Machine.execMxldw cb rs2 s
  | .mxzero acc => Sys2Proof.Machine.execMxzero acc s
  | .mxwb cb acc rs2 => Sys2Proof.Machine.execMxwb cb acc rs2 s
  | .mxrd rd acc rs2 => Sys2Proof.Machine.execMxrd rd acc rs2 s
  | .mxwait rd => Sys2Proof.Machine.execMxwait rd s
  | .mxstat rd acc => Sys2Proof.Machine.execMxstat rd acc s
  | .smbind rs1 => Sys2Proof.Machine.execSmbind rs1 s
  | .smcommit rd rs1 rs2 => Sys2Proof.Machine.execSmcommit rd rs1 rs2 s
  | .smplay rs1 => Sys2Proof.Machine.execSmplay rs1 s
  | .smframe rd rs1 => Sys2Proof.Machine.execSmframe rd rs1 s
  | .smtrunc rd => Sys2Proof.Machine.execSmtrunc rd s
  | .smsnap rs1 => Sys2Proof.Machine.execSmsnap rs1 s
  | .smstat rd rs1 => Sys2Proof.Machine.execSmstat rd rs1 s
  | .smkv rd rs1 => Sys2Proof.Machine.execSmkv rd rs1 s
  | .phash rd rs1 rs2 => Sys2Proof.Machine.execPhash rd rs1 rs2 s
  | .pfxlook rd rs1 rs2 => Sys2Proof.Machine.execPfxlook rd rs1 rs2 s
  | .pfxins rd rs1 rs2 => Sys2Proof.Machine.execPfxins rd rs1 rs2 s
  | .pfxpin rs1 => Sys2Proof.Machine.execPfxpin rs1 s
  | .pfxunpin rs1 => Sys2Proof.Machine.execPfxunpin rs1 s
  | .sdraw rd rs1 rs2 => Sys2Proof.Machine.execSdraw rd rs1 rs2 s
  | .topkmrg rd rs1 rs2 => Sys2Proof.Machine.execTopkmrg rd rs1 rs2 s
  | .treegen rd rs1 rs2 => Sys2Proof.Machine.execTreegen rd rs1 rs2 s
  | .daccept rd rs1 rs2 => Sys2Proof.Machine.execDaccept rd rs1 rs2 s
  | .ecall => Sys2Proof.Machine.execEcall s
  | .ebreak => Sys2Proof.Machine.execEbreak s
  | .mret => Sys2Proof.Machine.execMret s
  | .wfi => Sys2Proof.Machine.execWfi s
  | .shield => Sys2Proof.Machine.execShield s
  | .shieldV1V2 => Sys2Proof.Machine.execShieldV1V2 s
  | .unshield => Sys2Proof.Machine.execUnshield s
  | .unshieldV1V2 => Sys2Proof.Machine.execUnshieldV1V2 s
  | .chkc => Sys2Proof.Machine.execChkc s
  | .chkcV1V2 => Sys2Proof.Machine.execChkcV1V2 s
  | .exit => Sys2Proof.Machine.execExit s
  | .exitV1V2 => Sys2Proof.Machine.execExitV1V2 s
  | .yield => Sys2Proof.Machine.execYield s
  | .yieldV1V2 => Sys2Proof.Machine.execYieldV1V2 s
  | .mxswap => Sys2Proof.Machine.execMxswap s
  | .waitReevaluate => Sys2Proof.Machine.execWaitReevaluate s
  | .waitTimeout => Sys2Proof.Machine.execWaitTimeout s
  | .issueStallEnd => Sys2Proof.Machine.execIssueStallEnd s
  | .sliceExpiry => Sys2Proof.Machine.execSliceExpiry s
  | .parkedWake => Sys2Proof.Machine.execParkedWake s
  | .watchdog => Sys2Proof.Machine.execWatchdog s
  | .matrixOperandDelivery => Sys2Proof.Machine.execMatrixOperandDelivery s
  | .latlimExpiry => Sys2Proof.Machine.execLatlimExpiry s
  | .taskDispatch => Sys2Proof.Machine.execTaskDispatch s
  | .tscRestart => Sys2Proof.Machine.execTscRestart s
  | .copyPieceWrite => Sys2Proof.Machine.execCopyPieceWrite s
  | .copyFinish => Sys2Proof.Machine.execCopyFinish s
  | .weevilSliceCopy => Sys2Proof.Machine.execWeevilSliceCopy s
  | .weevilPassEnd => Sys2Proof.Machine.execWeevilPassEnd s
  | .flipWindowClose => Sys2Proof.Machine.execFlipWindowClose s
  | .relocAbandon => Sys2Proof.Machine.execRelocAbandon s
  | .arrayMxldwStart => Sys2Proof.Machine.execArrayMxldwStart s
  | .arrayMxldwSlot => Sys2Proof.Machine.execArrayMxldwSlot s
  | .arrayMxswapRun => Sys2Proof.Machine.execArrayMxswapRun s
  | .arrayMxzeroRun => Sys2Proof.Machine.execArrayMxzeroRun s
  | .arrayStreamHeadCheck => Sys2Proof.Machine.execArrayStreamHeadCheck s
  | .arrayRowEnter => Sys2Proof.Machine.execArrayRowEnter s
  | .arrayRowUpdate => Sys2Proof.Machine.execArrayRowUpdate s
  | .arrayMxwbRow => Sys2Proof.Machine.execArrayMxwbRow s
  | .arrayCancelStop => Sys2Proof.Machine.execArrayCancelStop s
  | .arrayPoisonFault => Sys2Proof.Machine.execArrayPoisonFault s
  | .translationWalk => Sys2Proof.Machine.execTranslationWalk s
  | .weightReturn => Sys2Proof.Machine.execWeightReturn s
  | .trackerReturn => Sys2Proof.Machine.execTrackerReturn s
  | .cancelMessageArrive => Sys2Proof.Machine.execCancelMessageArrive s
  | .thresholdSample => Sys2Proof.Machine.execThresholdSample s
  | .kilnTake => Sys2Proof.Machine.execKilnTake s
  | .launch => Sys2Proof.Machine.execLaunch s
  | .launchPlace => Sys2Proof.Machine.execLaunchPlace s
  | .completionPost => Sys2Proof.Machine.execCompletionPost s
  | .kill => Sys2Proof.Machine.execKill s
  | .waitToken => Sys2Proof.Machine.execWaitToken s
  | .createHeap => Sys2Proof.Machine.execCreateHeap s
  | .destroyHeap => Sys2Proof.Machine.execDestroyHeap s
  | .createStream => Sys2Proof.Machine.execCreateStream s
  | .destroyStream => Sys2Proof.Machine.execDestroyStream s
  | .aspaceSet => Sys2Proof.Machine.execAspaceSet s
  | .aspaceInval => Sys2Proof.Machine.execAspaceInval s
  | .threshold => Sys2Proof.Machine.execThreshold s
  | .setClock => Sys2Proof.Machine.execSetClock s
  | .groupSet => Sys2Proof.Machine.execGroupSet s
  | .groupCancelReceive => Sys2Proof.Machine.execGroupCancelReceive s
  | .clockStallEnd => Sys2Proof.Machine.execClockStallEnd s
  | .notifyWrite => Sys2Proof.Machine.execNotifyWrite s
  | .cheadWrite => Sys2Proof.Machine.execCheadWrite s
  | .queueEnable => Sys2Proof.Machine.execQueueEnable s
  | .queueDisable => Sys2Proof.Machine.execQueueDisable s
  | .tokenCounterWrite => Sys2Proof.Machine.execTokenCounterWrite s
  | .deviceEventClear => Sys2Proof.Machine.execDeviceEventClear s
  | .registerWrite => Sys2Proof.Machine.execRegisterWrite s
  | .flr => Sys2Proof.Machine.execFlr s
  | .stopInterface => Sys2Proof.Machine.execStopInterface s
  | .ideFailure => Sys2Proof.Machine.execIdeFailure s
  | .tdispLock => Sys2Proof.Machine.execTdispLock s
  | .deviceReset => Sys2Proof.Machine.execDeviceReset s
  | .lifecycleProvision => Sys2Proof.Machine.execLifecycleProvision s
  | .lifecycleDeploy => Sys2Proof.Machine.execLifecycleDeploy s
  | .lifecycleReturn => Sys2Proof.Machine.execLifecycleReturn s
  | .lifecycleReprovision => Sys2Proof.Machine.execLifecycleReprovision s
  | .spdmVersion => Sys2Proof.Machine.execSpdmVersion s
  | .spdmCapabilities => Sys2Proof.Machine.execSpdmCapabilities s
  | .spdmAlgorithms => Sys2Proof.Machine.execSpdmAlgorithms s
  | .spdmDigests => Sys2Proof.Machine.execSpdmDigests s
  | .spdmCertificate => Sys2Proof.Machine.execSpdmCertificate s
  | .spdmChallenge => Sys2Proof.Machine.execSpdmChallenge s
  | .spdmMeasurements => Sys2Proof.Machine.execSpdmMeasurements s
  | .spdmKeyExchange => Sys2Proof.Machine.execSpdmKeyExchange s
  | .kilnTakeover => Sys2Proof.Machine.execKilnTakeover s
  | .kilnScrub => Sys2Proof.Machine.execKilnScrub s
  | .kilnReload => Sys2Proof.Machine.execKilnReload s
  | .tileMapout => Sys2Proof.Machine.execTileMapout s
  | .patrolScrub => Sys2Proof.Machine.execPatrolScrub s
  | .remoteAck => Sys2Proof.Machine.execRemoteAck s
  | .remoteTimeout => Sys2Proof.Machine.execRemoteTimeout s
  | .linkFailure => Sys2Proof.Machine.execLinkFailure s
  | .timeFlit => Sys2Proof.Machine.execTimeFlit s
  | .tempPowerSample => Sys2Proof.Machine.execTempPowerSample s
  | .thermalStepUp => Sys2Proof.Machine.execThermalStepUp s
  | .thermal => Sys2Proof.Machine.execThermal s
  | .trip => Sys2Proof.Machine.execTrip s
  | .attach => Sys2Proof.Machine.execAttach s
  | .detach => Sys2Proof.Machine.execDetach s
  | .halt => Sys2Proof.Machine.execHalt s
  | .resume => Sys2Proof.Machine.execResume s
  | .step => Sys2Proof.Machine.execStep s
  | .setbp => Sys2Proof.Machine.execSetbp s
  | .setwp => Sys2Proof.Machine.execSetwp s
  | .read => Sys2Proof.Machine.execRead s
  | .write => Sys2Proof.Machine.execWrite s
  | .scope => Sys2Proof.Machine.execScope s
  | .mem => Sys2Proof.Machine.execMem s
  | .events => Sys2Proof.Machine.execEvents s
  | .remoteOperationArrive => Sys2Proof.Machine.execRemoteOperationArrive s
  | .cxlMemAccess => Sys2Proof.Machine.execCxlMemAccess s

end Sys2Proof.Machine
end

