-- ==== Sys2Proof/Machine/Units.lean ====
section
/-! DEFINITION. Instructions that act on units of other dies (R9, R13): the home of a scope, of a task, of a
descriptor, of a stream, the prefix table on D0, a thread's tile.  While a link between the issuing die and such
a unit stalls, the instruction is stalled at issue, without any effect (R13, R373).  What an instruction's own
memory accesses reach is checked with the access. -/

namespace Sys2Proof.Machine
namespace State

/-- Is a die behind a stalled link? -/
def far (s : State) (th : Thread) (d : Nat) : Bool := !s.linkOpen (tileDie th.tile) d
/-- Is the home of a handle's scope far (R26)? -/
def farScope (s : State) (th : Thread) (k : KReg) : Bool :=
  (th.rk k).kind != .empty && s.far th (scopeDie (th.rk k).sid)
/-- Is the home of a handle far that gives birth from a weight of 1, which asks it for more (R30)? -/
def farBirth (s : State) (th : Thread) (k : KReg) : Bool := (th.rk k).weight == 1 && s.farScope th k
/-- Is the home of a task far: its cluster (R182)? -/
def farTask (s : State) (th : Thread) (a : VWord 64) : Bool :=
  !a.void && (match s.task? a.val.toNat with | some x => s.far th (x.cluster / 16) | none => false)
/-- Is the tile of a thread far, or the home of the sender's scope, for a message (R190, R191)? -/
def farMsg (s : State) (th : Thread) (d a : VWord 64) : Bool :=
  !(d.void || a.void) && (s.farBirth th 0 ||
    (match s.byTid d.val.toNat with | some (_, rt) => s.far th (tileDie rt.tile) | none => false))
/-- Is the home of a reference's descriptor far, for an access that goes there (R219)? -/
def farHome (s : State) (th : Thread) (r : Word) : Bool :=
  match s.refTarget r with
  | some (h, i) => s.far th (descDie h i)
  | none => false
/-- The same for an access through the cluster's cache, which goes there on a miss, and, where it stores, to an
object that is being relocated (R220, R222, R306). -/
def farRef (s : State) (th : Thread) (r : Word) (store : Bool) : Bool :=
  s.farHome th r && (match (s.cluster (tileCluster th.tile)).cache.find? (fun e => e.1 == (refHeap r, refIndex r)) with
    | some (_, d) => store && d.state != 1
    | none => true)
/-- The same for the weak reference that QLDQ may have loaded (R221). -/
def farLoaded (s : State) (th : Thread) (r o : Word) : Bool :=
  match (s.resolve (tileCluster th.tile) r).1 with
  | .live _ _ d => match s.readVal th (wOf (d.addr + o.toNat)) 8 .ref with
    | .ok v => refW (wOf v) && s.farRef th (wOf v) false
    | .error _ => false
  | _ => false
/-- Is the home of a heap's descriptors far, where QNEW takes one (R226)? -/
def farHeap (s : State) (th : Thread) (a c : VWord 64) : Bool :=
  !(a.void || c.void) && (match tfind s.heaps (fld c.val 59 52) with
    | some h => s.far th (h.table / dieRange)
    | none => false)
/-- Is the Tun of a stream far (R266)? -/
def farTun (s : State) (th : Thread) (id : Nat) : Bool := (s.stream? id).isSome && s.far th (streamDie id)
/-- Is the Tun of the bound stream far? -/
def farStream (s : State) (th : Thread) : Bool := s.farTun th th.stream.toNat
/-- Can the Tun not reach all of the bound stream's area, or the issuing tile its parts at a peer (R275)? -/
def farArea (s : State) (th : Thread) : Bool :=
  let id := th.stream.toNat
  match s.stream? id with
  | some st => s.far th (streamDie id) || s.farBirth th 0 || !(s.areaSegs th.tile id st).all (fun g => match g.peer with
      | none => s.homeOpen (streamDie id) g.at_
      | some _ => s.fabricOpen (tileDie th.tile))
  | none => false
/-- Does a stalled link keep the Tun of the bound stream from a tile, whose translations it drops when it maps or
withdraws a page (R61, R267)? -/
def farTiles (s : State) (th : Thread) : Bool :=
  (s.stream? th.stream.toNat).isSome && !s.allOpen (streamDie th.stream.toNat)
/-- Does a commit to the bound stream append a page (R270)? -/
def growsPage (s : State) (th : Thread) : Bool :=
  match s.stream? th.stream.toNat with | some st => st.g % 16 == 0 | none => false
/-- Does a stalled link keep the home of a reference's descriptor from a cluster's cache (R306)? -/
def farCaches (s : State) (r : Word) : Bool :=
  match s.refTarget r with
  | some (h, i) => !s.allOpen (descDie h i)
  | none => false
/-- Is D0 far, which holds the prefix table (R278)? -/
def farPfx (s : State) (th : Thread) : Bool := s.far th 0
/-- A CSR write to STREAM is an SMBIND (R159). -/
def farCsr (s : State) (th : Thread) (csr : BitVec 12) (v : Word) : Bool :=
  csr == 0x80A && s.farTun th (fld v 31 0)
/-- Is the tile or cluster that a placement word names far, or the home of the newborn's scope (R180, R181)? -/
def farSpawn (s : State) (th : Thread) (k : KReg) (p : VWord 64) : Bool :=
  !p.void && (s.farBirth th k || ((plMode p.val == 1 || plMode p.val == 2) && s.far th (tileDie (plTile p.val))))

/-- Does an instruction act on a unit behind a stalled link (R13)?  One that diverts at its cancellation point
does not. -/
def unitsHeld (s : State) (th : Thread) (i : Instr) : Bool :=
  match i with
  | .sopen _ k => !s.diverts th && (s.farScope th k ||
      (match s.pickScope (tileDie th.tile) with | some rec => s.far th (rec / 65536) | none => false))
  | .sclose _ k => !s.diverts th && s.farScope th k
  | .sclosea k | .scloseaV2 k => (th.rk k).kind == .opener && s.farScope th k
  | .senter _ r | .senterV2 _ r => !(th.rx r).void && s.far th (scopeDie (th.rx r).val.toNat)
  | .scancel k | .scancelV1V2 k => s.farScope th k ||
      ((th.rk k).kind != .empty && s.treeHeld (tileDie th.tile) (th.rk k).sid)
  | .succeed _ | .succeedV1V2 _ => s.farScope th 0 ||
      s.othersHeld (tileDie th.tile) th.sid0 ((s.cur.map th.tid).getD 0)
  | .exit | .exitV1V2 => s.handlesFar th
  | .sstat _ k | .sstatV1V2 _ k => s.farScope th k
  | .spawn _ _ _ r => !s.diverts th && s.farSpawn th 0 (th.rx r)
  | .spawnIn k _ _ r => !s.diverts th && s.farSpawn th k (th.rx r)
  | .tsknew _ a c => !((th.rx a).void || (th.rx c).void) &&
      (s.farBirth th 0 || s.far th (fld (th.rx c).val 21 16 / 16))
  | .tskpub r | .tsksig r | .tskstat _ r => s.farTask th (th.rx r)
  | .msend d a | .msend4 d a => s.farMsg th (th.rx d) (th.rx a)
  | .qld _ q o | .qldw _ q o => !(th.rx o).void && s.farRef th (th.rq q) false
  | .qldq _ q o => !(th.rx o).void && (s.farRef th (th.rq q) false || s.farLoaded th (th.rq q) (th.rx o).val)
  | .qst o q v | .qstw o q v => !((th.rx o).void || (th.rx v).void) && s.farRef th (th.rq q) true
  | .qstq o q _ => !(th.rx o).void && s.farRef th (th.rq q) true
  | .qpin _ q => s.farHome th (th.rq q) || s.farBirth th 0
  | .qunpin q => s.farHome th (th.rq q)
  | .reloc _ q a => !(th.rx a).void && (s.farHome th (th.rq q) || ((th.rx a).val != 1 && s.farCaches (th.rq q)))
  | .qnew _ a c => s.farHeap th (th.rx a) (th.rx c)
  | .smbind a => !(th.rx a).void && s.farTun th (th.rx a).val.toNat
  | .csrrw _ r c | .csrrs _ r c | .csrrc _ r c => !(th.rx r).void && s.farCsr th c (th.rx r).val
  | .csrrwi _ v c | .csrrsi _ v c | .csrrci _ v c => s.farCsr th c (v.setWidth 64)
  | .smcommit _ _ _ => s.farStream th || (s.growsPage th && s.farTiles th)
  | .smplay _ | .smstat _ _ | .smkv _ _ => s.farStream th
  | .smframe _ _ | .smtrunc _ => s.farArea th || s.farTiles th
  | .smsnap _ => s.farArea th
  | .pfxlook _ _ _ | .pfxpin _ | .pfxunpin _ => s.farPfx th
  | .pfxins _ _ _ => s.farPfx th || s.farStream th || s.farTiles th
  | _ => false

end State
end Sys2Proof.Machine
end

