-- ==== Sys2Proof/Machine/Run.lean ====
section
/-! DEFINITION. Running a fetched word: decode it and execute it, or raise what an unassigned word
raises (R366). -/

namespace Sys2Proof.Machine

/-- The device after an instruction or event, or the stop it came to. -/
def andThen (o : Out) (k : State → State) : Out :=
  match o with
  | .next s => .next (k s)
  | .fault r => .fault r
  | .refused r => .refused r

/-- Does an instruction end its thread without a fault (R178)? -/
def exits : Instr → Bool
  | .exit | .exitV1V2 => true
  | _ => false
/-- What an instruction came to for thread `t`.  While a link holds back the scope fault that ended the thread,
it is stalled at issue, and raises the fault again (R13, R364, log 47). -/
def unlessHeld (o : Out) (s : State) (t : Nat) (th : Thread) : Out :=
  andThen o (fun s' => s.orHeld s' t th (s.stall t th))
/-- An instruction for thread `t` that waits at issue while a unit it acts on is behind a stalled link. -/
def runInstr (i : Instr) (s : State) (t : Nat) (th : Thread) : Out :=
  if s.unitsHeld th i then .next (s.stall t th)
  else if exits i then exec i s else unlessHeld (exec i s) s t th
/-- Execute an instruction, or answer what the absence of one comes to. -/
def runOr (i : Option Instr) (s bad : State) (t : Nat) (th : Thread) : Out :=
  match i with
  | some i => runInstr i s t th
  | none => unlessHeld (.next bad) s t th

/-- Execute a fetched word for thread `t`. -/
noncomputable def runWord (v : Version) (w : W32) (s : State) (t : Nat) (th : Thread) : Out :=
  runOr (decode v w) s ({ s with cur := none }.unassigned t th w) t th

/-! What compiled code runs instead, and why it is the same: the terms of three instructions of the
draw group cannot be built in compiled code, so it calls their meanings from the fields. -/

/-- A word of the draw group, for compiled code. -/
def runDraw (v : Version) (w : W32) (s bad : State) (t : Nat) (th : Thread) : Out :=
  unlessHeld (match fF7 w with
  | 0 => execSdraw (fRd w) (fRs1 w) (fRs2 w) s
  | 1 => execTopkmrg (fRd w) (fRs1 w) (fRs2 w) s
  | 2 => if v = .v3 then execTreegen (fRd w) (fRs1 w) (fRs2 w) s else .next bad
  | 3 => if v = .v3 then execDaccept (fRd w) (fRs1 w) (fRs2 w) s else .next bad
  | _ => .next bad) s t th

theorem runDraw_eq (v : Version) (w : W32) (s bad : State) (t : Nat) (th : Thread) :
    runOr ((decodeDraw w).filter (fun i => i.wf && i.inVersion v)) s bad t th = runDraw v w s bad t th := by
  unfold runDraw decodeDraw
  dsimp only
  generalize fF7 w = f
  split <;> first
    | (cases v <;> rfl)
    | (split <;> first | (cases v <;> rfl) | (exfalso; simp_all))

/-- `runWord` for compiled code. -/
def runWordC (v : Version) (w : W32) (s : State) (t : Nat) (th : Thread) : Out :=
  let bad := { s with cur := none }.unassigned t th w
  if drawWord w then runDraw v w s bad t th else runOr (decodeRest v w) s bad t th

@[csimp] theorem runWord_eq : runWord = runWordC := by
  funext v w s t th
  unfold runWord runWordC
  by_cases h : drawWord w = true
  · rw [decode_of_draw v w h, runDraw_eq]; dsimp only; rw [if_pos h]
  · rw [decode_of_rest v w (by simpa using h)]; dsimp only; rw [if_neg h]

end Sys2Proof.Machine
end

