-- ==== Sys2Proof/Machine/Step.lean ====
section
/-! DEFINITION. One step of the device: the next turn of the schedule (log 1), and how a word is put
where the next step fetches. -/

namespace Sys2Proof.Machine

/-- A thread's attempt to issue: what it takes instead of an instruction, or the instruction at pc.  A scope
fault waits for stalled links (R13). -/
def attempt (s : State) (t : Nat) (th : Thread) : Out :=
  match s.issueThread t th with
  | .error s1 => .next (s.orHeld s1 t th (s.stall t th))
  | .ok (w, s1) => runWord th.ver w s1 t th
/-- A core tries its contexts in rotation: one whose thread is stalled at issue is passed over in the same turn,
and the first that is not is remembered (R299). -/
def issueGo : Nat → State → Nat → CoreClass → Out
  | 0, s, _, _ => .next s
  | n + 1, s, l, c => match s.pick l c with
    | none => .next s
    | some (x, t, th) => match attempt s t th with
      | .next s1 =>
        if s1.passedOver t then issueGo n (s1.afterIssue t th) l c
        else .next ((s1.issued l c x t).afterIssue t th)
      | .fault r => .fault r
      | .refused r => .refused r
/-- A core's turn: each of its four contexts has at most one attempt. -/
def issueTurn (s : State) (l : Nat) (c : CoreClass) : Out := issueGo 4 s l c

/-- An event's turn: the step it names, on the input it brings. -/
def eventTurn (s : State) (i : Instr) (inp : Input) : Out :=
  if i.isEvent then andThen (exec i { s with input := inp }) (fun s => { s with input := .none })
  else .next s

/-- One step: the first turn of the schedule; with none left, a fair round is drawn up. -/
def step (s : State) : Host.Outcome State Fault Refusal :=
  match s.agenda with
  | [] => .next { s with agenda := s.plan }
  | .issue l c :: rest => issueTurn { s with agenda := rest } l c
  | .event i inp :: rest => eventTurn { s with agenda := rest } i inp
  | .debug f :: rest => .next ({ s with agenda := rest }.debugTurn f)
  | .tick n :: rest => .next ({ s with agenda := rest }.tick n)
  | .hostStore a bs :: rest => .next ({ s with agenda := rest }.hostWrite a bs)

/-- Virtual and physical address of the page the host's probe word stands in. -/
def probeVa : Nat := 0x100000000
def probePa : Nat := 0x10000

/-- The device with the instruction `w` where the next step fetches (log 6): a word of device memory,
a buffered leaf that maps its page, and a user thread in context 0 of the compute core of tile 0, alone
in a scope, whose core has the next turn. -/
def State.withFetchWord (s : State) (nbits w : Nat) : State :=
  let word := BitVec.ofNat 32 (w % 2 ^ nbits)
  let th := State.freshThread (wOf probeVa) (tableVersion word)
  let c : Scope := ⟨1, .closing, 0, 1, 0x10000000000, false, false, 0, false, 0, 0, 0, false, false, 0, 0, 0⟩
  let s : State := { s with scopes := tset s.scopes 0 c, cur := none, agenda := [.issue 0 .compute] }
  let x := s.tile 0
  let s : State := s.setTile 0 { x with
    tlb := ⟨0, probeVa, 65536, wOf (probePa + 0x3F)⟩ :: x.tlb
    lastCtx := (x.lastCtx.1, 3) }
  (s.setTh 0 th).putNum probePa 4 word.toNat

end Sys2Proof.Machine
end

