-- ==== Sys2Proof/Machine/HostRead.lean ====
section
/-! DEFINITION. What the host reads in BAR0 of a function: queue registers (R328), token counters (R332), the
capability block (R335), time (R338), KVDROP (R396), the error block (R406) and device events (R409).  A
read changes nothing. -/

namespace Sys2Proof.Machine

def qstateCode : QState → Nat
  | .disabled => 0 | .active => 1 | .error => 2
/-- A register of a queue's block (R328). -/
def Queue.readAt (x : Queue) (r : Nat) : Word :=
  if r = 0x00 then x.qbase ||| bit01 x.loc
  else if r = 0x08 then x.cbase
  else if r = 0x10 then
    wOf (x.vector * 2 ^ 24 + (if x.enable then 2 ^ 16 else 0) + x.prio * 2 ^ 8 + x.log2n)
  else if r = 0x18 then x.notify.setWidth 64
  else if r = 0x20 then x.ridx.setWidth 64
  else if r = 0x28 then x.cwidx.setWidth 64
  else if r = 0x30 then x.chead.setWidth 64
  else if r = 0x38 then wOf (qstateCode x.state)
  else 0

namespace State

/-- QERR of a function: its queues in ERROR (R406). -/
def qerr (s : State) (f : Nat) : Nat :=
  ((List.range 16).map (fun i => if (s.queue (16 * f + i)).state = .error then 2 ^ i else 0)).sum
/-- Word k of function 0's capability block (R335). -/
def capWord (s : State) (k : Nat) : Word :=
  if k = 0 then s.capWord0 else if k = 1 then s.capWord1
  else if 8 ≤ k ∧ k < 24 then s.capBitmap (k - 8) else 0

/-- The 64-bit register at an offset of function f's BAR0.  A device that did not boot exposes none, and TILES reads 0
(R417). -/
def readReg (s : State) (f off : Nat) : Word :=
  if !s.booted then 0
  else if 0x1000 ≤ off ∧ off < 0x1400 then (s.queue (16 * f + (off - 0x1000) / 64)).readAt (off % 64)
  else if 0x2000 ≤ off ∧ off < 0x2800 then ((tfind (s.func f).tokens ((off - 0x2000) / 8)).getD 0).setWidth 64
  else if off = 0x0B00 then wOf ((s.func f).dropNotify * 2 ^ 32 + (s.func f).refused)
  else if off = 0x0B08 then wOf (s.qerr f)
  else if f ≠ 0 then 0
  else if 0x0800 ≤ off ∧ off < 0x08C0 then s.capWord ((off - 0x0800) / 8)
  else if off = 0x0900 then wOf s.time
  else if 0x0A00 ≤ off ∧ off < 0x0A20 then wOf (s.die ((off - 0x0A00) / 8)).kvdrop
  else if off = 0x0C00 then s.devEvents.setWidth 64
  else 0

end State
end Sys2Proof.Machine
end

