-- ==== Sys2Proof/Safety.lean ====
section
/-! DEFINITION. What counts as a safe run, and the words in which claims are stated: which thread executes,
how an instruction completes, is nullified, diverts or begins a wait, and what a store leaves in memory. -/

namespace Sys2Proof.Machine

/-- A step that answers a next state: the machine neither faults nor refuses. -/
def Goes (s t : State) : Prop := step s = .next t

/-- A state that some steps lead to. -/
inductive Reaches : State → State → Prop where
  | refl (s : State) : Reaches s s
  | tail {s t u : State} : Reaches s t → Goes t u → Reaches s u

/-- Memory keeps its canonical form (log 3). -/
def State.memOk (s : State) : Prop := Memory.wf s.mem = true

/-! ### How a thread's instruction ends -/

/-- Thread `t`, whose record is `th`, executes. -/
def Executing (s : State) (t : Nat) (th : Thread) : Prop := s.cur = some t ∧ s.thread? t = some th

/-- The instruction completes: thread `t` goes on at the next instruction with record `th`, and nothing else
of the device changes. -/
def goesOn (s : State) (t : Nat) (th : Thread) : Out :=
  .next { s with threads := tset s.threads t { th with
    pc := th.pc + 4, stalled := false, peer := [], skipCheck := false } }

/-- The instruction is nullified: the x destination becomes VOIDWORD, VOIDSEEN bits are set (R149). -/
def voidsX (s : State) (t : Nat) (th : Thread) (rd : XReg) (bits : BitVec 6) : Out :=
  goesOn s t { th.wx rd ⟨0, true⟩ with voidseen := th.voidseen ||| bits }

/-- The same for an f destination. -/
def voidsF (s : State) (t : Nat) (th : Thread) (rd : FReg) (bits : BitVec 6) : Out :=
  goesOn s t { th.wf rd ⟨0, true⟩ with voidseen := th.voidseen ||| bits }

/-- The same without a destination. -/
def voids (s : State) (t : Nat) (th : Thread) (bits : BitVec 6) : Out :=
  goesOn s t { th with voidseen := th.voidseen ||| bits }

/-- Control goes to `target` with record `th'`; a target that is not a multiple of 4 raises cause 0 with
UTVAL the target instead (R140). -/
def goesTo (s : State) (t : Nat) (th th' : Thread) (target : Word) : Out :=
  if target.toNat % 4 = 0 then
    .next { s with threads := tset s.threads t { th' with
      pc := target, stalled := false, peer := [], skipCheck := false } }
  else .next (s.trap t th 0 target)

/-- One byte of the memories, at a location. -/
def byteAt (s : State) (a : Nat) : Byte := Memory.read s.mem a

/-- The little-endian number in n bytes at a location (R1). -/
def leAt (s : State) (a n : Nat) : Nat := ((List.range n).map (fun i => (byteAt s (a + i)).toNat * 256 ^ i)).sum

/-- `s'` is `s` with the n little-endian bytes of `v` at location `x`: no other byte and no other part of the
device changes, and the memory keeps its canonical form. -/
def Stored (s s' : State) (x n v : Nat) : Prop :=
  s' = { s with mem := s'.mem } ∧ s'.memOk ∧
  ∀ a, byteAt s' a = if x ≤ a ∧ a < x + n then BitVec.ofNat 8 (v / 256 ^ (a - x)) else byteAt s a

/-- fflags with more flags accrued. -/
def accrues (th : Thread) (fl : BitVec 5) : Thread := { th with fflags := th.fflags ||| fl }

/-- A thread past a cancellation point: its watchdog restarts and its fault service ends (R373, R375). -/
def seen (th : Thread) : Thread := { th with watch := 0, service := false }

/-- The thread diverts to CLAND; the instruction has no other effect (R36). -/
def divertsTo (s : State) (t : Nat) (th : Thread) : Out :=
  let th' : Thread := { seen th with
    pc := th.cland, wait := none, stalled := false, peer := [], skipCheck := false }
  .next (s.setTh t th')

/-- The thread waits: it is WAITING for `k` since now, with nothing else changed but what the cancellation
point did. -/
def waitsFor (s : State) (t : Nat) (th : Thread) (k : WaitKind) (rd : XReg) : Out :=
  let th' : Thread := { th with wait := some ⟨k, rd, s.time⟩, stalled := false, peer := [] }
  .next (s.setTh t th')

/-- Store words at locations, each with the page it belongs to. -/
def storedAt (s : State) (th : Thread) (n : Nat) (ps : List (Nat × Word × Word)) : State :=
  ps.foldl (fun s p => (s.touched th true [p.2.1]).putNum p.1 n p.2.2.toNat) s

/-- Nothing but the mark that thread `t` waits at issue. -/
def stallsHere (s : State) (t : Nat) (th : Thread) : Out := .next (s.setTh t { th with stalled := true })

end Sys2Proof.Machine
end

