-- ==== Sys2Proof/Certificates/Slice0/Obligations.lean ====
section
/-! DEFINITION. The statements for the provers, from the numbered rules of spec/ (R<n>), and the tables they
are stated in: one of results or forms for each group of instructions, written from the manual and not from the
model.  The words every statement uses (`Executing`, `goesOn`, `voids`, `Stored`, …) are in Sys2Proof.Safety. -/

namespace Sys2Proof.Machine

/-! ### Words of the statements -/

/-- Does a release at a reach wait: at FABRIC (4) or SYSTEM (5) some write at a peer has not landed (R68, R83)? -/
def Held (s : State) (reach : Nat) : Prop := 4 ≤ reach ∧ ∃ m ∈ s.remotes, ∃ bs, m.kind = .store bs

/-! ### Faults behind a stalled link -/

/-- Thread `t`, whose record was `th`, has ended in `s'` by a fault, and its cancellation, or in machine mode the
map-out of its tile, waits in `s` for a stalled link (R13, R364, R413, log 47). -/
def HeldBack (s s' : State) (t : Nat) (th : Thread) : Prop :=
  (∀ y, s'.thread? t = some y → y.ending = true) ∧
  (if th.mode = .machine then s.mapHeld th.tile else s.endHeld th) = true
/-- What thread `t` comes to is `s'`, or, while a link holds that back, a stall at issue. -/
def OrWaits (s s' : State) (t : Nat) (th : Thread) (comes : Out → Prop) : Prop :=
  (¬HeldBack s s' t th → comes (.next s')) ∧ (HeldBack s s' t th → comes (stallsHere s t th))

/-! ### Posts to the host port on D0 (R13, R409, R418, R420) -/

/-- A post of die d arrives, as `here` has it, while no clock step stalls the way to the port on D0; else it waits. -/
def posted (s : State) (d : Nat) (p : Post) (here : State) : State :=
  if s.hostLink d then here else { s with posts := s.posts ++ [(d, p)] }
/-- Bit b of the device event register is set, and vector 0 of function 0 signalled (R409); on its way from die d it
is not sent twice. -/
def raises (s : State) (d b : Nat) : State :=
  if (d, Post.event b) ∈ s.posts then s
  else posted s d (.event b) { s with devEvents := s.devEvents ||| BitVec.ofNat 8 (2 ^ b), sent := .msix 0 0 :: s.sent }
/-- MSI-X vector v of function f is signalled. -/
def signals (s : State) (d f v : Nat) : State := posted s d (.msix f v) { s with sent := .msix f v :: s.sent }
/-- A halt event of function f's session, and its vector (R420). -/
def halts (s : State) (d f tid : Nat) (why : HaltReason) : State :=
  posted s d (.halted f tid why) (match (s.func f).session with
    | none => s
    | some ss => { s.setFunc f { s.func f with session := some { ss with events := ss.events ++ [(tid, why)] } } with
        sent := .msix f ss.vector :: s.sent })

/-! ### Halts (R421 to R424) -/

/-- A thread as a halt leaves it, and as the debugger lets it go (R422 to R424). -/
def heldAs (th : Thread) (why : HaltReason) (f : Nat) : Thread :=
  { th with halted := some why, haltedBy := f, halting := false, stalled := false, skipCheck := true, stepping := none
            peer := [] }
def letGo (th : Thread) : Thread := { th with halted := none, halting := false }
/-- HALT of a thread for function f: one that is halted or ends stays as it is, one with operations at a peer halts at
its next boundary, and any other halts at once, in its wait; a steal it waits for is asked anew (R187, R424, log 20). -/
def Halts (f : Nat) (th th' : Thread) : Prop :=
  let out := th.wait = none ∧ (th.remoteOut.isSome = true ∨ th.peer ≠ [])
  let steals := ∃ l rd t0, th.wait = some ⟨.steal l, rd, t0⟩
  (th.halted.isSome = true ∨ th.ending = true → th' = th) ∧
  (th.halted = none → th.ending = false →
    (out → th' = { th with halting := true, haltedBy := f }) ∧
    (¬out → steals → th' = heldAs { th with wait := none } .request f) ∧
    (¬out → ¬steals → th' = heldAs th .request f))
/-- Weight that the instruction's reads at peers took from k0 (R31). -/
def readsTook (th : Thread) : Nat := ((th.peer.filter (fun v => !v.amo)).map (·.weight)).sum
/-- A hit leaves its instruction no effect: that weight, which went home with the answers, is in k0 again and in O of
its scope (R31, R422). -/
def unread (s : State) (th : Thread) : Thread × State :=
  match readsTook th, s.scope? th.sid0 with
  | 0, _ | _, none => (th, s)
  | w, some c => (th.wk 0 { th.rk 0 with weight := (th.rk 0).weight + w }, s.setScope th.sid0 { c with o := c.o + w })
/-- A hit of thread `t`: it halts with its pc at the instruction, the event is posted in the session of function f, and
nothing else changes (R422). -/
def haltsAt (s : State) (t : Nat) (th : Thread) (why : HaltReason) (f : Nat) : State :=
  let (th, s) := unread s th
  halts (s.setTh t (heldAs th why f)) (tileDie th.tile) f (th.tid t) why
/-- What a hit comes to (R421, R424): with ACTION 0 that halt; with ACTION 1 every other thread of its scope and below
is halted too.  While one of them, or what it gives back, is behind a stalled link the instruction waits at issue
(R13, log 47). -/
def HitAt (s : State) (t : Nat) (th : Thread) (why : HaltReason) (whole : Bool) (f : Nat) (comes : Out → Prop) : Prop :=
  let d := tileDie th.tile
  let far := (readsTook th ≠ 0 ∧ s.linkOpen d (scopeDie th.sid0) = false) ∨ (whole = true ∧ s.haltFar d th.sid0 = true)
  (far → comes (stallsHere s t th)) ∧
  (¬far → whole = false → comes (.next (haltsAt s t th why f))) ∧
  (¬far → whole = true → (s.threads.map (·.1)).Nodup → ∃ s' : State,
    comes (.next s') ∧ s'.thread? t = some (heldAs (unread s th).1 why f) ∧ s'.mem = s.mem ∧
    (∀ k x, k ≠ t → s.thread? k = some x → ∃ x', s'.thread? k = some x' ∧
      if s.under th.sid0 256 x.sid0 then Halts f x x' else x' = x) ∧
    (s'.posts = if s.hostLink d then s.posts else s.posts ++ [(d, .halted f (th.tid t) why)]) ∧
    ∀ ss, (s.func f).session = some ss →
      s'.dbgScopes = (f, th.sid0, .halt) :: s.dbgScopes.filter (fun e => e != (f, th.sid0, ScopeEntry.halt)) ∧
      (s'.func f).session = some (if s.hostLink d then { ss with events := ss.events ++ [(th.tid t, why)] } else ss))
/-- Watchpoint i of the thread was hit (R422). -/
def WatchAt (s : State) (t : Nat) (th : Thread) (i : Nat) (comes : Out → Prop) : Prop :=
  ∀ h : i < 4, HitAt s t th (.watchpoint i) (th.wp[i].ctl.getLsbD 35) th.wpBy[i] comes

/-! ### Results of the scalar base -/

/-- 1 or 0. -/
def one (b : Prop) [Decidable b] : Word := if b then 1 else 0

/-- Register-register instructions on `a` and `b` (R140). -/
def rrResults (rd rs1 rs2 : XReg) (a b : Word) : List (Instr × Word) :=
  let k := b.toNat % 64
  [ (.add rd rs1 rs2, BitVec.ofNat 64 (a.toNat + b.toNat)),
    (.sub rd rs1 rs2, BitVec.ofInt 64 (a.toInt - b.toInt)),
    (.sll rd rs1 rs2, BitVec.ofNat 64 (a.toNat * 2 ^ k)),
    (.slt rd rs1 rs2, one (a.toInt < b.toInt)),
    (.sltu rd rs1 rs2, one (a.toNat < b.toNat)),
    (.xor rd rs1 rs2, a ^^^ b),
    (.srl rd rs1 rs2, BitVec.ofNat 64 (a.toNat / 2 ^ k)),
    (.sra rd rs1 rs2, BitVec.ofInt 64 (a.toInt / 2 ^ k)),
    (.or rd rs1 rs2, a ||| b),
    (.and rd rs1 rs2, a &&& b),
    (.mul rd rs1 rs2, BitVec.ofInt 64 (a.toInt * b.toInt)),
    (.mulh rd rs1 rs2, BitVec.ofInt 64 (a.toInt * b.toInt / 2 ^ 64)),
    (.mulhsu rd rs1 rs2, BitVec.ofInt 64 (a.toInt * (b.toNat : Int) / 2 ^ 64)),
    (.mulhu rd rs1 rs2, BitVec.ofNat 64 (a.toNat * b.toNat / 2 ^ 64)),
    (.div rd rs1 rs2, if b.toNat = 0 then BitVec.ofInt 64 (-1) else BitVec.ofInt 64 (a.toInt.tdiv b.toInt)),
    (.divu rd rs1 rs2, if b.toNat = 0 then BitVec.ofInt 64 (-1) else BitVec.ofNat 64 (a.toNat / b.toNat)),
    (.rem rd rs1 rs2, if b.toNat = 0 then a else BitVec.ofInt 64 (a.toInt.tmod b.toInt)),
    (.remu rd rs1 rs2, if b.toNat = 0 then a else BitVec.ofNat 64 (a.toNat % b.toNat)) ]

/-- The 32-bit result, sign-extended. -/
def sx (v : Int) : Word := (BitVec.ofInt 32 v).signExtend 64

/-- The W forms on the low words `a` and `b`. -/
def rrwResults (rd rs1 rs2 : XReg) (a b : W32) : List (Instr × Word) :=
  let k := b.toNat % 32
  [ (.addw rd rs1 rs2, sx (a.toInt + b.toInt)),
    (.subw rd rs1 rs2, sx (a.toInt - b.toInt)),
    (.sllw rd rs1 rs2, sx (a.toNat * 2 ^ k)),
    (.srlw rd rs1 rs2, sx (a.toNat / 2 ^ k : Nat)),
    (.sraw rd rs1 rs2, sx (a.toInt / 2 ^ k)),
    (.mulw rd rs1 rs2, sx (a.toInt * b.toInt)),
    (.divw rd rs1 rs2, if b.toNat = 0 then BitVec.ofInt 64 (-1) else sx (a.toInt.tdiv b.toInt)),
    (.divuw rd rs1 rs2, if b.toNat = 0 then BitVec.ofInt 64 (-1) else sx (a.toNat / b.toNat : Nat)),
    (.remw rd rs1 rs2, if b.toNat = 0 then sx a.toInt else sx (a.toInt.tmod b.toInt)),
    (.remuw rd rs1 rs2, if b.toNat = 0 then sx a.toInt else sx (a.toNat % b.toNat : Nat)) ]

/-- Register-immediate instructions on `a`; the immediate is sign-extended (R140). -/
def riResults (rd rs1 : XReg) (imm : BitVec 12) (sh : BitVec 6) (shw : BitVec 5) (a : Word) :
    List (Instr × Word) :=
  let m := imm.toInt
  let w : W32 := a.setWidth 32
  [ (.addi rd rs1 imm, BitVec.ofInt 64 (a.toInt + m)),
    (.slti rd rs1 imm, one (a.toInt < m)),
    (.sltiu rd rs1 imm, one (a.toNat < (BitVec.ofInt 64 m).toNat)),
    (.xori rd rs1 imm, a ^^^ BitVec.ofInt 64 m),
    (.ori rd rs1 imm, a ||| BitVec.ofInt 64 m),
    (.andi rd rs1 imm, a &&& BitVec.ofInt 64 m),
    (.slli rd rs1 sh, BitVec.ofNat 64 (a.toNat * 2 ^ sh.toNat)),
    (.srli rd rs1 sh, BitVec.ofNat 64 (a.toNat / 2 ^ sh.toNat)),
    (.srai rd rs1 sh, BitVec.ofInt 64 (a.toInt / 2 ^ sh.toNat)),
    (.addiw rd rs1 imm, sx (w.toInt + m)),
    (.slliw rd rs1 shw, sx (w.toNat * 2 ^ shw.toNat)),
    (.srliw rd rs1 shw, sx (w.toNat / 2 ^ shw.toNat : Nat)),
    (.sraiw rd rs1 shw, sx (w.toInt / 2 ^ shw.toNat)) ]

/-- Conditional branches and when they are taken. -/
def branchConds (rs1 rs2 : XReg) (imm : BitVec 12) (a b : Word) : List (Instr × Bool) :=
  [ (.beq rs1 rs2 imm, decide (a = b)), (.bne rs1 rs2 imm, decide (a ≠ b)),
    (.blt rs1 rs2 imm, decide (a.toInt < b.toInt)), (.bge rs1 rs2 imm, decide (b.toInt ≤ a.toInt)),
    (.bltu rs1 rs2 imm, decide (a.toNat < b.toNat)), (.bgeu rs1 rs2 imm, decide (b.toNat ≤ a.toNat)) ]

end Sys2Proof.Machine

open Sys2Proof Sys2Proof.Machine

/-- R140, R147, R150: every register-register instruction writes its result to rd, or VOIDWORD with VOIDSEEN.PROP when
a source is void, and changes nothing else; x0 discards (`Thread.wx`). R140, R150: the same for every
register-immediate instruction. -/
def Obligations.RegisterResults : Prop :=
  (∀ s t th rd rs1 rs2, Executing s t th →
    let a := th.rx rs1; let b := th.rx rs2
    ((a.void = false ∧ b.void = false) →
      ∀ p ∈ rrResults rd rs1 rs2 a.val b.val ++
          rrwResults rd rs1 rs2 (a.val.setWidth 32) (b.val.setWidth 32),
        exec p.1 s = goesOn s t (th.wx rd (.of p.2))) ∧
    ((a.void = true ∨ b.void = true) →
      ∀ p ∈ rrResults rd rs1 rs2 a.val b.val ++
          rrwResults rd rs1 rs2 (a.val.setWidth 32) (b.val.setWidth 32),
        exec p.1 s = voidsX s t th rd 1)) ∧
  (∀ s t th rd rs1 imm sh shw, Executing s t th →
    let a := th.rx rs1
    (a.void = false →
      ∀ p ∈ riResults rd rs1 imm sh shw a.val, exec p.1 s = goesOn s t (th.wx rd (.of p.2))) ∧
    (a.void = true →
      ∀ p ∈ riResults rd rs1 imm sh shw a.val, exec p.1 s = voidsX s t th rd 1))

/-- R140, R150, R153 to R156 of control flow: LUI and AUIPC write rd; JAL and JALR link and jump; a taken branch goes
to pc plus its offset, one not taken to pc + 4, and a void operand falls through. -/
def Obligations.UpperImmediatesJumpsAndBranches : Prop :=
  (∀ s t th rd imm, Executing s t th →
    exec (.lui rd imm) s = goesOn s t (th.wx rd (.of (BitVec.ofInt 64 (imm.toInt * 4096)))) ∧
    exec (.auipc rd imm) s = goesOn s t (th.wx rd (.of (th.pc + BitVec.ofInt 64 (imm.toInt * 4096)))) ∧
    exec (.jal rd imm) s =
      goesTo s t th (th.wx rd (.of (th.pc + 4))) (th.pc + BitVec.ofInt 64 (imm.toInt * 2))) ∧
  (∀ s t th rd rs1 imm, Executing s t th →
    exec (.jalr rd rs1 imm) s =
      if (th.rx rs1).void then voidsX s t th rd 9
      else goesTo s t th (th.wx rd (.of (th.pc + 4)))
        (((th.rx rs1).val + BitVec.ofInt 64 imm.toInt) &&& ~~~1#64)) ∧
  (∀ s t th rs1 rs2 imm, Executing s t th →
    ∀ p ∈ branchConds rs1 rs2 imm (th.rx rs1).val (th.rx rs2).val,
      exec p.1 s =
        if (th.rx rs1).void || (th.rx rs2).void then voids s t th 4
        else if p.2 then goesTo s t th th (th.pc + BitVec.ofInt 64 (imm.toInt * 2))
        else goesOn s t th)

namespace Sys2Proof.Machine

/-! ### Memory -/

/-- Loads of an x register: the instruction, its address, its size and how it extends (R140, R199). -/
def loadForms (th : Thread) (rd rs1 : XReg) (imm : BitVec 12) (r : Reach) :
    List (Instr × Word × Nat × (Nat → Word)) :=
  let a := (th.rx rs1).val
  let va := a + BitVec.ofInt 64 imm.toInt
  let s (n : Nat) : Nat → Word := fun v => (BitVec.ofNat (8 * n) v).signExtend 64
  let z : Nat → Word := fun v => BitVec.ofNat 64 v
  [ (.lb rd rs1 imm, va, 1, s 1), (.lh rd rs1 imm, va, 2, s 2), (.lw rd rs1 imm, va, 4, s 4),
    (.ld rd rs1 imm, va, 8, z), (.lbu rd rs1 imm, va, 1, z), (.lhu rd rs1 imm, va, 2, z),
    (.lwu rd rs1 imm, va, 4, z),
    (.lda r .b rd rs1, a, 1, s 1), (.lda r .h rd rs1, a, 2, s 2), (.lda r .w rd rs1, a, 4, s 4),
    (.lda r .d rd rs1, a, 8, s 8) ]

/-- Stores of an x register: the instruction, its address, its size, and its reach, 0 for a base store. -/
def storeForms (th : Thread) (rs1 rs2 : XReg) (imm : BitVec 12) (r : Reach) : List (Instr × Word × Nat × Nat) :=
  let a := (th.rx rs1).val
  let va := a + BitVec.ofInt 64 imm.toInt
  let q := r.bits.toNat
  [ (.sb rs1 rs2 imm, va, 1, 0), (.sh rs1 rs2 imm, va, 2, 0), (.sw rs1 rs2 imm, va, 4, 0), (.sd rs1 rs2 imm, va, 8, 0),
    (.stl r .b rs1 rs2, a, 1, q), (.stl r .h rs1 rs2, a, 2, q), (.stl r .w rs1 rs2, a, 4, q),
    (.stl r .d rs1 rs2, a, 8, q) ]

/-- Atomics on n-byte values `old`, `b`, `e` (R200): the instruction, the new value and whether it is
written. -/
def amoResults (r : Reach) (wd : AWidth) (rd rs1 rs2 : XReg) (n : Nat) (old b e : Int) :
    List (Instr × Int × Bool) :=
  let bits (f : BitVec (8 * n) → BitVec (8 * n) → BitVec (8 * n)) : Int :=
    (f (BitVec.ofInt _ old) (BitVec.ofInt _ b)).toInt
  [ (.amoadd r wd rd rs1 rs2, old + b, true), (.amoswp r wd rd rs1 rs2, b, true),
    (.amocas r wd rd rs1 rs2, b, decide (old = e)), (.amomax r wd rd rs1 rs2, max old b, true),
    (.amomin r wd rd rs1 rs2, min old b, true), (.amoand r wd rd rs1 rs2, bits (· &&& ·), true),
    (.amoor r wd rd rs1 rs2, bits (· ||| ·), true), (.amoxor r wd rd rs1 rs2, bits (· ^^^ ·), true) ]

end Sys2Proof.Machine

/-- R1, R140, R142, R150, R165, R199: a base load or an LDA whose checks pass writes the little-endian number at the
location to rd, extended; a void address makes rd void; a check that fails is the fault it names; R421, R422, R424: a
watchpoint it meets halts the thread with pc at it, or its whole scope, posts the event, and it has no effect. -/
def Obligations.LoadsReadLittleEndian : Prop :=
  ∀ s t th rd rs1 imm r, Executing s t th → s.memOk →
    ∀ p ∈ loadForms th rd rs1 imm r,
      ((th.rx rs1).void = true → exec p.1 s = voidsX s t th rd 3) ∧
      ((th.rx rs1).void = false →
        (∀ x, s.access th p.2.1 p.2.2.1 .load .base = .ok (.loc x) →
          exec p.1 s = goesOn (s.touched th false [p.2.1]) t (th.wx rd (.of (p.2.2.2 (leAt s x p.2.2.1))))) ∧
        (∀ (c : Nat) (v : Word), s.access th p.2.1 p.2.2.1 .load .base = .error (.trap c v) → exec p.1 s = .next (s.trap t th c v)) ∧
        (∀ i, s.access th p.2.1 p.2.2.1 .load .base = .error (.watch i) → WatchAt s t th i (exec p.1 s = ·)))

/-- R1, R140, R150, R165, R199: a base store or an STL whose checks pass writes the low bytes of rs2 at the location,
and no other byte beside those of the page's dirty mark (`State.touched`); a void address or value writes nothing; a
check that fails is the fault it names; a watchpoint it meets halts the thread instead (R422). R68: an STL that
releases at FABRIC or SYSTEM waits at issue until every write at a peer has landed (log 4). -/
def Obligations.StoresWriteLittleEndian : Prop :=
  ∀ s t th rs1 rs2 imm r, Executing s t th → s.memOk →
    ∀ p ∈ storeForms th rs1 rs2 imm r,
      ((th.rx rs1).void = true ∨ (th.rx rs2).void = true → exec p.1 s = voids s t th 2) ∧
      ((th.rx rs1).void = false → (th.rx rs2).void = false →
        (∀ x, s.access th p.2.1 p.2.2.1 .store .base (some (th.rx rs2).val) = .ok (.loc x) →
          (Held s p.2.2.2 → exec p.1 s = stallsHere s t th) ∧
          (¬Held s p.2.2.2 →
            ∃ s' : State, Stored (s.touched th true [p.2.1]) s' x p.2.2.1 (th.rx rs2).val.toNat ∧
              exec p.1 s = goesOn s' t th)) ∧
        (∀ (c : Nat) (v : Word), s.access th p.2.1 p.2.2.1 .store .base (some (th.rx rs2).val) = .error (.trap c v) →
          exec p.1 s = .next (s.trap t th c v)) ∧
        (∀ i, s.access th p.2.1 p.2.2.1 .store .base (some (th.rx rs2).val) = .error (.watch i) →
          WatchAt s t th i (exec p.1 s = ·)))

namespace Sys2Proof.Machine

/-! ### The checks of R165 -/

/-- The windows of R49: the first address, and one past the last. -/
def windowsOf : List (Nat × Nat) :=
  [(0, 0x60000), (0x10000000, 0x10400000), (0x20000000, 0x30000000), (2 ^ 32, 2 ^ 56)]

/-- A check that fails raises its cause, or answers VOIDWORD to an LDS. -/
def fails (k : Kind) (c : Nat) (va : Word) : Except Stop Place :=
  if k = .lds then .error .void else .error (.trap c va)

/-- The permission bits R (2) and W (3) let a use of the page through (R56). -/
def allows (f : Leaf) : Use → Bool
  | .load => f.word.getLsbD 2
  | .store => f.word.getLsbD 3
  | .amo => f.word.getLsbD 2 && f.word.getLsbD 3

/-- The n bytes at `a` lie in one of the thread's pin windows, which lets a write through if it is one (R223). -/
def InPin (th : Thread) (a n : Nat) (u : Use) : Prop :=
  ∃ w ∈ th.windows, w.base ≤ a ∧ a + n ≤ w.base + w.size ∧ (u ≠ .load → w.readOnly = false)

/-- Check 4 lets the access through (R59, R220, R223): HEAP pages for references alone or inside a pin window, no
atomic on a REPLICA page. -/
def ClassOk (th : Thread) (f : Leaf) (a n : Nat) (u : Use) (k : Kind) : Prop :=
  if k = .ref then f.cls = 1 else (f.cls = 1 → InPin th a n u) ∧ (u = .amo → f.cls ≠ 5)

/-- The page of a translated address lets the access through checks 3 and 4. -/
def PageOk (s : State) (th : Thread) (va : Word) (n : Nat) (u : Use) (k : Kind) (f : Leaf) : Prop :=
  2 ^ 32 ≤ va.toNat ∧ va.toNat < 2 ^ 56 ∧ s.walkHeld th.tile th.aspace va.toNat = false ∧
  s.leafOf th.tile th.aspace va.toNat = some f ∧ allows f u = true ∧ ClassOk th f va.toNat n u k

/-- The access passes checks 1 to 4 and waits for nothing before check 5: where it stands (R49, R58). -/
def Stands (s : State) (th : Thread) (va : Word) (n : Nat) (u : Use) (k : Kind) (p : Place) : Prop :=
  (va.toNat < 2 ^ 32 ∧ (∃ w ∈ windowsOf, w.1 ≤ va.toNat ∧ va.toNat < w.2) ∧ k ≠ .ref ∧
    p = .loc (if va.toNat < 0x60000 then tlLoc th.tile va.toNat
      else if va.toNat < 0x20000000 then spLoc (tileCluster th.tile) (va.toNat - 0x10000000)
      else locSram + (va.toNat - 0x20000000))) ∨
  ∃ f, PageOk s th va n u k f ∧ p = f.place th.tile va.toNat ∧
    (u ≠ .load → s.dirtyHeld th.tile th.aspace va.toNat f = false ∧ s.logBlocks th.aspace va.toNat f = false)

/-- The range touches a scratchpad buffer under a handle that the tile does not hold (R54). -/
def NotOwned (s : State) (l a n : Nat) : Prop :=
  0x10000000 ≤ a ∧ a < 0x10400000 ∧ ∃ h ∈ (s.cluster (tileCluster l)).owns, h.2.state ≠ .free ∧
    ¬(h.2.state = .held ∧ h.2.holder = tileT l) ∧
    0x10000000 + h.2.base < a + n ∧ a < 0x10000000 + h.2.base + 256 * h.2.len

/-- The range meets an entry of the tile's range-lock table: the destination for any access, the source for one that
writes (R78). -/
def Locked (s : State) (l a n : Nat) (u : Use) : Prop :=
  let meets (r : Nat × Nat) : Prop := 0 < r.2 ∧ r.1 < a + n ∧ a < r.1 + r.2
  ∃ k ∈ (s.tile l).locks, meets k.dst ∨ (u ≠ .load ∧ meets k.src)

/-- A watchpoint that the access meets (R421). -/
def Watches (w : Watch) (a n : Nat) (u : Use) (data : Option Word) : Prop :=
  w.ctl.getLsbD 32 = true ∧ w.base.toNat < a + n ∧ a < w.base.toNat + w.ctl.toNat % 2 ^ 32 ∧
  ((u ≠ .store ∧ w.ctl.getLsbD 33 = true) ∨ (u ≠ .load ∧ w.ctl.getLsbD 34 = true ∧
    (w.ctl.getLsbD 36 = true → ∀ v, data = some v → v.toNat % 256 ^ n = w.value.toNat % 256 ^ n)))

/-- A read of the thread hits watchpoint i (R421), unless the instruction is the first after a resume (R422). -/
def hitAt (th : Thread) (a n i : Nat) : Prop :=
  th.skipCheck = false ∧ ∃ w, th.wp[i]? = some w ∧ Watches w a n .load none

/-- What answers an access that passed checks 1 to 6: the lowest watchpoint it hits, unless it is the first
instruction after a resume (R422), or where it stands. -/
def Passes (th : Thread) (a n : Nat) (u : Use) (data : Option Word) (p : Place) (r : Except Stop Place) : Prop :=
  let hit (i : Nat) : Prop := th.skipCheck = false ∧ ∃ w, th.wp[i]? = some w ∧ Watches w a n u data
  ((∀ i, ¬hit i) → r = .ok p) ∧ ∀ i, hit i → (∀ j, j < i → ¬hit j) → r = .error (.watch i)

/-- The checks of R165 in their order, for an aligned access. -/
def ChecksInOrder (s : State) (th : Thread) (va : Word) (n : Nat) (u : Use) (k : Kind) (data : Option Word) : Prop :=
  let a := va.toNat
  let r := s.access th va n u k data
  let page := if u = .load then 13 else 15
  let ref : Except Stop Place := .error (.trap (if u = .load then 5 else 7) va)
  let inT := 2 ^ 32 ≤ a ∧ a < 2 ^ 56
  ((∀ w ∈ windowsOf, ¬(w.1 ≤ a ∧ a < w.2)) → r = fails k (if u = .store then 7 else 5) va) ∧
  (a < 2 ^ 32 → (∃ w ∈ windowsOf, w.1 ≤ a ∧ a < w.2) → k = .ref → r = ref) ∧
  (inT → s.walkHeld th.tile th.aspace a = true → r = .error .link) ∧
  (inT → s.walkHeld th.tile th.aspace a = false →
    (s.leafOf th.tile th.aspace a = none → r = fails k page va) ∧
    ∀ f, s.leafOf th.tile th.aspace a = some f →
      (allows f u = false → r = fails k page va) ∧
      (allows f u = true → k = .ref → f.cls ≠ 1 → r = ref) ∧
      (allows f u = true → k ≠ .ref → f.cls = 1 → ¬InPin th a n u → r = fails k 49 va) ∧
      (allows f u = true → k ≠ .ref → u = .amo → f.cls = 5 → r = .error (.trap 55 va))) ∧
  (∀ f, u ≠ .load → PageOk s th va n u k f →
    (s.dirtyHeld th.tile th.aspace a f = true → r = .error .link) ∧
    (s.dirtyHeld th.tile th.aspace a f = false → s.logBlocks th.aspace a f = true → r = .error .logFull)) ∧
  ∀ p, Stands s th va n u k p →
    (NotOwned s th.tile a n → r = .error (.trap 25 va)) ∧
    (¬NotOwned s th.tile a n → Locked s th.tile a n u → r = fails k 24 va) ∧
    (¬NotOwned s th.tile a n → ¬Locked s th.tile a n u →
      (s.placeOpen th a p = false → r = .error .link) ∧
      (s.placeOpen th a p = true →
        (∀ x, p = .loc x → u ≠ .store →
          (∀ y, x ≤ y → y < x + n → s.badUnit (y / 64) = true → (∀ z, x ≤ z → z < y → s.badUnit (z / 64) = false) →
            r = if k = .lds then .error .void else .error (.trap 30 (va + BitVec.ofNat 64 (y - x)))) ∧
          ((∀ y, x ≤ y → y < x + n → s.badUnit (y / 64) = false) → Passes th a n u data p r)) ∧
        (u = .store → Passes th a n u data p r) ∧
        (∀ dev addr, p = .peer dev addr → (u = .load → r = .ok p) ∧ (u ≠ .load → Passes th a n u data p r))))

end Sys2Proof.Machine

/-- R142: a misaligned load raises cause 4 and a misaligned store cause 6, with UTVAL the address, and nothing is
loaded or stored: base accesses, LDA and STL, FLW and FSW, LDS and MCST, and every access of a lane or through a
reference, which makes the checks of R165 (`State.access`). R165: an aligned access makes checks 2 to 7 in the order of
the table and the first that fails answers, VOIDWORD for an LDS where the table says so: the windows of R49 (5, 7),
translation and permission (13, 15), the region class (49, 55, or 5 and 7 for a reference), ownership (25), the range
locks (24), poison (30, with UTVAL the lowest poisoned byte); one that passes all of them stands where the page or the
window says, unless a watchpoint meets it (R421, R422). Where a link on its way stalls the access waits instead, the
model's reading of R13 (log 47); that an atomic that fails check 1 or 2 raises the cause of its read, 4 or 5, is the
model's reading of R201 (log 59); the checks of the class in device memory go by the leaf that the translation finds. -/
def Obligations.MisalignedAccessesTrap : Prop :=
  ∀ s t th rd rs1 rs2 imm r, Executing s t th → (th.rx rs1).void = false →
    (∀ p ∈ loadForms th rd rs1 imm r, p.2.1.toNat % p.2.2.1 ≠ 0 → exec p.1 s = .next (s.trap t th 4 p.2.1)) ∧
    ((th.rx rs2).void = false → ∀ p ∈ storeForms th rs1 rs2 imm r, p.2.1.toNat % p.2.2.1 ≠ 0 →
      exec p.1 s = .next (s.trap t th 6 p.2.1)) ∧
    (∀ fd : FReg, ((th.rx rs1).val + BitVec.ofInt 64 imm.toInt).toNat % 4 ≠ 0 →
      exec (.flw fd rs1 imm) s = .next (s.trap t th 4 ((th.rx rs1).val + BitVec.ofInt 64 imm.toInt)) ∧
      ((th.rf fd).void = false → exec (.fsw rs1 fd imm) s =
        .next (s.trap t th 6 ((th.rx rs1).val + BitVec.ofInt 64 imm.toInt)))) ∧
    (∀ z ∈ [(Size.b, (1 : Nat)), (Size.h, 2), (Size.w, 4), (Size.d, 8)], (th.rx rs1).val.toNat % z.2 ≠ 0 →
      exec (.lds z.1 rd rs1) s = .next (s.trap t th 4 (th.rx rs1).val) ∧
      ((th.rx rs2).void = false → exec (.mcst z.1 rs1 rs2) s = .next (s.trap t th 6 (th.rx rs1).val))) ∧
    (∀ (a : Word) n k d, a.toNat % n ≠ 0 → s.access th a n .load k d = .error (.trap 4 a) ∧
      s.access th a n .store k d = .error (.trap 6 a) ∧ s.access th a n .amo k d = .error (.trap 4 a)) ∧
    (∀ a : Word, ∀ n ∈ [1, 2, 4, 8], a.toNat % n = 0 → ∀ u k data, ChecksInOrder s th a n u k data)

/-- R140, R150, R165: FLW and FSW move 32 bits between memory and an f register; no value is NaN-boxed (R146); a check
that fails is the fault it names, and a watchpoint halts the thread (R422). -/
def Obligations.FloatLoadsAndStores : Prop :=
  ∀ s t th (fd : FReg) rs1 imm, Executing s t th → s.memOk →
    let va := (th.rx rs1).val + BitVec.ofInt 64 imm.toInt
    ((th.rx rs1).void = true → exec (.flw fd rs1 imm) s = voidsF s t th fd 3) ∧
    ((th.rx rs1).void = true ∨ (th.rf fd).void = true → exec (.fsw rs1 fd imm) s = voids s t th 2) ∧
    ((th.rx rs1).void = false → ∀ x, s.access th va 4 .load .base = .ok (.loc x) →
      exec (.flw fd rs1 imm) s =
        goesOn (s.touched th false [va]) t (th.wf fd (.of (BitVec.ofNat 32 (leAt s x 4))))) ∧
    ((th.rx rs1).void = false → (th.rf fd).void = false → ∀ x,
      s.access th va 4 .store .base (some ((th.rf fd).val.setWidth 64)) = .ok (.loc x) →
      ∃ s' : State, Stored (s.touched th true [va]) s' x 4 (th.rf fd).val.toNat ∧
        exec (.fsw rs1 fd imm) s = goesOn s' t th) ∧
    ((th.rx rs1).void = false → ∀ e : Stop,
      (s.access th va 4 .load .base = .error e →
        (∀ c v, e = .trap c v → exec (.flw fd rs1 imm) s = .next (s.trap t th c v)) ∧
        (∀ i, e = .watch i → WatchAt s t th i (exec (.flw fd rs1 imm) s = ·))) ∧
      ((th.rf fd).void = false → s.access th va 4 .store .base (some ((th.rf fd).val.setWidth 64)) = .error e →
        (∀ c v, e = .trap c v → exec (.fsw rs1 fd imm) s = .next (s.trap t th c v)) ∧
        (∀ i, e = .watch i → WatchAt s t th i (exec (.fsw rs1 fd imm) s = ·))))

/-- R150, R165, R199: LDS is a load that answers VOIDWORD, with no VOIDSEEN bit set, where a check of R165 answers so
for it: no window, no leaf that a walk not held by a stalled link finds, permission, class, a range lock, poison; a
check that faults, as misalignment (4) and ownership (25) do, is that fault. R60, R199: MCST writes the low bytes of
rs2 to every replica of a REPLICA page, by ascending die; a check that fails is the fault it names. A watchpoint that
either meets halts the thread (R422). -/
def Obligations.SpeculativeLoadsAndMulticastStores : Prop :=
  (∀ s t th rd rs1, Executing s t th → s.memOk →
    ∀ z ∈ [(Size.b, (1 : Nat)), (Size.h, 2), (Size.w, 4), (Size.d, 8)],
      let a := (th.rx rs1).val
      ((th.rx rs1).void = true → exec (.lds z.1 rd rs1) s = voidsX s t th rd 3) ∧
      ((th.rx rs1).void = false →
        (∀ x, s.access th a z.2 .load .lds = .ok (.loc x) →
          exec (.lds z.1 rd rs1) s = goesOn (s.touched th false [a]) t
            (th.wx rd (.of ((BitVec.ofNat (8 * z.2) (leAt s x z.2)).signExtend 64)))) ∧
        (a.toNat % z.2 = 0 → windowEnd a.toNat = none →
          exec (.lds z.1 rd rs1) s = goesOn s t (th.wx rd ⟨0, true⟩)) ∧
        (a.toNat % z.2 = 0 → translated a.toNat = true → s.leafOf th.tile th.aspace a.toNat = none →
          s.walkHeld th.tile th.aspace a.toNat = false →
          exec (.lds z.1 rd rs1) s = goesOn s t (th.wx rd ⟨0, true⟩)) ∧
        (s.access th a z.2 .load .lds = .error .void → exec (.lds z.1 rd rs1) s = goesOn s t (th.wx rd ⟨0, true⟩)) ∧
        (∀ (c : Nat) (v : Word), s.access th a z.2 .load .lds = .error (.trap c v) →
          exec (.lds z.1 rd rs1) s = .next (s.trap t th c v)) ∧
        (∀ i, s.access th a z.2 .load .lds = .error (.watch i) → WatchAt s t th i (exec (.lds z.1 rd rs1) s = ·)) ∧
        (a.toNat % z.2 ≠ 0 → exec (.lds z.1 rd rs1) s = .next (s.trap t th 4 a)))) ∧
  (∀ s t th rs1 rs2, Executing s t th → s.memOk →
    ∀ z ∈ [(Size.b, (1 : Nat)), (Size.h, 2), (Size.w, 4), (Size.d, 8)],
      let a := (th.rx rs1).val
      ((th.rx rs1).void = true ∨ (th.rx rs2).void = true → exec (.mcst z.1 rs1 rs2) s = voids s t th 2) ∧
      ((th.rx rs1).void = false → (th.rx rs2).void = false →
        (a.toNat % z.2 ≠ 0 → exec (.mcst z.1 rs1 rs2) s = .next (s.trap t th 6 a)) ∧
        (∀ f, a.toNat % z.2 = 0 → translated a.toNat = true → s.walkHeld th.tile th.aspace a.toNat = false →
          s.leafOf th.tile th.aspace a.toNat = some f → f.bit 3 = true → f.cls ≠ 5 →
          exec (.mcst z.1 rs1 rs2) s = .next (s.trap t th 55 a)) ∧
        (∀ (c : Nat) (v : Word), s.mcstPlaces th a z.2 (th.rx rs2).val = .error (.trap c v) →
          exec (.mcst z.1 rs1 rs2) s = .next (s.trap t th c v)) ∧
        (∀ i, s.mcstPlaces th a z.2 (th.rx rs2).val = .error (.watch i) → WatchAt s t th i (exec (.mcst z.1 rs1 rs2) s = ·)) ∧
        (∀ xs, s.mcstPlaces th a z.2 (th.rx rs2).val = .ok xs →
          ∃ s' : State, exec (.mcst z.1 rs1 rs2) s = goesOn s' t th ∧
            s' = { s.touched th true [a] with mem := s'.mem } ∧ s'.memOk ∧
            (∀ x, (∀ y ∈ xs, ¬(y ≤ x ∧ x < y + z.2)) → byteAt s' x = byteAt (s.touched th true [a]) x) ∧
            ∀ y ∈ xs, ∀ i, i < z.2 → byteAt s' (y + i) = BitVec.ofNat 8 ((th.rx rs2).val.toNat / 256 ^ i))))

/-- R200, R201: an atomic whose checks pass returns the old value sign-extended and writes the new value where the
table says so, in one step; a void address, operand or AMOCAS expectation nullifies it; a watchpoint that its read or
its write meets halts the thread before either (R421, R422). R72: one that releases at FABRIC or SYSTEM waits at issue
until every write at a peer has landed (log 4). -/
def Obligations.AtomicsReturnOldAndWriteNew : Prop :=
  ∀ s t th r rd rs1 rs2, Executing s t th → s.memOk →
    ∀ z ∈ [(AWidth.w, (4 : Nat)), (AWidth.d, 8)], ∀ old b e : Int,
      (∀ p ∈ amoResults r z.1 rd rs1 rs2 z.2 old b e, (th.rx rs1).void = true ∨ (th.rx rs2).void = true →
        exec p.1 s = voidsX s t th rd 3) ∧
      ((th.rx rd).void = true → exec (.amocas r z.1 rd rs1 rs2) s = voidsX s t th rd 3) ∧
      ((th.rx rs1).void = false → (th.rx rs2).void = false →
        ∀ p ∈ amoResults r z.1 rd rs1 rs2 z.2 old b e,
          (p.1 = .amocas r z.1 rd rs1 rs2 → (th.rx rd).void = false) →
          (∀ (c : Nat) (v : Word), s.access { th with skipCheck := true } (th.rx rs1).val z.2 .amo .base = .error (.trap c v) →
            exec p.1 s = .next (s.trap t th c v)) ∧
          (∀ x, Held s r.bits.toNat →
            s.access { th with skipCheck := true } (th.rx rs1).val z.2 .amo .base = .ok (.loc x) →
            exec p.1 s = stallsHere s t th) ∧
          ∀ x, ¬Held s r.bits.toNat →
            s.access { th with skipCheck := true } (th.rx rs1).val z.2 .amo .base = .ok (.loc x) →
            old = (BitVec.ofNat (8 * z.2) (leAt s x z.2)).toInt →
            b = (BitVec.ofNat (8 * z.2) (th.rx rs2).val.toNat).toInt →
            e = (BitVec.ofNat (8 * z.2) (th.rx rd).val.toNat).toInt →
            let meets (u : Use) (v : Option Word) (i : Nat) : Prop :=
              th.skipCheck = false ∧ ∃ w, th.wp[i]? = some w ∧ Watches w (th.rx rs1).val.toNat z.2 u v
            let reads := meets .load none
            let writes (i : Nat) : Prop := p.2.2 = true ∧ meets .store (some (BitVec.ofInt 64 p.2.1)) i
            (∀ i, reads i → (∀ j, j < i → ¬reads j) → WatchAt s t th i (exec p.1 s = ·)) ∧
            (∀ i, (∀ j, ¬reads j) → writes i → (∀ j, j < i → ¬writes j) → WatchAt s t th i (exec p.1 s = ·)) ∧
            ((∀ i, ¬reads i ∧ ¬writes i) →
              if p.2.2 then
                ∃ s' : State, Stored (s.touched th true [(th.rx rs1).val]) s' x z.2 (BitVec.ofInt (8 * z.2) p.2.1).toNat ∧
                  exec p.1 s = goesOn s' t (th.wx rd (.of (BitVec.ofInt 64 old)))
              else
                exec p.1 s = goesOn (s.touched th false [(th.rx rs1).val]) t (th.wx rd (.of (BitVec.ofInt 64 old)))))

/-- R57, R334: what an access does to its page beside the access itself. Nothing outside the translated window; a read
at most fills the tile's translation buffer; a first store also sets the leaf's D bit, in the buffer and in the table's
entry, and logs the page at the ring's tail where a ring is registered. No other byte of memory and no other part of the
device changes. That a miss is walked by the access itself, and which entry a full buffer drops, is the model's choice
(log 5). -/
def Obligations.AccessesTouchOnlyTheirPage : Prop :=
  ∀ s l as va store,
    let s' := s.touch l as va store
    s' = { s with tiles := s'.tiles, mem := s'.mem, funcs := s'.funcs } ∧
    (translated va = false → s' = s) ∧
    (∀ k, k ≠ l → s'.tile k = s.tile k) ∧
    s'.tile l = { s.tile l with tlb := (s'.tile l).tlb } ∧
    (store = false → s'.mem = s.mem ∧ s'.funcs = s.funcs) ∧
    (translated va = true → store = false → ∀ f, s.leafOf l as va = some f → f.entry ≠ 0 →
      (s'.tile l).tlb.head? = some ⟨as, f.va, f.size, f.word⟩) ∧
    (translated va = true → store = true → s.memOk → ∀ f w, s.leafOf l as va = some f → f.bit 5 = false →
      s.walk as va = some w → w.bit 5 = false → w.entry + 8 ≤ locHost →
      (s'.tile l).tlb.head? = some ⟨as, f.va, f.size, f.word ||| 0x20⟩ ∧
      leAt s' w.entry 8 = (w.word ||| 0x20).toNat ∧
      ∀ g fn n, s.logRing as = some (g, fn, n) →
        s'.func g = { fn with logTail := fn.logTail + 1 } ∧
        leAt s' (locHost + fn.logBase + 8 * (fn.logTail % 2 ^ n)) 8 = (f.va / 65536 * 65536 + as) % 2 ^ 64) ∧
    (s.memOk → s'.memOk ∧ ∀ a,
      (∀ w, s.walk as va = some w → ¬(w.entry ≤ a ∧ a < w.entry + 8)) →
      (∀ f fn n, s.logRing as = some (f, fn, n) →
        ¬(locHost + fn.logBase + 8 * (fn.logTail % 2 ^ n) ≤ a ∧
          a < locHost + fn.logBase + 8 * (fn.logTail % 2 ^ n) + 8)) →
      byteAt s' a = byteAt s a)

/-- R31, R165, R336: an access to a page of another device is a remote operation. A load waits for the answer: nothing
changes but the operation that goes out, its birth from k0 with the member's weight (`State.birth`), and that the thread
waits; the answer, when it has come, is data, or poison (cause 30, R389), or a failure (cause 55, R415); a store is sent
and the thread goes on. An LDS that meets poison at the peer is VOIDWORD (R389). -/
def Obligations.PeerAccessesAreRemoteOperations : Prop :=
  ∀ s t th rd rs1 rs2 imm r dev addr, Executing s t th → (th.rx rs1).void = false →
    let op (id va n w : Nat) (kind : RemoteKind) : Remote :=
      ⟨id, th.tile, t, th.tid t, dev, addr, va, n, kind, th.sid0, w, s.time, false⟩
    (∀ p ∈ loadForms th rd rs1 imm r, s.access th p.2.1 p.2.2.1 .load .base = .ok (.peer dev addr) →
      (∀ v, th.peer.find? (fun v => v.addr == p.2.1.toNat && v.n == p.2.2.1 && !v.amo) = some v →
        let hit := hitAt th p.2.1.toNat p.2.2.1
        (v.ans = .ok → (∀ i, ¬hit i) →
          exec p.1 s = goesOn (s.touched th false [p.2.1]) t (th.wx rd (.of (p.2.2.2 (leNat v.bs))))) ∧
        (v.ans = .ok → ∀ i, hit i → (∀ j, j < i → ¬hit j) → WatchAt s t th i (exec p.1 s = ·)) ∧
        (v.ans = .poisoned → exec p.1 s = .next (s.trap t th 30 p.2.1)) ∧
        (v.ans = .failed → exec p.1 s = .next (s.trap t th 55 p.2.1))) ∧
      (th.peer.find? (fun v => v.addr == p.2.1.toNat && v.n == p.2.2.1 && !v.amo) = none →
        let b := s.birth th 0
        exec p.1 s = .next { b.2.2 with
          threads := tset s.threads t { b.2.1 with remoteOut := some s.nextOp, stalled := true }
          remotes := s.remotes ++ [op s.nextOp p.2.1.toNat p.2.2.1 b.1 .load], nextOp := s.nextOp + 1
          sent := .remote s.nextOp dev addr p.2.2.1 .load :: s.sent })) ∧
    ((th.rx rs2).void = false → ∀ p ∈ storeForms th rs1 rs2 imm r, ¬Held s p.2.2.2 →
      s.access th p.2.1 p.2.2.1 .store .base (some (th.rx rs2).val) = .ok (.peer dev addr) →
        let b := (s.touched th true [p.2.1]).birth th 0
        let kind : RemoteKind := .store (leBytes p.2.2.1 (th.rx rs2).val.toNat)
        exec p.1 s = goesOn { b.2.2 with
          remotes := s.remotes ++ [op s.nextOp p.2.1.toNat p.2.2.1 b.1 kind], nextOp := s.nextOp + 1
          sent := .remote s.nextOp dev addr p.2.2.1 kind :: s.sent } t b.2.1) ∧
    (∀ z ∈ [(Size.b, (1 : Nat)), (Size.h, 2), (Size.w, 4), (Size.d, 8)], ∀ v,
      s.access th (th.rx rs1).val z.2 .load .lds = .ok (.peer dev addr) →
      th.peer.find? (fun v => v.addr == (th.rx rs1).val.toNat && v.n == z.2 && !v.amo) = some v →
      (v.ans = .poisoned → exec (.lds z.1 rd rs1) s = goesOn s t (th.wx rd ⟨0, true⟩)) ∧
      (v.ans = .failed → exec (.lds z.1 rd rs1) s = .next (s.trap t th 55 (th.rx rs1).val)) ∧
      (v.ans = .ok → (∀ i, ¬hitAt th (th.rx rs1).val.toNat z.2 i) →
        exec (.lds z.1 rd rs1) s = goesOn (s.touched th false [(th.rx rs1).val]) t
          (th.wx rd (.of ((BitVec.ofNat (8 * z.2) (leNat v.bs)).signExtend 64))))) ∧
    (∀ (va : Word) n k, s.access th va n .load k = .ok (.peer dev addr) →
      (th.peer.find? (fun v => v.addr == va.toNat && v.n == n && !v.amo) = none →
        s.readVal th va n k = .error (.need va n dev addr .load)) ∧
      ∀ v, th.peer.find? (fun v => v.addr == va.toNat && v.n == n && !v.amo) = some v →
        (v.ans = .poisoned → s.readVal th va n k = .error (if k = .lds then .void else .trap 30 va)) ∧
        (v.ans = .failed → s.readVal th va n k = .error (.trap 55 va)) ∧
        (v.ans = .ok → (∀ i, ¬hitAt th va.toNat n i) → s.readVal th va n k = .ok (leNat v.bs)) ∧
        (v.ans = .ok → ∀ i, hitAt th va.toNat n i → (∀ j, j < i → ¬hitAt th va.toNat n j) →
          s.readVal th va n k = .error (.watch i))) ∧
    (let b := s.birth th 0
     b.1 + (b.2.1.rk 0).weight = (th.rk 0).weight + (if (th.rk 0).weight = 1 then 0x1000000 else 0) ∧
     b.2.1 = { th with k := b.2.1.k } ∧ (∀ k : KReg, k ≠ 0 → b.2.1.rk k = th.rk k) ∧
     b.2.2 = { s with scopes := b.2.2.scopes } ∧ ((th.rk 0).weight ≠ 1 → b.2.2 = s ∧ b.1 = (th.rk 0).weight / 2))

namespace Sys2Proof.Machine

/-! ### F -/

/-- binary32 (R86, R146): fraction, exponent, sign, and what a word stands for. -/
def fracOf (w : W32) : Nat := w.toNat % 2 ^ 23
def expOf (w : W32) : Nat := w.toNat / 2 ^ 23 % 2 ^ 8
def negOf (w : W32) : Bool := w.getLsbD 31
def IsNan (w : W32) : Prop := expOf w = 255 ∧ fracOf w ≠ 0
def IsSnan (w : W32) : Prop := IsNan w ∧ w.getLsbD 22 = false
def IsInf (w : W32) : Prop := expOf w = 255 ∧ fracOf w = 0
def IsFin (w : W32) : Prop := expOf w ≠ 255
noncomputable def realOf (w : W32) : ℝ :=
  (if negOf w then -1 else 1) *
    (if expOf w = 0 then (fracOf w : ℝ) * 2 ^ (-149 : ℤ) else ((2 ^ 23 + fracOf w : ℕ) : ℝ) * 2 ^ ((expOf w : ℤ) - 150))
/-- The word with a sign and a magnitude. -/
def signed (neg : Bool) (m : Nat) : W32 := BitVec.ofNat 32 ((if neg then 2 ^ 31 else 0) + m)

/-- The numbers of 24 significant bits, no finer than `2 ^ q` where a `q` is given. -/
def Grid24 (q : Option ℤ) (x : ℝ) : Prop :=
  ∃ k e : ℤ, k.natAbs < 2 ^ 24 ∧ (∀ b, q = some b → b ≤ e) ∧ x = k * 2 ^ e
/-- `g` is `v` rounded in a mode to the numbers of a grid (R146, IEEE 754): to the nearest one below or above, and in
the two modes to nearest, where both are as near, to the even one or to the larger magnitude. -/
def RoundsTo (md : Round) (grid : ℝ → Prop) (v g : ℝ) : Prop :=
  ∃ lo hi : ℝ, grid lo ∧ grid hi ∧ lo ≤ v ∧ v ≤ hi ∧ (∀ x, grid x → x ≤ v → x ≤ lo) ∧ (∀ x, grid x → v ≤ x → hi ≤ x) ∧
    match md with
    | .rdn => g = lo
    | .rup => g = hi
    | .rtz => (0 ≤ v → g = lo) ∧ (v < 0 → g = hi)
    | .rne => (v - lo < hi - v → g = lo) ∧ (hi - v < v - lo → g = hi) ∧
        (v - lo = hi - v → (g = lo ∨ g = hi) ∧ (lo ≠ hi → ∃ k : ℤ, g = 2 * k * (hi - lo)))
    | .rmm => (v - lo < hi - v → g = lo) ∧ (hi - v < v - lo → g = hi) ∧
        (v - lo = hi - v → (0 ≤ v → g = hi) ∧ (v < 0 → g = lo))
/-- A number that is not 0, rounded once to binary32 with its flags (R146, R164): subnormals are kept; it is inexact
where it changes (1), underflows where it is also tiny after rounding (2), and overflows (5) where the rounded
magnitude reaches 2^128, to infinity or, in a mode towards the other side, to the largest finite magnitude. -/
def Rounds32 (md : Round) (v : ℝ) (r : W32) (fl : BitVec 5) : Prop :=
  v ≠ 0 ∧ ∃ g u : ℝ, RoundsTo md (Grid24 (some (-149))) v g ∧ RoundsTo md (Grid24 none) v u ∧
    (|g| < 2 ^ 128 → IsFin r ∧ (negOf r = true ↔ v < 0) ∧ realOf r = g ∧
      (g = v → fl = 0) ∧ (g ≠ v → |u| < 2 ^ (-126 : ℤ) → fl = 3) ∧ (g ≠ v → 2 ^ (-126 : ℤ) ≤ |u| → fl = 1)) ∧
    (2 ^ 128 ≤ |g| → fl = 5 ∧ ∃ neg : Bool, (neg = true ↔ v < 0) ∧ r = signed neg (match md with
      | .rne => 0x7F800000
      | .rmm => 0x7F800000
      | .rtz => 0x7F7FFFFF
      | .rdn => if neg then 0x7F800000 else 0x7F7FFFFF
      | .rup => if neg then 0x7F7FFFFF else 0x7F800000))

/-- What an F operation answers: a result and its flags. -/
abbrev FResult := W32 → BitVec 5 → Prop
/-- The result of an operation with a NaN among its operands: the one NaN, invalid (16) where one is signalling or
`bad` says so. -/
def nanResult (ws : List W32) (bad : Prop) : FResult := fun r fl => r = 0x7FC00000 ∧
  ((∃ w ∈ ws, IsSnan w) ∨ bad → fl = 16) ∧ (¬((∃ w ∈ ws, IsSnan w) ∨ bad) → fl = 0)
/-- An exact sum or product `v`: rounded once, or an exact zero of the sign given. -/
def exactResult (md : Round) (v : ℝ) (neg : Bool) : FResult := fun r fl =>
  (v ≠ 0 → Rounds32 md v r fl) ∧ (v = 0 → r = signed neg 0 ∧ fl = 0)
/-- The sign of an exact sum that is 0, of addends with these signs (R5, IEEE 754). -/
def zeroSign (md : Round) (a b : Bool) : Bool := if a = b then a else decide (md = .rdn)

def addResult (md : Round) (a b : W32) : FResult := fun r fl =>
  (IsNan a ∨ IsNan b → nanResult [a, b] False r fl) ∧
  (IsInf a → IsInf b → (negOf a ≠ negOf b → r = 0x7FC00000 ∧ fl = 16) ∧ (negOf a = negOf b → r = a ∧ fl = 0)) ∧
  (IsInf a → IsFin b → r = a ∧ fl = 0) ∧ (IsFin a → IsInf b → r = b ∧ fl = 0) ∧
  (IsFin a → IsFin b → exactResult md (realOf a + realOf b) (zeroSign md (negOf a) (negOf b)) r fl)
def mulResult (md : Round) (a b : W32) : FResult := fun r fl =>
  let neg := negOf a ^^ negOf b
  let zero (w : W32) : Prop := IsFin w ∧ realOf w = 0
  (IsNan a ∨ IsNan b → nanResult [a, b] False r fl) ∧
  ((IsInf a ∧ zero b) ∨ (zero a ∧ IsInf b) → r = 0x7FC00000 ∧ fl = 16) ∧
  ((IsInf a ∧ ¬IsNan b ∧ ¬zero b) ∨ (¬IsNan a ∧ ¬zero a ∧ IsInf b) → r = signed neg 0x7F800000 ∧ fl = 0) ∧
  (IsFin a → IsFin b → exactResult md (realOf a * realOf b) neg r fl)
def divResult (md : Round) (a b : W32) : FResult := fun r fl =>
  let neg := negOf a ^^ negOf b
  let zero (w : W32) : Prop := IsFin w ∧ realOf w = 0
  (IsNan a ∨ IsNan b → nanResult [a, b] False r fl) ∧
  ((IsInf a ∧ IsInf b) ∨ (zero a ∧ zero b) → r = 0x7FC00000 ∧ fl = 16) ∧
  (IsInf a → IsFin b → r = signed neg 0x7F800000 ∧ fl = 0) ∧ (IsFin a → IsInf b → r = signed neg 0 ∧ fl = 0) ∧
  (IsFin a → ¬zero a → zero b → r = signed neg 0x7F800000 ∧ fl = 8) ∧
  (IsFin a → IsFin b → ¬zero b → exactResult md (realOf a / realOf b) neg r fl)
def sqrtResult (md : Round) (a : W32) : FResult := fun r fl =>
  (IsNan a → nanResult [a] False r fl) ∧
  (IsFin a → realOf a = 0 → r = a ∧ fl = 0) ∧ (IsInf a → negOf a = false → r = a ∧ fl = 0) ∧
  (negOf a = true → IsInf a ∨ (IsFin a ∧ realOf a ≠ 0) → r = 0x7FC00000 ∧ fl = 16) ∧
  (negOf a = false → IsFin a → realOf a ≠ 0 → Rounds32 md (Real.sqrt (realOf a)) r fl)
/-- ±(a × b) ± c, rounded once; infinity times zero is invalid beside any addend. -/
def fmaResult (md : Round) (negP negC : Bool) (a b c : W32) : FResult := fun r fl =>
  let np := negOf a ^^ negOf b ^^ negP
  let nc := negOf c ^^ negC
  let zero (w : W32) : Prop := IsFin w ∧ realOf w = 0
  let bad := (IsInf a ∧ zero b) ∨ (zero a ∧ IsInf b)
  let infP := ¬bad ∧ (IsInf a ∨ IsInf b)
  let ofSign (neg : Bool) (x : ℝ) : ℝ := if neg then -x else x
  (IsNan a ∨ IsNan b ∨ IsNan c → nanResult [a, b, c] bad r fl) ∧
  (¬IsNan a → ¬IsNan b → ¬IsNan c →
    (bad ∨ (infP ∧ IsInf c ∧ np ≠ nc) → r = 0x7FC00000 ∧ fl = 16) ∧
    (infP → IsFin c ∨ np = nc → r = signed np 0x7F800000 ∧ fl = 0) ∧
    (IsFin a → IsFin b → IsInf c → r = signed nc 0x7F800000 ∧ fl = 0) ∧
    (IsFin a → IsFin b → IsFin c →
      exactResult md (ofSign negP (realOf a * realOf b) + ofSign negC (realOf c)) (zeroSign md np nc) r fl))

/-- Rounded F instructions on f registers: what each answers under a rounding mode (R140, R146). -/
def fRounded (rd rs1 rs2 rs3 : FReg) (rm : Rm) (md : Round) (a b c : W32) : List (Instr × FResult) :=
  [ (.faddS rd rs1 rs2 rm, addResult md a b), (.fsubS rd rs1 rs2 rm, addResult md a (b ^^^ 0x80000000)),
    (.fmulS rd rs1 rs2 rm, mulResult md a b), (.fdivS rd rs1 rs2 rm, divResult md a b),
    (.fsqrtS rd rs1 rm, sqrtResult md a),
    (.fmaddS rd rs1 rs2 rs3 rm, fmaResult md false false a b c),
    (.fmsubS rd rs1 rs2 rs3 rm, fmaResult md false true a b c),
    (.fnmsubS rd rs1 rs2 rs3 rm, fmaResult md true false a b c),
    (.fnmaddS rd rs1 rs2 rs3 rm, fmaResult md true true a b c) ]

/-- Does one of these read rs2, and rs3? -/
def fReads : Instr → Bool × Bool
  | .fsqrtS _ _ _ => (false, false)
  | .fmaddS _ _ _ _ _ => (true, true)
  | .fmsubS _ _ _ _ _ => (true, true)
  | .fnmsubS _ _ _ _ _ => (true, true)
  | .fnmaddS _ _ _ _ _ => (true, true)
  | _ => (true, false)

/-- The range of a conversion to an integer. -/
def intForms (rd : XReg) (rs1 : FReg) (rm : Rm) : List (Instr × Nat × Int × Int) :=
  [ (.fcvtWS rd rs1 rm, 32, -2 ^ 31, 2 ^ 31 - 1), (.fcvtWuS rd rs1 rm, 32, 0, 2 ^ 32 - 1),
    (.fcvtLS rd rs1 rm, 64, -2 ^ 63, 2 ^ 63 - 1), (.fcvtLuS rd rs1 rm, 64, 0, 2 ^ 64 - 1) ]

/-- The integer that a conversion from an x register reads. -/
def floatForms (rd : FReg) (rs1 : XReg) (rm : Rm) (a : Word) : List (Instr × Int) :=
  [ (.fcvtSW rd rs1 rm, (a.setWidth 32).toInt), (.fcvtSWu rd rs1 rm, ((a.setWidth 32).toNat : Int)),
    (.fcvtSL rd rs1 rm, a.toInt), (.fcvtSLu rd rs1 rm, (a.toNat : Int)) ]

/-- A float rounded to an integer and held in a range (R140, R146): out of range, an infinity and a NaN are invalid. -/
def intResult (md : Round) (lo hi : Int) (a : W32) (v : Int) (fl : BitVec 5) : Prop :=
  (IsNan a ∨ (IsInf a ∧ negOf a = false) → v = hi ∧ fl = 16) ∧ (IsInf a → negOf a = true → v = lo ∧ fl = 16) ∧
  (IsFin a → ∃ k : ℤ, RoundsTo md (fun x => ∃ n : ℤ, x = n) (realOf a) k ∧
    (k < lo → v = lo ∧ fl = 16) ∧ (hi < k → v = hi ∧ fl = 16) ∧
    (lo ≤ k → k ≤ hi → v = k ∧ ((k : ℝ) = realOf a → fl = 0) ∧ ((k : ℝ) ≠ realOf a → fl = 1)))

/-- Sign and magnitude of a word that is no NaN as a number that orders as the words do, with −0 below +0. -/
def keyOf (w : W32) : Int := if negOf w then -(w.toNat % 2 ^ 31 : Nat) - 1 else (w.toNat % 2 ^ 31 : Nat)
/-- The same with −0 equal to +0. -/
def rankOf (w : W32) : Int := if negOf w then -(w.toNat % 2 ^ 31 : Nat) else (w.toNat % 2 ^ 31 : Nat)
/-- The smaller of two words, or the larger: a NaN gives the other one, and two the one NaN. -/
def pickResult (larger : Bool) (a b : W32) : FResult := fun r fl =>
  (IsNan a → IsNan b → r = 0x7FC00000) ∧ (IsNan a → ¬IsNan b → r = b) ∧ (¬IsNan a → IsNan b → r = a) ∧
  (¬IsNan a → ¬IsNan b → (r = a ∨ r = b) ∧
    keyOf r = if larger then max (keyOf a) (keyOf b) else min (keyOf a) (keyOf b)) ∧
  (IsSnan a ∨ IsSnan b → fl = 16) ∧ (¬(IsSnan a ∨ IsSnan b) → fl = 0)
/-- A comparison: false where an operand is a NaN, which is invalid, for FEQ only a signalling one. -/
def compareResult (quiet : Bool) (holds : Int → Int → Prop) (a b : W32) (v : Bool) (fl : BitVec 5) : Prop :=
  let bad := if quiet then IsSnan a ∨ IsSnan b else IsNan a ∨ IsNan b
  (v = true ↔ ¬IsNan a ∧ ¬IsNan b ∧ holds (rankOf a) (rankOf b)) ∧ (bad → fl = 16) ∧ (¬bad → fl = 0)
/-- The class of a word, one bit of ten. -/
def classResult (a : W32) (v : Nat) : Prop :=
  (IsInf a → v = if negOf a then 0 else 7) ∧ (IsSnan a → v = 8) ∧ (IsNan a → ¬IsSnan a → v = 9) ∧
  (IsFin a → (expOf a ≠ 0 → v = if negOf a then 1 else 6) ∧
    (expOf a = 0 → fracOf a ≠ 0 → v = if negOf a then 2 else 5) ∧
    (expOf a = 0 → fracOf a = 0 → v = if negOf a then 3 else 4))

/-- Sign injections: the result. -/
def fSigns (rd rs1 rs2 : FReg) (a b : W32) : List (Instr × W32) :=
  let sign (neg : Bool) : W32 := signed neg (a.toNat % 2 ^ 31)
  [ (.fsgnjS rd rs1 rs2, sign (negOf b)), (.fsgnjnS rd rs1 rs2, sign (!negOf b)),
    (.fsgnjxS rd rs1 rs2, sign (negOf a ^^ negOf b)) ]

/-- The rounding mode of an instruction (R146): its field, or frm; frm 5 to 7 is none. -/
def roundingOf (rm : Rm) (frm : BitVec 3) : Option Round :=
  match rm, frm.toNat with
  | .rne, _ => some .rne | .rtz, _ => some .rtz | .rdn, _ => some .rdn | .rup, _ => some .rup
  | .rmm, _ => some .rmm
  | .dyn, 0 => some .rne | .dyn, 1 => some .rtz | .dyn, 2 => some .rdn | .dyn, 3 => some .rup
  | .dyn, 4 => some .rmm | .dyn, _ => none

/-! ### CSRs -/

/-- The CSR instructions: the instruction, its source value (none where void), whether the source is x0 or
0, whether it always writes, and what it makes of the old value (R157). -/
def csrForms (th : Thread) (rd rs1 : XReg) (imm : BitVec 5) (csr : BitVec 12) :
    List (Instr × Bool × Bool × Bool × (Word → Word)) :=
  let a := th.rx rs1
  let i : Word := imm.setWidth 64
  [ (.csrrw rd rs1 csr, a.void, decide (rs1 = 0), true, fun _ => a.val),
    (.csrrs rd rs1 csr, a.void, decide (rs1 = 0), false, fun o => o ||| a.val),
    (.csrrc rd rs1 csr, a.void, decide (rs1 = 0), false, fun o => o &&& ~~~a.val),
    (.csrrwi rd imm csr, false, decide (imm = 0), true, fun _ => i),
    (.csrrsi rd imm csr, false, decide (imm = 0), false, fun o => o ||| i),
    (.csrrci rd imm csr, false, decide (imm = 0), false, fun o => o &&& ~~~i) ]

/-- The CSRs of R158. -/
def csrNumbers : List Nat :=
  [1, 2, 3, 0x800, 0x801, 0x802, 0x803, 0x804, 0x805, 0x806, 0x807, 0x808, 0x809, 0x80A, 0x80B,
   0xC00, 0xC01, 0xCC0, 0xCC1, 0xCC2, 0xCC3]

end Sys2Proof.Machine

/-- R140, R146, R150, R164: rounded F arithmetic writes the exact sum, product, quotient, square root or fused value,
rounded once to binary32 under the instruction's rounding mode, to rd and accrues the flags IEEE 754 gives it, with its
zeros, infinities and the one NaN; a dynamic frm of 5, 6 or 7 raises cause 2; a void source makes rd void and leaves
fflags unchanged, which comes before the check of frm (log 35). -/
def Obligations.FloatArithmeticRoundsAndAccrues : Prop :=
  ∀ s t th rd rs1 rs2 rs3 rm, Executing s t th →
    let a := th.rf rs1; let b := th.rf rs2; let c := th.rf rs3
    ∀ md, ∀ p ∈ fRounded rd rs1 rs2 rs3 rm md a.val b.val c.val,
      let void := a.void || ((fReads p.1).1 && b.void) || ((fReads p.1).2 && c.void)
      (void = true → exec p.1 s = voidsF s t th rd 1) ∧
      (void = false → roundingOf rm th.frm = some md → ∃ r fl, p.2 r fl ∧
        exec p.1 s = goesOn s t (accrues (th.wf rd (.of r)) fl)) ∧
      (void = false → roundingOf rm th.frm = none →
        exec p.1 s = .next (s.trap t th 2 ((encode p.1).setWidth 64)))

/-- R140, R146, R150: conversions between integers and floats, with their exact value rounded once, flags and voids.
That a void source nullifies one whose dynamic rounding mode is 5 to 7 in frm is the model's reading (log 35). R140,
R146, R150: sign injection, minimum and maximum, comparisons, classification and moves. -/
def Obligations.FloatConversionsMovesAndComparisons : Prop :=
  (∀ s t th rm, Executing s t th →
    (∀ rd rs1, ∀ p ∈ intForms rd rs1 rm,
      ((th.rf rs1).void = true → exec p.1 s = voidsX s t th rd 1) ∧
      (∀ md, (th.rf rs1).void = false → roundingOf rm th.frm = some md →
        ∃ v fl, intResult md p.2.2.1 p.2.2.2 (th.rf rs1).val v fl ∧
          exec p.1 s = goesOn s t (accrues (th.wx rd (.of ((BitVec.ofInt p.2.1 v).signExtend 64))) fl)) ∧
      ((th.rf rs1).void = false → roundingOf rm th.frm = none →
        exec p.1 s = .next (s.trap t th 2 ((encode p.1).setWidth 64)))) ∧
    (∀ rd rs1, ∀ p ∈ floatForms rd rs1 rm (th.rx rs1).val,
      ((th.rx rs1).void = true → exec p.1 s = voidsF s t th rd 1) ∧
      (∀ md, (th.rx rs1).void = false → roundingOf rm th.frm = some md →
        ∃ r fl, exactResult md p.2 false r fl ∧ exec p.1 s = goesOn s t (accrues (th.wf rd (.of r)) fl)) ∧
      ((th.rx rs1).void = false → roundingOf rm th.frm = none →
        exec p.1 s = .next (s.trap t th 2 ((encode p.1).setWidth 64))))) ∧
  (∀ s t th, Executing s t th →
    (∀ rd rs1 rs2, let a := th.rf rs1; let b := th.rf rs2
      (∀ p ∈ fSigns rd rs1 rs2 a.val b.val,
        exec p.1 s = if a.void || b.void then voidsF s t th rd 1 else goesOn s t (th.wf rd (.of p.2))) ∧
      (∀ p ∈ [(Instr.fminS rd rs1 rs2, false), (.fmaxS rd rs1 rs2, true)],
        (a.void = true ∨ b.void = true → exec p.1 s = voidsF s t th rd 1) ∧
        (a.void = false → b.void = false → ∃ r fl, pickResult p.2 a.val b.val r fl ∧
          exec p.1 s = goesOn s t (accrues (th.wf rd (.of r)) fl)))) ∧
    (∀ rd rs1 rs2, let a := th.rf rs1; let b := th.rf rs2
      ∀ p ∈ [(Instr.feqS rd rs1 rs2, true, fun x y : Int => x = y), (.fltS rd rs1 rs2, false, fun x y => x < y),
          (.fleS rd rs1 rs2, false, fun x y => x ≤ y)],
        (a.void = true ∨ b.void = true → exec p.1 s = voidsX s t th rd 1) ∧
        (a.void = false → b.void = false → ∃ v fl, compareResult p.2.1 p.2.2 a.val b.val v fl ∧
          exec p.1 s = goesOn s t (accrues (th.wx rd (.of (one (v = true)))) fl))) ∧
    (∀ rd rs1, ((th.rf rs1).void = true → exec (.fclassS rd rs1) s = voidsX s t th rd 1) ∧
      ((th.rf rs1).void = false → ∃ v, classResult (th.rf rs1).val v ∧
        exec (.fclassS rd rs1) s = goesOn s t (th.wx rd (.of (BitVec.ofNat 64 (2 ^ v)))))) ∧
    (∀ rd rs1, exec (.fmvXW rd rs1) s = if (th.rf rs1).void then voidsX s t th rd 1
      else goesOn s t (th.wx rd (.of ((th.rf rs1).val.signExtend 64)))) ∧
    (∀ rd rs1, exec (.fmvWX rd rs1) s = if (th.rx rs1).void then voidsF s t th rd 1
      else goesOn s t (th.wf rd (.of ((th.rx rs1).val.setWidth 32)))))

/-- R143: the base FENCE acts as FENCE at DIE reach with loads, stores and engine operations in both sets, whatever
its fields say: it goes on once no engine operation and no store of the thread is under way, and waits at issue until
then (R73); that it waits for the thread's stores at peers at DIE reach too, and has no other effect, is the model's
choice of one allowed order (log 4). MISC-MEM with funct3 001 is unassigned. -/
def Obligations.BaseFenceIsDieFence : Prop :=
  (∀ fm pred succ rd rs1 s, exec (.fence fm pred succ rd rs1) s = exec (.fenceReach .die 7 7) s) ∧
  (∀ s t th fm pred succ rd rs1, Executing s t th →
    (s.engineBusy th.tile (th.tid t) = false → s.storesBusy th.tile (th.tid t) = false →
      exec (.fence fm pred succ rd rs1) s = goesOn s t th) ∧
    (s.engineBusy th.tile (th.tid t) = true ∨ s.storesBusy th.tile (th.tid t) = true →
      exec (.fence fm pred succ rd rs1) s = stallsHere s t th)) ∧
  (∀ v (w : W32), w.extractLsb' 0 7 = 0x0F#7 → w.extractLsb' 12 3 = 1#3 → decode v w = none)

/-- R73, R202, R249: a fence whose predecessor set holds engine operations waits, with nothing changed but that it is
stalled, while one of the thread's is under way; one whose set holds stores waits, at every reach, while a store of the
thread at a peer has not landed or a row of its MXWB is unwritten; otherwise, and with an empty set, it only goes on.
That a fence has no other effect here is the model's choice of one allowed order (log 4). -/
def Obligations.FencesWaitForEngineOperations : Prop :=
  (∀ (s : State) l tid, s.storesBusy l tid = true ↔
    (∃ m ∈ s.remotes, m.tid = tid ∧ ∃ bs, m.kind = .store bs) ∨
    (∃ c ∈ (s.tile l).rowQ, c.tid = tid ∧ ∃ a b d e f g, c.op = .wb a b d e f g)) ∧
  ∀ s t th r pred succ, Executing s t th →
    let busy := pred ≠ 0 ∧ succ ≠ 0 ∧
      ((pred.getLsbD 2 = true ∧ s.engineBusy th.tile (th.tid t) = true) ∨
       (pred.getLsbD 1 = true ∧ s.storesBusy th.tile (th.tid t) = true))
    (busy → exec (.fenceReach r pred succ) s = .next (s.setTh t { th with stalled := true })) ∧
    (¬busy → exec (.fenceReach r pred succ) s = goesOn s t th)

/-- R157 to R159, R149, R150: a CSR instruction on a listed CSR below 0xC00 writes the old value to rd and the new one
to the CSR's writable bits, and a write of STREAM by any form is an SMBIND of the value's low 32 bits (log 27), which
fails with cause 2 where they name no live stream; one numbered 0xC00 or above is only read, and a write to it, like
any use of an unlisted CSR, raises cause 2; a void source reads and writes nothing. That an unlisted CSR traps before
a void source nullifies, and that CSRRW with x0 does not write a CSR of 0xC00 and above, is the model's reading (log
35). -/
def Obligations.CsrInstructions : Prop :=
  ∀ s t th rd rs1 imm (csr : BitVec 12), Executing s t th →
    ∀ p ∈ csrForms th rd rs1 imm csr,
      let c := csr.toNat
      let old := s.csrRead t th c
      (c ∉ csrNumbers ∨ (0xC00 ≤ c ∧ p.2.2.1 = false) →
        exec p.1 s = .next (s.trap t th 2 ((encode p.1).setWidth 64))) ∧
      (c ∈ csrNumbers → c < 0xC00 ∨ p.2.2.1 = true → p.2.1 = true → exec p.1 s = voidsX s t th rd 17) ∧
      (c ∈ csrNumbers → 0xC00 ≤ c → p.2.2.1 = true → p.2.1 = false →
        exec p.1 s = goesOn s t (th.wx rd (.of old))) ∧
      (c ∈ csrNumbers → c < 0xC00 → c ≠ 0x80A → p.2.1 = false →
        exec p.1 s = goesOn s t
          ((if p.2.2.2.1 = true ∨ p.2.2.1 = false then th.csrWrite c (p.2.2.2.2 old) else th).wx rd (.of old))) ∧
      (c = 0x80A → p.2.1 = false →
        let writes := p.2.2.2.1 = true ∨ p.2.2.1 = false
        let id := (p.2.2.2.2 old).toNat % 2 ^ 32
        (¬writes → exec p.1 s = goesOn s t (th.wx rd (.of old))) ∧
        (writes → id = 0 → exec p.1 s = goesOn s t (Thread.wx { th with stream := 0 } rd (.of old))) ∧
        (∀ st, writes → id ≠ 0 → s.stream? id = some st →
          exec p.1 s = goesOn (s.setStream id { st with owner := th.sid0, order := (st.order + 1) % 2 ^ 32 }) t
            (Thread.wx { th with stream := BitVec.ofNat 32 id } rd (.of old))) ∧
        (writes → id ≠ 0 → s.stream? id = none → exec p.1 s = .next (s.trap t th 2 (BitVec.ofNat 64 id))))

/-- R158, R159, R161 to R163: what each CSR reads. R158, R159, R361, R375: what a write leaves in each CSR, and that
it changes no other register: fields that are read-only or reserved ignore it, CLAND and UTVEC keep multiples of 4,
and a write of UCAUSE arms the thread and ends its fault service. -/
def Obligations.CsrContents : Prop :=
  (∀ (s : State) (t : Nat) (th : Thread),
    let r := s.csrRead t th
    let d := s.die (th.tile / 256)
    r 1 = th.fflags.setWidth 64 ∧ r 2 = th.frm.setWidth 64 ∧
    (r 3).toNat = th.frm.toNat * 32 + th.fflags.toNat ∧
    r 0x800 = th.waittmo.setWidth 64 ∧ r 0x801 = th.vpred.setWidth 64 ∧ r 0x802 = th.cland ∧
    r 0x803 = th.utvec ∧ r 0x804 = th.uepc ∧ r 0x805 = th.ucause.setWidth 64 ∧ r 0x806 = th.utval ∧
    r 0x807 = th.voidseen.setWidth 64 ∧ r 0x809 = th.shieldn.setWidth 64 ∧
    r 0x80A = th.stream.setWidth 64 ∧ r 0x80B = th.seedkey ∧
    (∀ i : Nat, i < 64 → (r 0x808).getLsbD i =
      (match tfind (s.tile th.tile).tags (tagKey th.cls i) with | some (.set _ _) => true | _ => false)) ∧
    r 0xC00 = BitVec.ofNat 64 d.cycle ∧ r 0xC01 = BitVec.ofNat 64 s.time ∧
    r 0xCC0 = BitVec.ofNat 64 (d.ncyc / 2 ^ 16) ∧ r 0xCC1 = BitVec.ofNat 64 (t * 256 + th.reuse) ∧
    r 0xCC3 = BitVec.ofNat 64 (th.rk 0).sid ∧
    (∀ ctx, th.loc = .resident ctx → r 0xCC2 =
      BitVec.ofNat 64 (s.devNum * 8192 + th.tile * 8 + (if th.cls = .compute then 4 else 0) + ctx))) ∧
  (∀ (th : Thread) (v : Word),
    th.csrWrite 1 v = { th with fflags := v.setWidth 5 } ∧
    th.csrWrite 2 v = { th with frm := v.setWidth 3 } ∧
    th.csrWrite 3 v = { th with fflags := v.setWidth 5, frm := (v >>> 5).setWidth 3 } ∧
    th.csrWrite 0x800 v = { th with waittmo := v.setWidth 48 } ∧
    th.csrWrite 0x801 v = { th with vpred := v.setWidth 3 } ∧
    th.csrWrite 0x802 v = { th with cland := BitVec.ofNat 64 (v.toNat / 4 * 4) } ∧
    th.csrWrite 0x803 v = { th with utvec := BitVec.ofNat 64 (v.toNat / 4 * 4) } ∧
    th.csrWrite 0x804 v = { th with uepc := v } ∧
    th.csrWrite 0x805 v = { th with ucause := v.setWidth 8, armed := true, service := false } ∧
    th.csrWrite 0x806 v = { th with utval := v } ∧
    th.csrWrite 0x807 v = { th with voidseen := v.setWidth 6 } ∧
    th.csrWrite 0x80B v = { th with seedkey := v } ∧
    (∀ c ∈ [0x808, 0x809], th.csrWrite c v = th))

/-- R152 to R156: VOID writes VOIDWORD and VTEST the void bit, each as its example word decodes, and FMV.X.W carries a
void bit over; BVOID and BNVOID branch on the void bit; JTAB jumps through a table of pc-relative offsets, falls
through past its end, and a length of 0 or below is an illegal use; an entry that cannot be read, at a peer too, raises
cause 31 with UTVAL its address. -/
def Obligations.VoidWordsAndJumpTables : Prop :=
  ∀ s t th, Executing s t th →
    (∀ rd, exec (.void rd) s = goesOn s t (th.wx rd ⟨0, true⟩)) ∧
    (∀ v, decode v 0x0600358B = some (.void 11) ∧ decode v 0x080E3E8B = some (.vtest 29 28)) ∧
    (∀ rd rs1, (th.rf rs1).void = true → exec (.fmvXW rd rs1) s = voidsX s t th rd 1) ∧
    (∀ rd rs1, exec (.vtest rd rs1) s = goesOn s t (th.wx rd (.of (one ((th.rx rs1).void = true))))) ∧
    (∀ rs1 imm, exec (.bvoid rs1 imm) s = if (th.rx rs1).void
      then goesTo s t th th (th.pc + BitVec.ofInt 64 (imm.toInt * 2)) else goesOn s t th) ∧
    (∀ rs1 imm, exec (.bnvoid rs1 imm) s = if (th.rx rs1).void
      then goesOn s t th else goesTo s t th th (th.pc + BitVec.ofInt 64 (imm.toInt * 2))) ∧
    (∀ rs1 rs2 imm,
      (imm.toInt ≤ 0 → exec (.jtab rs1 rs2 imm) s =
        .next (s.trap t th 2 ((encode (.jtab rs1 rs2 imm)).setWidth 64))) ∧
      (0 < imm.toInt →
        ((th.rx rs1).void = true ∨ (th.rx rs2).void = true → exec (.jtab rs1 rs2 imm) s = voids s t th 8) ∧
        ((th.rx rs1).void = false → (th.rx rs2).void = false →
          (imm.toInt ≤ ((th.rx rs1).val.toNat : Int) → exec (.jtab rs1 rs2 imm) s = goesOn s t th) ∧
          (((th.rx rs1).val.toNat : Int) < imm.toInt →
            let ea := (th.rx rs2).val + BitVec.ofNat 64 (4 * (th.rx rs1).val.toNat)
            (∀ x, s.memOk → s.access th ea 4 .load .base = .ok (.loc x) →
              exec (.jtab rs1 rs2 imm) s = goesTo (s.touched th false [ea]) t th th
                (th.pc + (BitVec.ofNat 32 (leAt s x 4)).signExtend 64)) ∧
            (∀ (c : Nat) (v : Word), s.access th ea 4 .load .base = .error (.trap c v) →
              exec (.jtab rs1 rs2 imm) s = .next (s.trap t th 31 ea)) ∧
            (∀ dev addr v, s.access th ea 4 .load .base = .ok (.peer dev addr) →
              th.peer.find? (fun v => v.addr == ea.toNat && v.n == 4 && !v.amo) = some v →
              exec (.jtab rs1 rs2 imm) s =
                if v.ans = .ok then goesTo (s.touched th false [ea]) t th th
                  (th.pc + (BitVec.ofNat 32 (leNat v.bs)).signExtend 64)
                else .next (s.trap t th 31 ea))))))

/-- R141, R144, R145, R422: ECALL in user mode performs the service in a7 and writes a0; EBREAK without a debugger
raises cause 3, and with one halts the thread as a breakpoint does, unless it is the first instruction after a resume,
which goes on (log 26); MRET and WFI
in user mode raise cause 2, and in machine mode MRET goes to MEPC with the mode of MPP and WFI goes on (both as the
RISC-V base has them, log 12). -/
def Obligations.SystemInstructions : Prop :=
  ∀ s t th, Executing s t th →
    (th.mode = .user →
      exec .ecall s =
        if (th.rx 17).void then voidsX s t th 10 33
        else goesOn s t (th.wx 10 (.of (match (th.rx 17).val.toNat with
          | 0 => 3
          | 1 => BitVec.ofNat 64 s.tilesIn
          | 2 => BitVec.ofNat 64 (s.die (th.tile / 256)).mhz
          | 3 => BitVec.ofNat 64 s.hbmbytes
          | _ => BitVec.allOnes 64)))) ∧
    (s.sessionFor th.cmd = none → exec .ebreak s = .next (s.trap t th 3 th.pc)) ∧
    (∀ f, s.sessionFor th.cmd = some f → (th.skipCheck = true → exec .ebreak s = goesOn s t th) ∧
      (th.skipCheck = false → HitAt s t th .ebreak false f (exec .ebreak s = ·))) ∧
    (th.mode = .user → exec .mret s = .next (s.trap t th 2 0x30200073)) ∧
    (th.mode = .user → exec .wfi s = .next (s.trap t th 2 0x10500073)) ∧
    (th.mode = .machine → exec .wfi s = goesOn s t th) ∧
    (th.mode = .machine →
      let th' : Thread := { th with
        pc := th.mepc, mode := th.mpp, mie := th.mpie, mpie := true, mpp := .user, stalled := false, peer := []
        skipCheck := false }
      exec .mret s = .next (s.setTh t th'))

namespace Sys2Proof.Machine

/-! ### Cancellation points and waits -/

/-- Instructions that are cancellation points on arrival, when no operand is void (R36). -/
def pointForms (rd : XReg) (rs1 rs2 rs3 : XReg) (k k2 : KReg) (cb : CbReg) : List (Instr × List XReg) :=
  [ (.sopen k k2, []), (.sclose rd k2, []), (.chkc, []), (.chkcV1V2, []), (.yield, []), (.yieldV1V2, []),
    (.spawn rd rs1 rs2 rs3, [rs1, rs2, rs3]), (.spawnIn k rs1 rs2 rs3, [rs1, rs2, rs3]),
    (.waiteq rd rs1 rs2, [rs1, rs2]), (.waitne rd rs1 rs2, [rs1, rs2]), (.waitge rd rs1 rs2, [rs1, rs2]),
    (.mrecv rd rs1, [rs1]), (.bar rd rs1, [rs1]), (.tagwa rd rs1, [rs1]), (.tagwl rd rs1, [rs1]) ]

/-- Waits that begin at once: the instruction, its x sources and what it waits for (R192, R196, R213). -/
def waitForms (th : Thread) (rd rs1 rs2 : XReg) : List (Instr × List XReg × WaitKind) :=
  let a := (th.rx rs1).val
  let b := (th.rx rs2).val
  [ (.waiteq rd rs1 rs2, [rs1, rs2], .word .eq a b), (.waitne rd rs1 rs2, [rs1, rs2], .word .ne a b),
    (.waitge rd rs1 rs2, [rs1, rs2], .word .ge a b), (.mrecv rd rs1, [rs1], .recv a.toNat) ]

/-- What a send of `ws` to the thread `d` does, `s0` being the device once the words were read (R190, R191). -/
def sendsTo (s : State) (t : Nat) (th : Thread) (i : Instr) (s0 : State) (d : Nat) (ws : List Word) : Prop :=
  let b := s0.birth th 0
  let returned := if b.1 = 0 then [] else [(⟨th.sid0, b.1, .member, th.tile / 256⟩ : Ret)]
  (∀ r rt, s0.byTid d = some (r, rt) → rt.ending = false → s0.msgRoom rt ws.length = true →
    ∃ (s' : State) (th' : Thread) (rt' : Thread), exec i s = .next s' ∧ s'.thread? t = some th' ∧ th'.pc = th.pc + 4 ∧ th'.x = th.x ∧
      th'.k = b.2.1.k ∧ s'.scopes = b.2.2.scopes ∧ s'.returns = s0.returns ∧
      s'.mem = s0.mem ∧ s'.thread? r = some rt' ∧ rt'.x = rt.x ∧
      rt'.inbox ++ rt'.overflow = rt.inbox ++ rt.overflow ++ [⟨th.tid t, ws, th.sid0, b.1⟩]) ∧
  (∀ r rt, s0.byTid d = some (r, rt) → rt.ending = false → s0.msgRoom rt ws.length = false →
    exec i s = .next (s0.setTh t { th with stalled := true })) ∧
  ((s0.byTid d = none ∨ ∃ r rt, s0.byTid d = some (r, rt) ∧ rt.ending = true) →
    exec i s = goesOn { b.2.2 with returns := s0.returns ++ returned } t b.2.1)

end Sys2Proof.Machine

/-- R36, R166, R363, R373, R375: every cancellation point diverts a cancelled, unshielded thread to CLAND with no other
effect but that its watchdog restarts and its fault service ends. That CBWAITF and CBWAITE divert before their count and
buffer are checked follows R363's order against R209's pseudocode (log 51). -/
def Obligations.CancellationPointsDivert : Prop :=
  ∀ s t th rd rs1 rs2 rs3 k k2 cb, Executing s t th →
    (th.cancel = true ∨ s.scopeCancelled th.sid0 = true) → th.shieldn = 0 →
    (∀ p ∈ pointForms rd rs1 rs2 rs3 k k2 cb, (∀ r ∈ p.2, (th.rx r).void = false) →
      exec p.1 s = divertsTo s t th) ∧
    (∀ i ∈ [Instr.cbwaitf rd cb rs1, Instr.cbwaite rd cb rs1], (th.rx rs1).void = false →
      exec i s = divertsTo s t th)

/-- R27, R28, R168, R170 to R173: SOPEN opens a child scope and leaves an OPENER handle of weight 2^40; SCLOSE closes
it and waits for the join; SCLOSEA closes it and leaves a CLOSED handle, or returns an entered grant; SENTER takes a
grant of 2^24 in the birth scope or one above it that is OPEN, and an EMPTY handle elsewhere. An EMPTY or wrong handle
raises SCOPE_STATE. Which free record is taken is the model's choice: the lowest (log 10). -/
def Obligations.ScopesOpenCloseAndEnter : Prop :=
  ∀ s t th, Executing s t th →
    (∀ rd rs1 rec c, s.diverts th = false → (th.rk rs1).kind ∈ [HKind.birth, .opener, .entered] →
      (th.rk rd).kind = .empty → s.scope? (th.rk rs1).sid = some c → c.depth < 255 →
      s.pickScope (th.tile / 256) = some rec →
      ∃ (s' : State) (th' : Thread) (id : Nat) (o : Scope), exec (.sopen rd rs1) s = .next s' ∧ s'.thread? t = some th' ∧
        th'.pc = th.pc + 4 ∧ th'.x = th.x ∧ th'.rk rd = ⟨.opener, id, 2 ^ 40⟩ ∧
        tfind s'.scopes rec = some o ∧ id = rec * 16384 + o.reuse ∧ o.state = .opened ∧
        o.parent = (th.rk rs1).sid ∧ o.depth = c.depth + 1 ∧ o.o = 2 ^ 40 ∧ o.opener = th.tid t ∧
        o.cmd = th.cmd ∧ o.faulted = false ∧ o.succeeded = false) ∧
    (∀ rd rs1, s.diverts th = false → (th.rk rs1).kind = .empty ∨ (th.rk rs1).kind = .closed →
      exec (.sopen rd rs1) s = .next (s.trap t (seen th) 26 (th.rk rs1).id)) ∧
    (∀ rd rs1, s.diverts th = false → (th.rk rs1).kind = .opener →
      exec (.sclose rd rs1) s = waitsFor (s.closeScope (th.tile / 256) (th.rk rs1).sid (th.rk rs1).weight) t
        ((seen th).wk rs1 ⟨.opener, (th.rk rs1).sid, 0⟩) (.join (th.rk rs1).sid rs1) rd) ∧
    (∀ rd rs1, s.diverts th = false → (th.rk rs1).kind ≠ .opener →
      exec (.sclose rd rs1) s = .next (s.trap t (seen th) 26 (th.rk rs1).id)) ∧
    (∀ rs1, ∀ i ∈ [Instr.sclosea rs1, Instr.scloseaV2 rs1],
      exec i s = match (th.rk rs1).kind with
        | .opener => goesOn (s.closeScope (th.tile / 256) (th.rk rs1).sid (th.rk rs1).weight) t
            (th.wk rs1 ⟨.closed, (th.rk rs1).sid, 0⟩)
        | .entered => goesOn (s.giveBack (th.tile / 256) (th.rk rs1).sid (th.rk rs1).weight) t (th.wk rs1 ⟨.empty, 0, 0⟩)
        | .closed => goesOn s t th
        | .empty => .next (s.trap t th 26 0)
        | .birth => .next (s.trap t th 26 (th.rk rs1).id)) ∧
    (∀ rd rs1, ∀ i ∈ [Instr.senter rd rs1, Instr.senterV2 rd rs1],
      ((th.rx rs1).void = true → exec i s = voids s t th 2) ∧
      ((th.rx rs1).void = false → (th.rk rd).kind ≠ .empty →
        exec i s = .next (s.trap t th 26 (th.rk rd).id)) ∧
      ((th.rx rs1).void = false → (th.rk rd).kind = .empty →
        let sid := (th.rx rs1).val.toNat
        (∀ c, s.scope? sid = some c → sid < 2 ^ 32 → c.state = .opened → s.under sid 256 th.sid0 = true →
          exec i s = goesOn (s.setScope sid { c with o := c.o + 2 ^ 24 }) t
            (th.wk rd ⟨.entered, sid, 2 ^ 24⟩)) ∧
        ((2 ^ 32 ≤ sid ∨ s.under sid 256 th.sid0 = false ∨ ∀ c, s.scope? sid = some c → c.state ≠ .opened) →
          exec i s = goesOn s t (th.wk rd ⟨.empty, 0, 0⟩))))

/-- R28, R171, R172: closing a scope moves it from OPEN to CLOSING and sends the handle's weight home, and changes
nothing else. R29, R30: a birth splits the creator's weight so that the sum is kept: what the member and the creator
hold is what the creator held, plus what the scope's O rose by, and each of them holds some. -/
def Obligations.WeightIsConservedAndSentHome : Prop :=
  (∀ (s : State) d sid w c, s.scope? sid = some c →
    let s' := s.closeScope d sid w
    s' = { s with scopes := s'.scopes, returns := s'.returns } ∧
    s'.returns = s.returns ++ (if w = 0 then [] else [⟨sid, w, .member, d⟩]) ∧
    s'.scope? sid = some { c with state := if c.state = .opened then .closing else c.state } ∧
    ∀ k, k ≠ sid / 16384 → tfind s'.scopes k = tfind s.scopes k) ∧
  (∀ (s : State) (th : Thread) (k : KReg) c, s.scope? (th.rk k).sid = some c → 0 < (th.rk k).weight →
    let r := s.birth th k
    let added := if (th.rk k).weight = 1 then 2 ^ 24 else 0
    r.1 + (r.2.1.rk k).weight = (th.rk k).weight + added ∧ 0 < r.1 ∧ 0 < (r.2.1.rk k).weight ∧
    r.2.2.scope? (th.rk k).sid = some { c with o := c.o + added } ∧
    r.2.2 = { s with scopes := r.2.2.scopes } ∧
    (∀ j, j ≠ (th.rk k).sid / 16384 → tfind r.2.2.scopes j = tfind s.scopes j) ∧
    ∀ j, j ≠ k → r.2.1.rk j = th.rk j)

/-- R34, R174: SCANCEL marks the scope of its handle and every scope below it CANCELLED, sets the cancel bit of every
thread born into one of them, changes no register of any thread and no memory, and lets the caller go on; on an EMPTY
handle it raises SCOPE_STATE. R35, R175: the first SUCCEED in a scope wins: it writes 1, records the winner, and
cancels the scope's other threads and the scopes they opened; a later one writes 0 and cancels its own thread. -/
def Obligations.CancellationAndFirstSuccess : Prop :=
  (∀ s t th rs1, Executing s t th → ∀ i ∈ [Instr.scancel rs1, Instr.scancelV1V2 rs1],
    ((th.rk rs1).kind = .empty → exec i s = .next (s.trap t th 26 0)) ∧
    ((th.rk rs1).kind ≠ .empty →
      let sid := (th.rk rs1).sid
      ∃ s' : State, exec i s = .next s' ∧ s'.mem = s.mem ∧
        (∀ k c, tfind s.scopes k = some c → c.state ≠ .free → c.state ≠ .joined →
          tfind s'.scopes k = some { c with
            cancelled := c.cancelled || s.under sid 256 (State.scopeId k c.reuse) }) ∧
        (∀ u x, u ≠ t → s.thread? u = some x →
          s'.thread? u = some { x with cancel := x.cancel || s.under sid 256 x.sid0 }) ∧
        s'.thread? t = some { th with
          cancel := th.cancel || s.under sid 256 th.sid0, pc := th.pc + 4, stalled := false, peer := [],
          skipCheck := false })) ∧
  (∀ s t th rd c, Executing s t th → s.scope? th.sid0 = some c →
    ∀ i ∈ [Instr.succeed rd, Instr.succeedV1V2 rd],
    (c.succeeded = true → c.winner ≠ th.tid t →
      exec i s = goesOn s t (Thread.wx { th with cancel := true } rd (.of 0))) ∧
    (c.succeeded = true → c.winner = th.tid t → exec i s = goesOn s t (th.wx rd (.of 0))) ∧
    (c.succeeded = false →
      ∃ (s' : State) (th' : Thread), exec i s = .next s' ∧ s'.thread? t = some th' ∧ th'.rx rd = (if rd = 0 then ⟨0, false⟩ else .of 1) ∧
        th'.pc = th.pc + 4 ∧ s'.mem = s.mem ∧
        (∃ c' : Scope, s'.scope? th.sid0 = some c' ∧ c'.succeeded = true ∧ c'.winner = th.tid t ∧
          c'.state = c.state ∧ c'.o = c.o) ∧
        (∀ k ch, tfind s.scopes k = some ch → ch.parent = th.sid0 → ch.opener ≠ th.tid t → ch.state ≠ .free →
          ch.state ≠ .joined → ∃ ch' : Scope, tfind s'.scopes k = some ch' ∧ ch'.cancelled = true ∧
            ch'.state = ch.state) ∧
        ∀ u x, u ≠ t → s.thread? u = some x → x.sid0 = th.sid0 → x.tid u ≠ th.tid t →
          ∃ x' : Thread, s'.thread? u = some x' ∧ x'.cancel = true ∧ x'.pc = x.pc ∧ x'.x = x.x))

/-- R179: SSTAT writes the status word: 0 on an EMPTY handle, else STATE, CANCELLED, SUCCEEDED, FAULTED, the handle's
KIND, DEPTH, CAUSE and the winner's identifier in their fields; on a CLOSED handle of a joined scope it also reports
the join and leaves the handle EMPTY. R176, R177: SHIELD and UNSHIELD count SHIELDN up and down and fault at its ends;
CHKC and YIELD go on when they do not divert. -/
def Obligations.StatusWordsShieldsAndBareChecks : Prop :=
  (∀ s t th rd rs1, Executing s t th → ∀ i ∈ [Instr.sstat rd rs1, Instr.sstatV1V2 rd rs1],
    let h := th.rk rs1
    ((h.kind = .empty ∨ s.scope? h.sid = none) → exec i s = goesOn s t (th.wx rd (.of 0))) ∧
    (∀ c, h.kind ≠ .empty → s.scope? h.sid = some c →
      ∃ w : Word, w = statusWord c h.kind (c.cancelled || (h.kind == .birth && th.cancel)) ∧
        exec i s =
          if h.kind = .closed ∧ c.state = .joined
          then goesOn (s.report h.sid) t ((th.wk rs1 ⟨.empty, 0, 0⟩).wx rd (.of w))
          else goesOn s t (th.wx rd (.of w))) ∧
    ∀ (c : Scope) (k : HKind) (b : Bool), c.winner < 2 ^ 32 → c.cause < 2 ^ 8 → c.depth < 2 ^ 8 →
      let w := statusWord c k b
      fld w 1 0 = (match c.state with | .free => 0 | .opened => 1 | .closing => 2 | .joined => 3) ∧
      w.getLsbD 2 = b ∧ w.getLsbD 3 = c.succeeded ∧ w.getLsbD 4 = c.faulted ∧
      fld w 7 5 = (match k with | .empty => 0 | .birth => 1 | .opener => 2 | .entered => 3 | .closed => 4) ∧
      fld w 23 16 = c.depth ∧ fld w 31 24 = (if c.faulted then c.cause else 0) ∧
      fld w 63 32 = (if c.succeeded then c.winner else 0)) ∧
  (∀ s t th, Executing s t th →
    (∀ i ∈ [Instr.shield, Instr.shieldV1V2],
      (th.shieldn.toNat = 65535 → exec i s = .next (s.trap t th 26 65535)) ∧
      (th.shieldn.toNat < 65535 →
        exec i s = goesOn s t { th with shieldn := BitVec.ofNat 16 (th.shieldn.toNat + 1) })) ∧
    (∀ i ∈ [Instr.unshield, Instr.unshieldV1V2],
      (th.shieldn.toNat = 0 → exec i s = .next (s.trap t th 26 0)) ∧
      (0 < th.shieldn.toNat →
        exec i s = goesOn s t { th with shieldn := BitVec.ofNat 16 (th.shieldn.toNat - 1) })) ∧
    (∀ i ∈ [Instr.chkc, Instr.chkcV1V2, Instr.yield, Instr.yieldV1V2], s.diverts th = false →
      exec i s = goesOn s t (seen th)))

/-- R32, R178: EXIT ends the thread: its record is free, keeping its reuse count, and its k0 weight and pin windows
pass to an entry of its tile's retirement tracker; while the tracker is full it waits. R25, R180, R181: SPAWN creates
a thread in the scope of k0, and SPAWN.IN in that of k[rd], with pc the entry, a0 the argument, the inherited
registers of R25, every other x, f, v, m and q register zero, k1 to k7 EMPTY and in k0 a BIRTH handle with the weight
that the birth of R30 takes from the spawner's handle; it writes the new identifier, and waits at issue while every
record is in use. An EMPTY or CLOSED handle, a misaligned
entry and a placement word that cannot be served fault, and a void operand nullifies. Which free record is taken is
the model's choice: the lowest (log 10). -/
def Obligations.SpawnAndExit : Prop :=
  (∀ s t th, Executing s t th → ∀ i ∈ [Instr.exit, Instr.exitV1V2],
    (32 ≤ (s.tile th.tile).tracker.length → exec i s = .next (s.setTh t { th with stalled := true })) ∧
    ((s.tile th.tile).tracker.length < 32 →
      ∃ s' : State, exec i s = .next s' ∧ s'.mem = s.mem ∧ tfind s'.threadReuse t = some th.reuse ∧
        s'.threads = tdel (s.closeThread t th).threads t ∧
        (∃ e ∈ (s'.tile th.tile).tracker, e.tid = th.tid t ∧ e.sid = th.sid0 ∧
          e.weight = (th.rk 0).weight ∧ e.windows = th.windows ∧ e.task = th.task))) ∧
  (∀ s t th rs1 rs2 rs3, Executing s t th →
    let e := th.rx rs1; let a := th.rx rs2; let p := th.rx rs3
    (∀ rd, e.void = true ∨ a.void = true ∨ p.void = true →
      exec (.spawn rd rs1 rs2 rs3) s = voidsX s t th rd 3) ∧
    (∀ k, e.void = true ∨ a.void = true ∨ p.void = true →
      exec (.spawnIn k rs1 rs2 rs3) s = voids s t th 2) ∧
    (e.void = false → a.void = false → p.void = false → s.diverts th = false → ∀ rd k,
      ∀ f ∈ [(Instr.spawn rd rs1 rs2 rs3, (0 : KReg), rd), (Instr.spawnIn k rs1 rs2 rs3, k, (0 : XReg))],
        let h := th.rk f.2.1
        ((h.kind = .empty ∨ h.kind = .closed) → exec f.1 s = .next (s.trap t (seen th) 26 h.id)) ∧
        (h.kind ≠ .empty → h.kind ≠ .closed →
          (e.val.toNat % 4 ≠ 0 → exec f.1 s = .next (s.trap t (seen th) 0 e.val)) ∧
          (e.val.toNat % 4 = 0 → placeLegal s p.val = false → exec f.1 s = .next (s.trap t (seen th) 2 p.val)) ∧
          (e.val.toNat % 4 = 0 → placeLegal s p.val = true → s.freeThread = none →
            exec f.1 s = stallsHere s t (seen th)) ∧
          (e.val.toNat % 4 = 0 → placeLegal s p.val = true →
            ∀ r, s.freeThread = some r → s.thread? r = none →
              ∃ (s' : State) (th' : Thread) (c : Thread), exec f.1 s = .next s' ∧ s'.thread? t = some th' ∧ s'.thread? r = some c ∧
                s'.mem = s.mem ∧ th'.pc = th.pc + 4 ∧
                th'.rx f.2.2 = (if f.2.2 = 0 then ⟨0, false⟩ else .of (BitVec.ofNat 64 (r * 256 + c.reuse))) ∧
                c.reuse = s.nextReuse r ∧ c.pc = e.val ∧ c.rx 10 = .of a.val ∧
                (∀ q : XReg, q ≠ 10 → c.rx q = .of 0) ∧ (∀ q, c.rf q = .of 0) ∧
                (∀ (q : VReg) (i : Fin 64), (c.rv q)[i] = .of 0) ∧ (∀ q : MReg, q ≠ 0 → c.rm q = 0) ∧
                (∀ q, c.rq q = 0) ∧ (∀ q : KReg, q ≠ 0 → c.rk q = ⟨.empty, 0, 0⟩) ∧
                c.rk 0 = ⟨.birth, h.sid, (s.birth (seen th) f.2.1).1⟩ ∧
                th'.k = (s.birth (seen th) f.2.1).2.1.k ∧ s'.scopes = (s.birth (seen th) f.2.1).2.2.scopes ∧
                c.windows = [] ∧ c.sid0 = h.sid ∧ c.ver = th.ver ∧
                c.cls = (if p.val.getLsbD 22 then .compute else .stage) ∧ c.mode = .user ∧ c.armed = true ∧
                c.cland = th.cland ∧ c.utvec = th.utvec ∧ c.waittmo = th.waittmo ∧
                c.seedkey = th.seedkey ∧ c.stream = th.stream ∧ c.prio = th.prio ∧ c.shieldn = 0 ∧
                c.voidseen = 0 ∧ c.cancel = s.scopeCancelled h.sid))))

/-- R40 to R42, R182 to R185: TSKNEW makes a CREATED task with weight from k0; TSKPUB publishes it, or makes it READY
in its cluster's queue when its count falls to 0; TSKSIG holds a signal of a CREATED task, lowers the count of a
PUBLISHED one and is ignored by a DISCARDED one; every other use faults TASK_STATE or TASK_UNDERFLOW; TSKSTAT writes
the state, the count and the signals held; a void operand nullifies each of them. TSKNEW waits at issue while no record
is free, faults on a misaligned entry and where its block cannot be read, and in a cancelled scope leaves the task
DISCARDED with its weight on the way home (log 50). Which free record is taken is the model's choice: the lowest (log
10); that TSKPUB of a task that is not CREATED raises cause 26 is R184's and R371's word against R380's (log 56). -/
def Obligations.TasksAreCreatedPublishedAndSignalled : Prop :=
  ∀ s t th, Executing s t th →
    (∀ rd rs1 rs2, (th.rx rs1).void = true ∨ (th.rx rs2).void = true →
      exec (.tsknew rd rs1 rs2) s = voidsX s t th rd 3) ∧
    (∀ rd rs1, (th.rx rs1).void = true → exec (.tskpub rs1) s = voids s t th 2 ∧
      exec (.tsksig rs1) s = voids s t th 2 ∧ exec (.tskstat rd rs1) s = voidsX s t th rd 3) ∧
    (∀ rd rs1 rs2, (th.rx rs1).void = false → (th.rx rs2).void = false →
      let ctl := (th.rx rs2).val
      let read := s.readVals th .base [((th.rx rs1).val, 8), ((th.rx rs1).val + 8, 8)]
      let s0 := s.touched th false [(th.rx rs1).val, (th.rx rs1).val + 8]
      let b := s0.birth th 0
      (taskCtlLegal s ctl = false → exec (.tsknew rd rs1 rs2) s = .next (s.trap t th 2 ctl)) ∧
      (∀ (c : Nat) (v : Word), taskCtlLegal s ctl = true → read = .error (.trap c v) →
        exec (.tsknew rd rs1 rs2) s = .next (s.trap t th c v)) ∧
      (∀ e a, taskCtlLegal s ctl = true → read = .ok [e, a] → e % 4 ≠ 0 →
        exec (.tsknew rd rs1 rs2) s = .next (s0.trap t th 0 (BitVec.ofNat 64 e))) ∧
      (∀ e a, taskCtlLegal s ctl = true → read = .ok [e, a] → e % 4 = 0 → s0.freeTask = none →
        exec (.tsknew rd rs1 rs2) s = stallsHere s0 t th) ∧
      (∀ e a r, taskCtlLegal s ctl = true → read = .ok [e, a] → e % 4 = 0 → s0.freeTask = some r →
        ∃ (s' : State) (th' : Thread) (x : Task), exec (.tsknew rd rs1 rs2) s = .next s' ∧ s'.thread? t = some th' ∧
          th'.pc = th.pc + 4 ∧ tfind s'.tasks r = some x ∧ s'.mem = s.mem ∧
          th'.rx rd = (if rd = 0 then ⟨0, false⟩ else .of (BitVec.ofNat 64 (r * 4096 + x.reuse))) ∧
          x.state = (if s.scopeCancelled th.sid0 then .discarded else .created) ∧
          x.weight = b.1 ∧ th'.k = b.2.1.k ∧ s'.scopes = b.2.2.scopes ∧
          s'.returns = s.returns ++ (if s.scopeCancelled th.sid0
            then [(⟨th.sid0, b.1, .member, fld ctl 21 16 / 16⟩ : Ret)] else []) ∧ x.entry = BitVec.ofNat 64 e ∧ x.arg = BitVec.ofNat 64 a ∧
          x.count = fld ctl 15 0 ∧ x.cluster = fld ctl 21 16 ∧ x.pending = none ∧ x.sid = th.sid0 ∧
          x.issuer = th.tid t ∧ x.utvec = th.utvec ∧ x.cland = th.cland ∧ x.prio = th.prio)) ∧
    (∀ rs1 x, (th.rx rs1).void = false →
      let id := (th.rx rs1).val.toNat
      s.task? id = some x →
      (x.state ≠ .created → exec (.tskpub rs1) s = .next (s.trap t th 26 (th.rx rs1).val)) ∧
      (x.state = .created → x.count < x.pending.getD 0 →
        exec (.tskpub rs1) s = .next (s.trap t th 27 (th.rx rs1).val)) ∧
      (x.state = .created → x.pending.getD 0 ≤ x.count →
        ∃ s' : State, exec (.tskpub rs1) s = goesOn s' t th ∧
          s'.task? id = some { x with
            count := x.count - x.pending.getD 0, pending := none
            state := if x.count = x.pending.getD 0 then .ready else .published } ∧
          s' = { s with tasks := s'.tasks, clusters := s'.clusters } ∧
          (s'.cluster x.cluster).ready = (s.cluster x.cluster).ready ++
            (if x.count = x.pending.getD 0
              then [⟨true, id / 4096, x.prio, s.time, 0, none, x.cls⟩] else [])) ∧
      (x.state = .created → x.pending = some 65535 →
        exec (.tsksig rs1) s = .next (s.trap t th 27 (th.rx rs1).val)) ∧
      (x.state = .created → (x.pending = none → s.pendingHeld x.cluster < 256) → x.pending ≠ some 65535 →
        ∃ s' : State, exec (.tsksig rs1) s = goesOn s' t th ∧
          s'.task? id = some { x with pending := some (x.pending.getD 0 + 1) }) ∧
      (x.state = .created → x.pending = none → 256 ≤ s.pendingHeld x.cluster →
        exec (.tsksig rs1) s = .next (s.setTh t { th with stalled := true })) ∧
      (x.state = .published → ∃ s' : State, exec (.tsksig rs1) s = goesOn s' t th ∧
          ∃ y : Task, s'.task? id = some y ∧ y.count = x.count - 1 ∧
            y.state = (if x.count - 1 = 0 then .ready else .published)) ∧
      (x.state = .discarded → exec (.tsksig rs1) s = goesOn s t th) ∧
      (x.state = .ready ∨ x.state = .running ∨ x.state = .done →
        exec (.tsksig rs1) s = .next (s.trap t th 27 (th.rx rs1).val)) ∧
      ∀ rd, x.count < 2 ^ 16 → x.pending.getD 0 < 2 ^ 16 → ∃ w : Word,
        exec (.tskstat rd rs1) s = goesOn s t (th.wx rd (.of w)) ∧
        fld w 63 48 = 0 ∧ fld w 47 32 = (if x.state = .created then x.pending.getD 0 else 0) ∧
        fld w 15 3 = 0 ∧ fld w 31 16 = x.count ∧
        fld w 2 0 = (match x.state with
          | .free => 0 | .created => 1 | .published => 2 | .ready => 3 | .running => 4 | .done => 5
          | .discarded => 6)) ∧
    (∀ rs1, (th.rx rs1).void = false → s.task? (th.rx rs1).val.toNat = none →
      exec (.tskpub rs1) s = .next (s.trap t th 26 (th.rx rs1).val) ∧
      exec (.tsksig rs1) s = .next (s.trap t th 27 (th.rx rs1).val) ∧
      ∀ rd, exec (.tskstat rd rs1) s = goesOn s t (th.wx rd (.of 0)))

/-- R43, R44, R186, R187: RNGINIT binds the tile's range registers, and answers a thief that waits for the range before
with the empty one; RCLAIM by the bound thread takes up to CHUNK numbers from the front, after it gave half of what is
left to a waiting thief, or the empty range where no more than CHUNK is left; by another thread it writes 0; RSTEAL
writes the empty range where there is nothing to ask, and else waits for the owner; a void operand nullifies RNGINIT and
RSTEAL; the answer ends the thief's instruction, where a debugger's STEP or HALT of it takes effect (R424, R427). -/
def Obligations.LazyRangesAreClaimedAndStolen : Prop :=
  (∀ (s : State) f u x l rd w first n, s.byTid f = some (u, x) → x.wait = some ⟨.steal l, rd, w⟩ →
    let x' : Thread := { x.wx rd (.of (BitVec.ofNat 64 (n * 2 ^ 32 + if n = 0 then 0 else first)))
      with wait := none, pc := x.pc + 4, stalled := false, peer := [], skipCheck := false }
    s.answerThief f first n = (s.setTh u x').boundary u x' 0 ∧
    (x.stepping = none → x.halting = false → s.answerThief f first n = s.setTh u x')) ∧
  ∀ s t th, Executing s t th →
    (∀ rd rs1 rs2, (th.rx rd).void = false → (th.rx rs1).void = false → (th.rx rs2).void = false →
      let c := (th.rx rd).val.toNat; let lo := (th.rx rs1).val.toNat; let hi := (th.rx rs2).val.toNat
      (2 ^ 32 ≤ lo ∨ 2 ^ 32 ≤ hi ∨ c = 0 ∨ 2 ^ 32 ≤ c →
        exec (.rnginit rd rs1 rs2) s = .next (s.trap t th 2 (th.rx rd).val)) ∧
      (lo < 2 ^ 32 → hi < 2 ^ 32 → 0 < c → c < 2 ^ 32 → (s.tile th.tile).ranges.thief = none →
        exec (.rnginit rd rs1 rs2) s = goesOn (s.setTile th.tile
          { s.tile th.tile with ranges := ⟨lo, max lo hi, c, none, some (th.tid t)⟩ }) t th) ∧
      (∀ f, lo < 2 ^ 32 → hi < 2 ^ 32 → 0 < c → c < 2 ^ 32 → (s.tile th.tile).ranges.thief = some f →
        exec (.rnginit rd rs1 rs2) s = goesOn ((s.setTile th.tile
          { s.tile th.tile with ranges := ⟨lo, max lo hi, c, none, some (th.tid t)⟩ }).answerThief f 0 0) t th)) ∧
    (∀ rd rs1 rs2, (th.rx rd).void = true ∨ (th.rx rs1).void = true ∨ (th.rx rs2).void = true →
      exec (.rnginit rd rs1 rs2) s = voids s t th 2) ∧
    (∀ rd rs1, (th.rx rs1).void = true → exec (.rsteal rd rs1) s = voidsX s t th rd 3) ∧
    (∀ rd, let r := (s.tile th.tile).ranges
      (r.bound ≠ some (th.tid t) → exec (.rclaim rd) s = goesOn s t (th.wx rd (.of 0))) ∧
      (∀ f, r.bound = some (th.tid t) → r.thief = some f → r.chunk < r.hi - r.lo →
        let mid := r.lo + (r.hi - r.lo + 1) / 2
        let n := min r.chunk (mid - r.lo)
        exec (.rclaim rd) s = goesOn ((s.setTile th.tile
          { s.tile th.tile with ranges := { r with lo := r.lo + n, hi := mid, thief := none } }).answerThief f
            mid (r.hi - mid)) t (th.wx rd (.of (BitVec.ofNat 64 (n * 2 ^ 32 + if n = 0 then 0 else r.lo))))) ∧
      (∀ f, r.bound = some (th.tid t) → r.thief = some f → r.hi - r.lo ≤ r.chunk →
        let n := r.hi - r.lo
        exec (.rclaim rd) s = goesOn ((s.setTile th.tile
          { s.tile th.tile with ranges := { r with lo := r.lo + n, thief := none } }).answerThief f 0 0) t
          (th.wx rd (.of (BitVec.ofNat 64 (n * 2 ^ 32 + if n = 0 then 0 else r.lo))))) ∧
      (r.bound = some (th.tid t) → r.thief = none →
        let n := min r.chunk (r.hi - r.lo)
        exec (.rclaim rd) s = goesOn (s.setTile th.tile
          { s.tile th.tile with ranges := { r with lo := r.lo + n, thief := none } }) t
          (th.wx rd (.of (BitVec.ofNat 64 (n * 2 ^ 32 + if n = 0 then 0 else r.lo)))))) ∧
    (∀ rd rs1, (th.rx rs1).void = false → let k := (th.rx rs1).val.toNat
      let l := th.tile / 16 * 16 + k
      (15 < k → exec (.rsteal rd rs1) s = .next (s.trap t th 2 (th.rx rs1).val)) ∧
      (k ≤ 15 → ((s.tile l).ranges.bound = none ∨ s.inService l = false ∨
          (s.tile l).ranges.thief.isSome = true ∨ (s.tile l).ranges.bound = some (th.tid t)) →
        exec (.rsteal rd rs1) s = goesOn s t (th.wx rd (.of 0))) ∧
      (∀ b, k ≤ 15 → (s.tile l).ranges.bound = some b → b ≠ th.tid t → s.inService l = true →
        (s.tile l).ranges.thief = none →
        exec (.rsteal rd rs1) s = .next ((s.setTile l
          { s.tile l with ranges := { (s.tile l).ranges with thief := some (th.tid t) } }).setTh t
          { th with wait := some ⟨.steal l, rd, s.time⟩, stalled := false })))

/-- R190, R191: MSEND of one word and MSEND4 of four put a message at the end of a live receiver's queue, with weight
from the sender's k0, and go on, or wait while the queue has no room; to a thread that has ended they send nothing and
return the weight; a receiver identifier above 32 bits is an illegal use; a void operand nullifies. R193: MRECV4 takes
the oldest four-word message, stores its words and writes its sender, or writes 0 when there is none; MPEEK counts the
messages that wait. -/
def Obligations.MessagesAreSentQueuedAndTaken : Prop :=
  (∀ s t th rs1 rs2, Executing s t th →
    ((th.rx rs1).void = true ∨ (th.rx rs2).void = true →
      exec (.msend rs1 rs2) s = voids s t th 2 ∧ exec (.msend4 rs1 rs2) s = voids s t th 2) ∧
    ((th.rx rs1).void = false → (th.rx rs2).void = false →
      let d := (th.rx rs1).val; let a := (th.rx rs2).val
      let vas := [a, a + 8, a + 16, a + 24]
      (2 ^ 32 ≤ d.toNat → exec (.msend rs1 rs2) s = .next (s.trap t th 2 d) ∧
        exec (.msend4 rs1 rs2) s = .next (s.trap t th 2 d)) ∧
      (d.toNat < 2 ^ 32 → sendsTo s t th (.msend rs1 rs2) s d.toNat [a]) ∧
      (∀ vs : List Nat, d.toNat < 2 ^ 32 → s.readVals th .base (vas.map (fun v => (v, 8))) = .ok vs →
        sendsTo s t th (.msend4 rs1 rs2) (s.touched th false vas) d.toNat (vs.map (BitVec.ofNat 64))) ∧
      (∀ (c : Nat) (v : Word), d.toNat < 2 ^ 32 → s.readVals th .base (vas.map (fun v => (v, 8))) = .error (.trap c v) →
        exec (.msend4 rs1 rs2) s = .next (s.trap t th c v)))) ∧
  (∀ s t th rd rs1, Executing s t th →
    ((th.rx rs1).void = true → exec (.mrecv4 rd rs1) s = voidsX s t th rd 3 ∧
      exec (.mpeek rd rs1) s = voidsX s t th rd 3) ∧
    ((th.rx rs1).void = false →
      let q := th.inbox ++ th.overflow
      let a := (th.rx rs1).val
      ((∀ m ∈ q, m.words.length ≠ 4) → exec (.mrecv4 rd rs1) s = goesOn s t (th.wx rd (.of 0))) ∧
      (∀ (m : Msg) before after (x0 x1 x2 x3 : Nat), q = before ++ m :: after → m.words.length = 4 →
        (∀ k ∈ before, k.words.length ≠ 4) →
        let ps := List.zip [a, a + 8, a + 16, a + 24] m.words
        s.storeChecks th 8 ps = .ok [.loc x0, .loc x1, .loc x2, .loc x3] →
        ∃ (s' : State) (th' : Thread), exec (.mrecv4 rd rs1) s = .next s' ∧ s'.thread? t = some th' ∧ th'.pc = th.pc + 4 ∧
          th'.rx rd = (if rd = 0 then ⟨0, false⟩ else .of (BitVec.ofNat 64 m.sender)) ∧
          th'.inbox ++ th'.overflow = before ++ after ∧
          s'.mem = (storedAt s th 8 (List.zip [x0, x1, x2, x3] ps)).mem ∧
          s'.returns = s.returns ++ (if m.weight = 0 then [] else [⟨m.sid, m.weight, .member, th.tile / 256⟩])) ∧
      exec (.mpeek rd rs1) s = goesOn s t (th.wx rd (.of (BitVec.ofNat 64
        (min (q.filter (fun m => m.words.length == 4)).length (2 ^ 32 - 1) * 2 ^ 32 +
         min (q.filter (fun m => m.words.length == 1 && (a.toNat == 0 || m.sender == a.toNat))).length
           (2 ^ 32 - 1)))))))

/-- R166, R192, R196: a word wait or MRECV whose condition holds writes its result and goes on; one whose condition
does not hold leaves the thread WAITING from now; a check of its read that fails is the fault it names, and a
watchpoint that its read meets halts the thread before the wait (R422); a void operand nullifies; MRECV of a cancelled
thread that is shielded writes VOIDWORD (log 23). R63, R192, R196, R209, R213: when each condition holds and what it
returns: the word read stands in the relation; the oldest matching one-word message; enough filled or free slots; any,
or every, tag of the mask. -/
def Obligations.WaitsAndTheirConditions : Prop :=
  (∀ s t th rd rs1 rs2, Executing s t th → ∀ p ∈ waitForms th rd rs1 rs2,
    ((∃ r ∈ p.2.1, (th.rx r).void = true) → exec p.1 s = voidsX s t th rd 3) ∧
    ((∀ r ∈ p.2.1, (th.rx r).void = false) → s.diverts th = false →
      (p.1 = .mrecv rd rs1 → s.cancelled th = true →
        exec p.1 s = goesOn s t { (seen th).wx rd ⟨0, true⟩ with wait := none }) ∧
      ((p.1 = .mrecv rd rs1 → s.cancelled th = false) →
        (∀ (s1 : State) (th1 : Thread) (v : Word), s.waitCond (seen th) p.2.2 = .ok (some (s1, th1, v)) →
          exec p.1 s = goesOn s1 t { th1.wx rd (.of v) with wait := none }) ∧
        (s.waitCond (seen th) p.2.2 = .ok none → exec p.1 s = waitsFor s t (seen th) p.2.2 rd) ∧
        (∀ (c : Nat) (v : Word), s.waitCond (seen th) p.2.2 = .error (.trap c v) →
          exec p.1 s = .next (s.trap t { seen th with wait := some ⟨p.2.2, rd, s.time⟩ } c v)) ∧
        (∀ i, s.waitCond (seen th) p.2.2 = .error (.watch i) →
          WatchAt s t { th with wait := none } i (exec p.1 s = ·))))) ∧
  (∀ (s : State) (th : Thread), s.memOk →
    (∀ (c : Cmp) (a v : Word) (x : Nat), s.access th a 8 .load .base = .ok (.loc x) →
      let m : Word := BitVec.ofNat 64 (leAt s x 8)
      s.waitCond th (.word c a v) = .ok
        (if (match c with | .eq => decide (m = v) | .ne => decide (m ≠ v) | .ge => decide (0 ≤ (m - v).toInt))
          then some (s.touched th false [a], th, m) else none)) ∧
    (∀ (a : Word) (g i x : Nat), s.access th a 8 .load .base = .ok (.loc x) →
      s.waitCond th (.bar a g i) = .ok (if leAt s x 8 / 2 ^ 32 ≠ g
        then some (s.touched th false [a], th, BitVec.ofNat 64 i) else none)) ∧
    (∀ f : Nat, (∀ m ∈ th.inbox ++ th.overflow, ¬(m.words.length = 1 ∧ (f = 0 ∨ m.sender = f))) →
      s.waitCond th (.recv f) = .ok none) ∧
    (∀ (f : Nat) (m : Msg) before after (w : Word), th.inbox ++ th.overflow = before ++ m :: after → m.words = [w] →
      (f = 0 ∨ m.sender = f) →
      (∀ k ∈ before, ¬(k.words.length = 1 ∧ (f = 0 ∨ k.sender = f))) →
      s.waitCond th (.recv f) = .ok (some (s.giveBack (th.tile / 256) m.sid m.weight, th.putMsgs (before ++ after), w)) ∧
      (th.putMsgs (before ++ after)).inbox ++ (th.putMsgs (before ++ after)).overflow = before ++ after) ∧
    (∀ (filled : Bool) (b n : Nat), let d := (s.tile th.tile).cb b
      let have_ := if filled then d.fill else d.free
      s.waitCond th (.cb filled b n) =
        .ok (if n ≤ have_ then some (s, th, BitVec.ofNat 64 have_) else none)) ∧
    (∀ m : Word, let set := (s.tile th.tile).tagMask th.cls
      s.waitCond th (.tagAny m) =
        .ok (if set &&& m ≠ 0 then some (s, th, (s.tile th.tile).tagFirst th.cls m) else none) ∧
      s.waitCond th (.tagAll m) =
        .ok (if set &&& m = m then some (s, th, (s.tile th.tile).tagBad th.cls m) else none)))

/-- R209, R213: the waits for buffers and tags: CBWAITF and CBWAITE fault CB_OVERRUN on an unconfigured buffer or more
slots than it has, TAGWA and TAGWL of an empty mask write 0, and each returns or begins as its condition says. R194,
R195: BAR adds one to ARRIVED, or as the last of N starts the next generation with ARRIVED 0, in one step, and then
waits for the generation to end; a misaligned or illegal record is an illegal use; a watchpoint that its reads or its
write meet halts the thread before it arrives (R421, R422). R83: an arrival at a record of reach
FABRIC or SYSTEM waits at issue until every write at a peer has landed (log 4). The cancellation point comes before the
check of the buffer (log 51). -/
def Obligations.BufferWaitsTagWaitsAndBarriers : Prop :=
  (∀ s t th rd rs1 (cb : CbReg), Executing s t th → s.diverts th = false → (th.rx rs1).void = false →
    let n := (th.rx rs1).val
    let d := (s.tile th.tile).cb cb.toNat
    (∀ f ∈ [(Instr.cbwaitf rd cb rs1, true), (Instr.cbwaite rd cb rs1, false)],
      (d.count = 0 ∨ d.count < n.toNat → exec f.1 s = .next (s.trap t (seen th) 29 (BitVec.ofNat 64 cb.toNat))) ∧
      (0 < d.count → n.toNat ≤ d.count →
        let have_ := if f.2 then d.fill else d.free
        (n.toNat ≤ have_ → exec f.1 s =
          goesOn s t { (seen th).wx rd (.of (BitVec.ofNat 64 have_)) with wait := if n = 0 then th.wait else none }) ∧
        (have_ < n.toNat → exec f.1 s = waitsFor s t (seen th) (.cb f.2 cb.toNat n.toNat) rd))) ∧
    (n = 0 → exec (.tagwa rd rs1) s = goesOn s t ((seen th).wx rd (.of 0)) ∧
      exec (.tagwl rd rs1) s = goesOn s t ((seen th).wx rd (.of 0))) ∧
    (n ≠ 0 → let x := s.tile th.tile
      (x.tagMask th.cls &&& n ≠ 0 → exec (.tagwa rd rs1) s =
        goesOn s t { (seen th).wx rd (.of (x.tagFirst th.cls n)) with wait := none }) ∧
      (x.tagMask th.cls &&& n = 0 → exec (.tagwa rd rs1) s = waitsFor s t (seen th) (.tagAny n) rd) ∧
      (x.tagMask th.cls &&& n = n → exec (.tagwl rd rs1) s =
        goesOn s t { (seen th).wx rd (.of (x.tagBad th.cls n)) with wait := none }) ∧
      (x.tagMask th.cls &&& n ≠ n → exec (.tagwl rd rs1) s = waitsFor s t (seen th) (.tagAll n) rd))) ∧
  (∀ s t th rd rs1, Executing s t th → s.memOk → s.diverts th = false → (th.rx rs1).void = false →
    let a := (th.rx rs1).val
    (a.toNat % 16 ≠ 0 → exec (.bar rd rs1) s = .next (s.trap t (seen th) 2 a)) ∧
    (∀ (c : Nat) (v : Word), a.toNat % 16 = 0 → s.barPlaces (seen th) a = .error (.trap c v) →
      exec (.bar rd rs1) s = .next (s.trap t (seen th) c v)) ∧
    (∀ x q, a.toNat % 16 = 0 → s.barPlaces (seen th) a = .ok (.loc x, q) →
      let w0 := leAt s x 8; let w1 := leAt s (x + 8) 8
      let n := w0 % 2 ^ 16; let arrived := w0 / 2 ^ 16 % 2 ^ 16; let g := w0 / 2 ^ 32
      let legal := 0 < n ∧ arrived < n ∧ w1 ≤ 5
      let new := if arrived + 1 = n then (g + 1) % 2 ^ 32 * 2 ^ 32 + n else g * 2 ^ 32 + (arrived + 1) * 2 ^ 16 + n
      let meets (va : Word) (u : Use) (v : Option Word) (i : Nat) : Prop :=
        th.skipCheck = false ∧ ∃ w, th.wp[i]? = some w ∧ Watches w va.toNat 8 u v
      let first (h : Nat → Prop) (i : Nat) : Prop := h i ∧ ∀ j, j < i → ¬h j
      let writes (i : Nat) : Prop := legal ∧ meets a .store (some (BitVec.ofNat 64 new)) i
      (∀ i, (first (meets a .load none) i ∨ ((∀ j, ¬meets a .load none j) ∧ (first (meets (a + 8) .load none) i ∨
          ((∀ j, ¬meets (a + 8) .load none j) ∧ first writes i)))) → WatchAt s t th i (exec (.bar rd rs1) s = ·)) ∧
      ((∀ i, ¬meets a .load none i ∧ ¬meets (a + 8) .load none i ∧ ¬writes i) →
        (¬legal → exec (.bar rd rs1) s = .next (s.trap t (seen th) 2 a)) ∧
        (legal → Held s w1 → exec (.bar rd rs1) s = stallsHere s t th) ∧
        (legal → ¬Held s w1 → ∃ s1 : State, Stored (s.touched (seen th) true [a]) s1 x 8 new ∧
          exec (.bar rd rs1) s = .next (s1.beginWait t { seen th with peer := [] } (.bar a g arrived) rd)))))

namespace Sys2Proof.Machine

/-! ### Decoding -/

/-- Words written out in the manual, under encoding version 3. -/
def spelledWords : List (W32 × Instr) :=
  [ (0x0801800B, .scancel 3), (0x0600358B, .void 11), (0x080E3E8B, .vtest 29 28), (0x000E440B, .bvoid 28 4),
    (0x3862F50B, .spawn 10 5 6 7), (0x3A62F10B, .spawnIn 2 5 6 7), (0x6980202B, .fenceReach .package 2 3),
    (0xB080202B, .fenceReach .system 4 1), (0x60B532AB, .cpy 5 10 11 12), (0x66B532AB, .cpymc 37 10 11 12),
    (0x60B572AB, .cpy2d 5 10 11 12), (0x003100DB, .vadd .f32 1 2 3), (0x8462825B, .vmul .bf16 4 5 6),
    (0x203110DB, .vfma 1 2 3 4), (0x243110DB, .vsel 1 2 3 4), (0x100520DB, .vld 1 10 256),
    (0x1015305B, .vst 1 10 256), (0x102570DB, .vldx 1 10 2), (0x000140DB, .vredsum 1 2),
    (0x0C3140DB, .vperm 1 2 3), (0x043170DB, .vcmplt 1 2 3), (0x0E00F55B, .mpop 10 1),
    (0x280160DB, .vcvt .f32mx4 1 2), (0x00A4525B, .vhad 4 8 10), (0x02A150DB, .vtopk 1 2 10),
    (0x043150DB, .vtmask 1 2 3), (0x00A1107B, .mxldw 2 10), (0x0200107B, .mxswap),
    (0x18C204FB, .mxstrm .mx4 1 4 12 3), (0x0A00157B, .mxwait 10), (0x0C00957B, .mxstat 10 1) ]

/-! ### Copies -/

/-- A copy as its three registers ask for it (R203, R204): rows, row bytes, source and destination steps. -/
def copyForms (th : Thread) (tag : Tag) (rs1 rs2 rs3 : XReg) : List (Instr × CopyReq) :=
  let d := (th.rx rs1).val; let a := (th.rx rs2).val; let w := (th.rx rs3).val
  [ (.cpy tag rs1 rs2 rs3, ⟨tag.toNat, d, a, w, 1, w.toNat, 0, 0, false⟩),
    (.cpymc tag rs1 rs2 rs3, ⟨tag.toNat, d, a, w, 1, w.toNat, 0, 0, true⟩),
    (.cpy2d tag rs1 rs2 rs3, ⟨tag.toNat, d, a, w, (w.toNat / 2 ^ 52), w.toNat / 2 ^ 34 % 2 ^ 18,
      w.toNat / 2 ^ 17 % 2 ^ 17 * 8, w.toNat % 2 ^ 17 * 8, false⟩) ]

/-- Is a destination word a buffer designator (R203)? -/
def designates (d : Word) : Prop := d.toNat / 16 = 0xCB0000000000000

/-- Where a copy writes: at the address of its destination word, or at the producer slot of the buffer that the
word designates, once that is free and no other copy fills it (R205). -/
def copyTo (x : Tile) (r : CopyReq) (plain : Prop) (a : Nat) (cb : Option Nat) : Prop :=
  (plain ∧ a = r.dst.toNat ∧ cb = none) ∨
  (¬plain ∧ ∃ b, b = r.dst.toNat % 16 ∧ cb = some b ∧ (x.cb b).count ≠ 0 ∧ r.rows * r.rowBytes ≤ (x.cb b).slotu * 64 ∧
    (x.cb b).free ≠ 0 ∧ (∀ c ∈ x.copies, c.cb ≠ some b) ∧ a = (x.cb b).base + (x.cb b).pidx * ((x.cb b).slotu * 64))

/-- Bytes of a covering range. -/
def covers (rows rowBytes step : Nat) : Nat := if rows = 0 then 0 else step * (rows - 1) + rowBytes

/-- The checks of R165 that an engine makes over a range of one page or window (R205, R223): each fails with its first
failing byte.  That a write meets a REPLICA page with cause 55 is read from R60 (log 19). -/
def EngineChecks (s : State) (th : Thread) (a n : Nat) (write : Bool) : Prop :=
  let r := s.engineRange th a n write
  let page := if write then 15 else 13
  let pin (w : Window) : Prop := w.base ≤ a ∧ a < w.base + w.size ∧ (write = true → w.readOnly = false)
  0 < n →
  ((∀ w ∈ windowsOf, ¬(w.1 ≤ a ∧ a < w.2)) → r = .error (if write then 7 else 5, a)) ∧
  (∀ w ∈ windowsOf, w.1 ≤ a → a + n ≤ w.2 → a < 2 ^ 32 →
    (NotOwned s th.tile a n → ∃ b, a ≤ b ∧ b < a + n ∧ r = .error (25, b)) ∧
    (¬NotOwned s th.tile a n → r = .ok [⟨a, n, none, windowLoc th.tile a, (0, 0)⟩])) ∧
  (2 ^ 32 ≤ a → a + n ≤ 2 ^ 56 →
    (s.leafOf th.tile th.aspace a = none → r = .error (page, a)) ∧
    ∀ f, s.leafOf th.tile th.aspace a = some f →
      (f.bit (if write then 3 else 2) = false → r = .error (page, a)) ∧
      (f.bit (if write then 3 else 2) = true → a + n ≤ f.va + f.size →
        (f.cls = 5 → write = true → r = .error (55, a)) ∧
        (f.cls = 1 → (∀ w ∈ th.windows, ¬pin w) → r = .error (49, a)) ∧
        ((f.cls ≠ 1 ∧ (f.cls = 5 → write = false)) ∨ (f.cls = 1 ∧ ∃ w ∈ th.windows, pin w ∧ a + n ≤ w.base + w.size) →
          r = .ok [match f.place th.tile a with
            | .loc x => ⟨a, n, none, x, (f.va, f.size)⟩
            | .peer dev x => ⟨a, n, some dev, x, (f.va, f.size)⟩])))

end Sys2Proof.Machine

/-- R87 to R139: under every encoding version, the word that an instruction is assembled to decodes to it, with every
operand at every value the encoding admits. The same from the other side: whatever a word decodes to is well formed,
belongs to the version, is no event, and is assembled to that very word; so no two words mean one instruction. -/
def Obligations.DecodeAndEncodeAgree : Prop :=
  (∀ (v : Version) (i : Instr), i.isEvent = false → i.wf = true → i.inVersion v = true →
    decode v (encode i) = some i) ∧
  (∀ (v : Version) (w : W32) (i : Instr), decode v w = some i →
    i.wf = true ∧ i.inVersion v = true ∧ i.isEvent = false ∧ encode i = w)

/-- The words written out in the manual decode to what it says they are. R366: a word that is no instruction under its
thread's version raises VERSION_MISMATCH, cause 57, where another version assigns it, and cause 2 where none does,
with UTVAL the word. That the fault stalls at issue while a link holds back what it ends is the model's reading of R13
(log 47). -/
def Obligations.SpelledAndUnassignedWords : Prop :=
  ((∀ p ∈ spelledWords, decode .v3 p.1 = some p.2) ∧
  (∀ v ∈ [Version.v1, .v2], decode v 0x0401800B = some (.scancelV1V2 3)) ∧
  decode .v3 0x0401800B = some (.sclosea 3)) ∧
  (∀ (s : State) t th (w : W32), decode th.ver w = none →
    let s0 : State := { s with cur := none }
    let raises (c : Nat) : Prop := OrWaits s (s0.trap t th c (w.setWidth 64)) t th (runWord th.ver w s t th = ·)
    ((∃ v i, decode v w = some i) → raises 57) ∧ ((∀ v, decode v w = none) → raises 2))

namespace Sys2Proof.Machine

/-- An enabled breakpoint at the pc of a thread that starts an instruction, unless it is the first one after a resume or
a step, or a peer has answered it already (R421, R422). -/
def BreaksAt (th : Thread) (i : Nat) : Prop :=
  th.skipCheck = false ∧ th.peer = [] ∧
    ∃ b, th.bp[i]? = some b ∧ b.getLsbD 0 = true ∧ b.toNat / 4 = th.pc.toNat / 4
/-- `r` is a core's turn in which thread t of context x comes to `o`: a thread then stalled at issue is passed over, and
the rotation goes on with at most n more contexts; else the core remembers the context. No thread is current after it,
and a debugger's STEP or HALT takes effect (`State.afterIssue`). -/
def TurnIs (r : Out) (n l : Nat) (c : CoreClass) (x t : Nat) (th : Thread) (o : Out) : Prop :=
  match o with
  | .next s =>
    let passed := ∃ y, s.thread? t = some y ∧ y.stalled = true ∧ y.remoteOut = none ∧ y.ending = false
    (passed → r = issueGo n (s.afterIssue t th) l c) ∧
    (¬passed → r = .next ((s.issued l c x t).afterIssue t th))
  | .fault e => r = .fault e
  | .refused e => r = .refused e

end Sys2Proof.Machine

/-- R299, R366, R430: when a core's turn comes and the word at its next thread's pc decodes, the step is that
instruction, executed by that thread on the device whose buffer now holds the page, or a stall at issue while a unit
it acts on stands behind a stalled link, or a fault of it that ends the thread waits for one (R13, `State.unitsHeld`,
`HeldBack`: log 47); a thread stalled at issue is passed over in the same turn. Before it nothing moved, and after it
the core remembers the context, no thread is current, and a debugger's STEP or HALT takes effect (`State.afterIssue`).
R374, R391: at a boundary with the watchdog past 2^30, or with a matrix fault held for it, the step is that fault
instead; that the first comes before the second, and neither while a peer's answer is held, is log 44. R421, R422,
R424: an enabled breakpoint at the pc halts the thread, or its whole scope, instead, before anything else of the
instruction. An event's turn is that event on its input; a tick is time passing; a debug turn is the debug unit's, a
host turn the host's own store; with no turn left a round is drawn up. The agenda, its fair round and its tick are the
model's choice (log 1). -/
def Obligations.StepRunsDecodedInstruction : Prop :=
  (∀ (s : State) l c rest, s.agenda = .issue l c :: rest → step s = issueGo 4 { s with agenda := rest } l c) ∧
  (∀ (s : State) n l c, issueGo 0 s l c = .next s ∧ (s.pick l c = none → issueGo (n + 1) s l c = .next s)) ∧
  (∀ (s : State) n l c x t th, s.pick l c = some (x, t, th) → th.ending = false →
    let turn := TurnIs (issueGo (n + 1) s l c) n l c x t th
    (2 ^ 30 ≤ th.watch → th.peer = [] → OrWaits s (s.trap t th 54 0x40000000) t th turn) ∧
    (∀ v rest, th.watch < 2 ^ 30 → th.peer = [] → th.pendMx = v :: rest →
      OrWaits s (s.trap t { th with pendMx := rest } 56 v) t th turn) ∧
    (th.watch < 2 ^ 30 ∨ th.peer ≠ [] → th.pendMx = [] ∨ th.peer ≠ [] →
      (∀ i, BreaksAt th i → (∀ j, j < i → ¬BreaksAt th j) → ∀ h : i < 8,
        HitAt s t th (.breakpoint i) (th.bp[i].getLsbD 1) th.bpBy[i] turn) ∧
      ((∀ i, ¬BreaksAt th i) →
        (∀ cause v, s.fetch th = .error (.trap cause v) → OrWaits s (s.trap t th cause v) t th turn) ∧
        (s.fetch th = .error .link → turn (stallsHere s t th)) ∧
        ∀ w, s.fetch th = .ok w →
          let s1 : State := { s.touch th.tile th.aspace th.pc.toNat false with cur := some t }
          (decode th.ver w = none → turn (runWord th.ver w s1 t th)) ∧
          ∀ i, decode th.ver w = some i →
            (s1.unitsHeld th i = true → turn (stallsHere s1 t th)) ∧
            (s1.unitsHeld th i = false →
              (i = .exit ∨ i = .exitV1V2 ∨ (∀ s2, exec i s1 = .next s2 → ¬HeldBack s1 s2 t th) → turn (exec i s1)) ∧
              (∀ s2, i ≠ .exit → i ≠ .exitV1V2 → exec i s1 = .next s2 → HeldBack s1 s2 t th →
                turn (stallsHere s1 t th)))))) ∧
  (∀ (s : State) i inp rest, s.agenda = .event i inp :: rest → i.isEvent = true →
    step s = andThen (exec i { s with agenda := rest, input := inp }) (fun s => { s with input := .none })) ∧
  (∀ (s : State) n rest, s.agenda = .tick n :: rest → step s = .next (State.tick { s with agenda := rest } n)) ∧
  (∀ (s : State) f rest, s.agenda = .debug f :: rest → step s = .next (State.debugTurn { s with agenda := rest } f)) ∧
  (∀ (s : State) a bs rest, s.agenda = .hostStore a bs :: rest →
    step s = .next (State.hostWrite { s with agenda := rest } a bs)) ∧
  (∀ s : State, s.agenda = [] → step s = .next { s with agenda := s.plan })

/-- R12, R17, R65, R161 to R163, R248, R335, R341: the device right after reset. Every unit is in service, no record
is in use, every SRAM and table is empty, and the clocks run at 1,800 MHz. The time 0, the memory that reads 0, the
device number 0 and the life-cycle state are the model's choice (logs 3 and 9). -/
def Obligations.ResetState : Prop :=
  let s := State.reset
  s.threads = [] ∧ s.scopes = [] ∧ s.tasks = [] ∧ s.streams = [] ∧ s.pfx = [] ∧ s.heaps = [] ∧ s.cmds = [] ∧
  s.poison = [] ∧ s.returns = [] ∧ s.remotes = [] ∧ s.posts = [] ∧ s.dbgScopes = [] ∧ s.devEvents = 0 ∧ s.time = 0 ∧ s.devNum = 0 ∧
  s.life = .deployed ∧ s.tilesIn = 1024 ∧ s.lanesIn = 144 ∧ s.hbmch = 512 ∧ s.hbmbytes = 768000000000 ∧
  s.memOk ∧ (∀ a, byteAt s a = 0) ∧
  (∀ l, (s.tile l).tags = [] ∧ (s.tile l).copies = [] ∧ (s.tile l).locks = [] ∧ (s.tile l).tracker = [] ∧
    (s.tile l).active.state = .empty ∧ (s.tile l).shadow.state = .empty ∧ (s.tile l).ranges.bound = none ∧
    ∀ b, ((s.tile l).cb b).count = 0) ∧
  (∀ d, (s.die d).mhz = 1800 ∧ (s.die d).cycle = 0 ∧ (s.die d).ncyc = 0) ∧
  (∀ q, (s.queue q).state = .disabled) ∧ (∀ f, (s.func f).tdisp = .unlocked ∧ (s.func f).session = none)

/-- Every step of the device keeps the memory in its canonical form (log 3), from whatever state. -/
def Obligations.MemoryStaysCanonical : Prop :=
  ∀ s s' : State, s.memOk → Goes s s' → s'.memOk

/-- R1: a little-endian number read back after it was written, every other byte as it was; the canonical form is kept,
and memories in that form that read alike are equal. R4, R147, R164: what writing a register does to every register of
its class, in each class: x0 reads zero and is never void, m0 reads all ones, and writes of either are discarded. -/
def Obligations.ReadsGiveWhatWasWritten : Prop :=
  ((∀ (s : State) x n v, s.memOk → Stored s (s.putNum x n v) x n v ∧ (s.putNum x n v).numAt x n = v % 256 ^ n) ∧
  (∀ (s : State) x bs, s.memOk → (s.putBytes x bs).memOk ∧ (s.putBytes x bs).bytesAt x bs.length = bs ∧
    ∀ a, (a < x ∨ x + bs.length ≤ a) → byteAt (s.putBytes x bs) a = byteAt s a) ∧
  (∀ m k : Memory, Memory.wf m = true → Memory.wf k = true → (∀ a, Memory.read m a = Memory.read k a) → m = k)) ∧
  (∀ th : Thread,
    (∀ v q, (th.wx 0 v).rx q = th.rx q) ∧ th.rx 0 = ⟨0, false⟩ ∧
    (∀ r v q, r ≠ 0 → (th.wx r v).rx q = if q = r then v else th.rx q) ∧
    (∀ v q, (th.wm 0 v).rm q = th.rm q) ∧ th.rm 0 = BitVec.allOnes 64 ∧
    (∀ r v q, r ≠ 0 → (th.wm r v).rm q = if q = r then v else th.rm q) ∧
    (∀ r v q, (th.wf r v).rf q = if q = r then v else th.rf q) ∧
    (∀ r v q, (th.wv r v).rv q = if q = r then v else th.rv q) ∧
    (∀ r v q, (th.wq r v).rq q = if q = r then v else th.rq q) ∧
    (∀ r v q, (th.wk r v).rk q = if q = r then v else th.rk q))

/-- R360, R361, R364, R413: a fault of a thread in user mode saves pc, cause and value, clears the armed bit and
goes to UTVEC; with no handler, or a double fault, the thread's scope is FAULTED with the cause of its first fault
and CANCELLED, and the thread ends: its record is free where the tracker has room, and where it is full the context
is held, UEPC, UCAUSE and UTVAL as they were, k0 and the windows kept; memory stays as it was; a fault of the
resident handler takes its tile out of service. That every trap in machine mode is one in the resident handler is
the model's choice (log 13). -/
def Obligations.FaultsAreDeliveredOrEndTheThread : Prop :=
  ∀ (s : State) t th (c : Nat) (v : Word), s.thread? t = some th →
    (th.mode = .user → th.utvec ≠ 0 → th.armed = true →
      let th' : Thread := { th with uepc := th.pc, ucause := BitVec.ofNat 8 c, utval := v, armed := false,
                                    pc := th.utvec, watch := 0, wait := none, stalled := false, peer := [],
                                    skipCheck := false,
                                    service := th.service || decide (c ∈ [12, 13, 15, 56]) }
      s.trap t th c v = s.setTh t th') ∧
    (∀ k, th.mode = .user → (th.utvec = 0 ∨ th.armed = false) → th.ending = false →
      s.scope? th.sid0 = some k → k.state = .opened ∨ k.state = .closing →
      let s' := s.trap t th c v
      s'.mem = s.mem ∧
      (∃ k', s'.scope? th.sid0 = some k' ∧ k'.faulted = true ∧ k'.cancelled = true ∧
        k'.cause = (if k.faulted then k.cause else c)) ∧
      (∀ u x, u ≠ t → s.thread? u = some x → s.under th.sid0 256 x.sid0 = true → x.wait = none →
        s'.thread? u = some { x with cancel := true }) ∧
      ((s.tile th.tile).tracker.length < 32 →
        (∃ e ∈ (s'.tile th.tile).tracker, e.tid = th.tid t ∧ e.sid = th.sid0 ∧ e.weight = (th.rk 0).weight ∧
          e.windows = th.windows ∧ e.task = th.task) ∧
        tfind s'.threadReuse t = some th.reuse ∧ s'.thread? t = none) ∧
      (32 ≤ (s.tile th.tile).tracker.length → ∃ x, s'.thread? t = some x ∧ x.ending = true ∧ x.stalled = true ∧
        x.uepc = th.uepc ∧ x.ucause = th.ucause ∧ x.utval = th.utval ∧ x.rk 0 = th.rk 0 ∧ x.windows = th.windows ∧
        ∀ k : KReg, k ≠ 0 → x.rk k = ⟨.empty, 0, 0⟩)) ∧
    (th.mode = .machine → s.inService th.tile = true → (s.trap t th c v).inService th.tile = false)

/-- R65, R66, R203 to R205: a copy waits for its tag, its buffer and the range-lock table, for a translation behind a
stalled link (R13, log 47), for room in a log ring (R334), and, where it touches a peer or host memory, for all of the
device's writes at peers (read from R77: log 4); it faults on sizes, ranges and overlaps, finishes a length of 0 at
once, and otherwise starts: its tag is BUSY, its ranges are locked, weight is born for it, and the thread goes on.
Void operands nullify. The reads over the source rows are checked first, then the writes over the destination rows,
row by row, each by the checks of R165 for an engine; a destination on a REPLICA page is cause 55 (log 19). -/
def Obligations.CopiesAreIssued : Prop :=
  (∀ s th a n write, EngineChecks s th a n write) ∧
  (∀ (s : State) th write a step m k, s.engineRows th write a step m 0 = .ok [] ∧
    s.engineRows th write a step m (k + 1) =
      match s.engineRows th write a step m k, s.engineRange th (a + step * k) m write with
      | .error e, _ | .ok _, .error e => .error e
      | .ok gs, .ok hs => .ok (gs ++ hs)) ∧
  ∀ s t th tag rs1 rs2 rs3, Executing s t th → ∀ p ∈ copyForms th tag rs1 rs2 rs3,
    let r := p.2
    let n := r.rows * r.rowBytes
    let x := s.tile th.tile
    let key := tagKey th.cls tag.toNat
    let src := covers r.rows r.rowBytes r.sstep
    let dst := covers r.rows r.rowBytes r.dstep
    let big := 2 ^ 30 < n ∨ (1 < r.rows ∧ r.dstep < r.rowBytes)
    let local_ := r.multicast = true → r.dst.toNat < 0x60000 ∧ r.dst.toNat + n ≤ 0x60000
    let plain := r.multicast = true ∨ ¬designates r.dst
    ((th.rx rs1).void = true ∨ (th.rx rs2).void = true ∨ (th.rx rs3).void = true →
      exec p.1 s = voids s t th 2) ∧
    ((th.rx rs1).void = false → (th.rx rs2).void = false → (th.rx rs3).void = false →
      (big → exec p.1 s = .next (s.trap t th 55 (th.rx rs3).val)) ∧
      (¬big → ¬local_ → exec p.1 s = .next (s.trap t th 55 r.dst)) ∧
      (∀ a cb, ¬big → local_ → copyTo x r plain a cb →
        let wait_ := s.setTh t { th with stalled := true }
        (tfind x.tags key = some .busy → exec p.1 s = .next wait_) ∧
        (tfind x.tags key ≠ some .busy → n = 0 →
          let y : Tile := { x with tags := tset x.tags key (.set 0 0) }
          exec p.1 s = goesOn (s.setTile th.tile (match cb with
            | none => y
            | some b => y.setCb b (x.cb b).produce)) t th) ∧
        (tfind x.tags key ≠ some .busy → n ≠ 0 → 16 ≤ x.locks.length → exec p.1 s = .next wait_) ∧
        (let held := s.rowsHeld th false r.src.toNat r.sstep r.rowBytes r.rows ||
            s.rowsHeld th true a r.dstep r.rowBytes r.rows
         (tfind x.tags key ≠ some .busy → n ≠ 0 → held = true → exec p.1 s = .next wait_) ∧
         (tfind x.tags key ≠ some .busy → n ≠ 0 → x.locks.length < 16 → held = false →
          (∀ c b, s.engineRows th false r.src.toNat r.sstep r.rowBytes r.rows = .error (c, b) →
            exec p.1 s = .next (s.trap t th c (BitVec.ofNat 64 b))) ∧
          (∀ gs c b, s.engineRows th false r.src.toNat r.sstep r.rowBytes r.rows = .ok gs →
            s.engineRows th true a r.dstep r.rowBytes r.rows = .error (c, b) →
            exec p.1 s = .next (s.trap t th c (BitVec.ofNat 64 b))) ∧
          ∀ gs gd, s.engineRows th false r.src.toNat r.sstep r.rowBytes r.rows = .ok gs →
            s.engineRows th true a r.dstep r.rowBytes r.rows = .ok gd →
            (r.src.toNat < a + dst ∧ a < r.src.toNat + src ∧ 0 < src ∧ 0 < dst →
              exec p.1 s = .next (s.trap t th 55 (BitVec.ofNat 64 a))) ∧
            (r.src.toNat + src ≤ a ∨ a + dst ≤ r.src.toNat →
              s.logFits th.tile th.aspace (gd.map (·.va)) = false → exec p.1 s = .next (s.logWait t th)) ∧
            (r.src.toNat + src ≤ a ∨ a + dst ≤ r.src.toNat → s.logFits th.tile th.aspace (gd.map (·.va)) = true →
              Held s 4 → (∃ g ∈ gs ++ gd, g.peer.isSome = true ∨ locHost ≤ g.at_) → exec p.1 s = .next wait_) ∧
            (r.src.toNat + src ≤ a ∨ a + dst ≤ r.src.toNat → s.logFits th.tile th.aspace (gd.map (·.va)) = true →
              (¬Held s 4 ∨ ∀ g ∈ gs ++ gd, g.peer = none ∧ g.at_ < locHost) →
              ∃ (s' : State) (th' : Thread) (c : Copy), exec p.1 s = .next s' ∧ s'.thread? t = some th' ∧ th'.pc = th.pc + 4 ∧ th'.x = th.x ∧
                (s'.tile th.tile).copies = x.copies ++ [c] ∧ tfind (s'.tile th.tile).tags key = some .busy ∧
                (s'.tile th.tile).locks = x.locks ++ [⟨s.nextOp, (r.src.toNat, src), (a, dst)⟩] ∧
                c.id = s.nextOp ∧ c.tid = th.tid t ∧ c.sid = th.sid0 ∧ c.tag = tag.toNat ∧ c.cls = th.cls ∧
                c.rows = r.rows ∧ c.rowBytes = r.rowBytes ∧ c.src = r.src.toNat ∧ c.dst = a ∧ c.done = 0 ∧
                c.cb = cb ∧ c.multicast = r.multicast ∧ c.failed = false ∧
                c.weight = (s.birth th 0).1 ∧ th'.k = (s.birth th 0).2.1.k)))) ∧
      (¬big → ¬plain →
        let b := r.dst.toNat % 16
        let d := x.cb b
        (d.count = 0 ∨ d.slotu * 64 < n → exec p.1 s = .next (s.trap t th 29 (BitVec.ofNat 64 b))) ∧
        (d.count ≠ 0 → n ≤ d.slotu * 64 → (∀ c ∈ x.copies, c.cb ≠ some b) → d.free = 0 →
          exec p.1 s = .next (s.trap t th 29 (BitVec.ofNat 64 b))) ∧
        (d.count ≠ 0 → n ≤ d.slotu * 64 → (∃ c ∈ x.copies, c.cb = some b) →
          exec p.1 s = .next (s.setTh t { th with stalled := true }))))

/-- R62 to R65, R208 to R214: CBCFG configures a buffer that no operation names and resets its state; CBADVP and
CBADVC move slots between FREE and FILL; CBSTAT writes a buffer's two words; TAGFF writes the status word of the
lowest SET tag of a mask; TAGCLR makes the SET tags of a mask IDLE. R52 to R54, R215 to R217: BTAKE takes a free
handle for a legal range that overlaps no other, or one offered to the tile; BGIVE passes a held handle on or frees
it, waiting for copies of its range; BSTAT writes its word. A number above 255, an illegal range or receiver, and a
handle of another holder fault. CBADVC leaves the row position (R6). That a BTAKE of a FREE handle completes while a
copy of another tile into the range is under way is the model's choice (log 55). -/
def Obligations.BuffersTagsAndOwnership : Prop :=
  (∀ s t th, Executing s t th →
    let x := s.tile th.tile
    (∀ (cb : CbReg) rs, (th.rx rs).void = true →
      exec (.cbcfg cb rs) s = voids s t th 2 ∧ exec (.cbadvp cb rs) s = voids s t th 2 ∧
      exec (.cbadvc cb rs) s = voids s t th 2 ∧ exec (.tagclr rs) s = voids s t th 2 ∧
      ∀ rd, exec (.cbstat rd cb rs) s = voidsX s t th rd 3 ∧ exec (.tagff rd rs) s = voidsX s t th rd 3) ∧
    (∀ (cb : CbReg) rs, (th.rx rs).void = false →
      let w := (th.rx rs).val; let n := w.toNat; let b := cb.toNat; let d := x.cb b
      let base := n / 2 ^ 6 % 2 ^ 13 * 64; let slotu := n / 2 ^ 21 % 2 ^ 11; let count := n / 2 ^ 32 % 2 ^ 9
      let legal := n < 2 ^ 41 ∧ n / 2 ^ 19 % 4 = 0 ∧ n % 64 = 0 ∧ count ≤ 256 ∧
        (count ≠ 0 → 1 ≤ slotu ∧ slotu ≤ 1024) ∧ base + count * slotu * 64 ≤ 0x60000
      (x.busyCb b = true → exec (.cbcfg cb rs) s = .next (s.setTh t { th with stalled := true })) ∧
      (x.busyCb b = false → ¬legal → exec (.cbcfg cb rs) s = .next (s.trap t th 2 w)) ∧
      (x.busyCb b = false → legal → exec (.cbcfg cb rs) s =
        goesOn (s.setTile th.tile { x with cbs := x.cbs.set b ⟨count, slotu, base, 0, 0, count, 0, 0⟩ cb.isLt }) t th) ∧
      (d.count = 0 ∨ d.free < n → exec (.cbadvp cb rs) s = .next (s.trap t th 29 (BitVec.ofNat 64 b))) ∧
      (d.count ≠ 0 → n ≤ d.free → n ≠ 0 → exec (.cbadvp cb rs) s =
        (let d' : Cb := { d with free := d.free - n, fill := d.fill + n, pidx := (d.pidx + n) % d.count }
         goesOn (s.setTile th.tile { x with cbs := x.cbs.set b d' cb.isLt }) t th)) ∧
      (d.count = 0 ∨ d.fill < n → exec (.cbadvc cb rs) s = .next (s.trap t th 29 (BitVec.ofNat 64 b))) ∧
      (d.count ≠ 0 → n ≤ d.fill → n ≠ 0 → exec (.cbadvc cb rs) s =
        (let d' : Cb := { d with fill := d.fill - n, free := d.free + n, cidx := (d.cidx + n) % d.count }
         goesOn (s.setTile th.tile { x with cbs := x.cbs.set b d' cb.isLt }) t th)) ∧
      (d.count ≠ 0 → n = 0 → exec (.cbadvp cb rs) s = goesOn s t th ∧ exec (.cbadvc cb rs) s = goesOn s t th) ∧
      ∀ rd,
        (n = 0 → exec (.cbstat rd cb rs) s = goesOn s t (th.wx rd (.of (BitVec.ofNat 64
          (d.pidx * 2 ^ 40 + d.cidx * 2 ^ 32 + d.free * 2 ^ 16 + d.fill))))) ∧
        (n = 1 → exec (.cbstat rd cb rs) s = goesOn s t (th.wx rd (.of (BitVec.ofNat 64
          (d.count * 2 ^ 32 + d.slotu * 2 ^ 21 + d.base))))) ∧
        (1 < n → exec (.cbstat rd cb rs) s = .next (s.trap t th 2 w))) ∧
    (∀ rd rs, (th.rx rs).void = false →
      let m := (th.rx rs).val
      let tag (k : Nat) : Option TagState := tfind x.tags (tagKey th.cls k)
      ((∀ k : Nat, k < 64 → m.getLsbD k = true → ∀ st b, tag k ≠ some (.set st b)) →
        exec (.tagff rd rs) s = goesOn s t (th.wx rd (.of 0))) ∧
      (∀ k st b, k < 64 → m.getLsbD k = true → tag k = some (.set st b) →
        (∀ j : Nat, j < k → m.getLsbD j = true → ∀ st b, tag j ≠ some (.set st b)) →
        exec (.tagff rd rs) s = goesOn s t (th.wx rd (.of (BitVec.ofNat 64
          (2 ^ 63 + st * 2 ^ 38 + k * 2 ^ 32 + b))))) ∧
      ∃ s' : State, exec (.tagclr rs) s = goesOn s' t th ∧ s' = { s with tiles := s'.tiles } ∧
        (∀ l, l ≠ th.tile → s'.tile l = s.tile l) ∧ s'.tile th.tile = { x with tags := (s'.tile th.tile).tags } ∧
        ((tkeys x.tags).Nodup → ∀ c (k : Nat), k < 64 → tfind (s'.tile th.tile).tags (tagKey c k) =
          if c = th.cls ∧ m.getLsbD k = true ∧ tfind x.tags (tagKey c k) ≠ some .busy then none
          else tfind x.tags (tagKey c k)))) ∧
  (∀ s t th rd rs1 rs2, Executing s t th →
    let cn := th.tile / 16; let me := th.tile % 16
    let c := s.cluster cn
    let h := (th.rx rs1).val.toNat; let w := (th.rx rs2).val
    let o := (tfind c.owns h).getD ⟨.free, 0, 0, 0, 0⟩
    let put (o' : Own) : State := s.setCluster cn { c with owns := tset c.owns h o' }
    ((th.rx rs1).void = true → exec (.bstat rd rs1) s = voidsX s t th rd 3) ∧
    ((th.rx rs1).void = true ∨ (th.rx rs2).void = true →
      exec (.btake rd rs1 rs2) s = voidsX s t th rd 3 ∧ exec (.bgive rs1 rs2) s = voids s t th 2) ∧
    ((th.rx rs1).void = false →
      (255 < h → exec (.bstat rd rs1) s = .next (s.trap t th 2 (th.rx rs1).val)) ∧
      (h ≤ 255 → exec (.bstat rd rs1) s = goesOn s t (th.wx rd (.of (BitVec.ofNat 64
        ((match o.state with | .free => 0 | .held => 1 | .offered => 2) * 2 ^ 48 + o.recip * 2 ^ 44 +
          o.holder * 2 ^ 40 + o.len * 2 ^ 23 + o.base)))))) ∧
    ((th.rx rs1).void = false → (th.rx rs2).void = false →
      let base := w.toNat / 2 ^ 32 % 2 ^ 22; let len := w.toNat % 2 ^ 23
      let legal := w.toNat < 2 ^ 54 ∧ w.toNat / 2 ^ 23 % 2 ^ 9 = 0 ∧ base % 256 = 0 ∧ len % 256 = 0 ∧
        256 ≤ len ∧ base + len ≤ 0x400000
      (255 < h → exec (.btake rd rs1 rs2) s = .next (s.trap t th 2 (th.rx rs1).val) ∧
        exec (.bgive rs1 rs2) s = .next (s.trap t th 2 (th.rx rs1).val)) ∧
      (h ≤ 255 → o.state = .free → ¬legal → exec (.btake rd rs1 rs2) s = .next (s.trap t th 2 w)) ∧
      (h ≤ 255 → o.state = .free → legal →
        (∃ p ∈ c.owns, p.2.state ≠ .free ∧ p.2.base < base + len ∧ base < p.2.base + 256 * p.2.len) →
        exec (.btake rd rs1 rs2) s = goesOn s t (th.wx rd (.of 2))) ∧
      (h ≤ 255 → o.state = .free → legal →
        (∀ p ∈ c.owns, p.2.state = .free ∨ base + len ≤ p.2.base ∨ p.2.base + 256 * p.2.len ≤ base) →
        exec (.btake rd rs1 rs2) s =
          goesOn (put { o with state := .held, base := base, len := len / 256, holder := me }) t (th.wx rd (.of 0))) ∧
      (h ≤ 255 → o.state = .held ∨ (o.state = .offered ∧ o.recip ≠ me) →
        exec (.btake rd rs1 rs2) s = goesOn s t (th.wx rd (.of 1))) ∧
      (h ≤ 255 → o.state = .offered → o.recip = me → exec (.btake rd rs1 rs2) s =
        goesOn (put { o with state := .held, holder := me }) t (th.wx rd (.of 0))) ∧
      (h ≤ 255 → o.state ≠ .held ∨ o.holder ≠ me →
        exec (.bgive rs1 rs2) s = .next (s.trap t th 25 (th.rx rs1).val)) ∧
      (h ≤ 255 → o.state = .held → o.holder = me →
        let free := w = BitVec.allOnes 64
        let busy := (s.tile th.tile).locks.any (fun k => overlap k.src (0x10000000 + o.base) (256 * o.len) ||
          overlap k.dst (0x10000000 + o.base) (256 * o.len))
        (¬free → 15 < w.toNat ∨ s.inService (cn * 16 + w.toNat) = false →
          exec (.bgive rs1 rs2) s = .next (s.trap t th 2 w)) ∧
        (free ∨ (w.toNat ≤ 15 ∧ s.inService (cn * 16 + w.toNat) = true) →
          (busy = true → exec (.bgive rs1 rs2) s = .next (s.setTh t { th with stalled := true })) ∧
          (busy = false → exec (.bgive rs1 rs2) s = goesOn
            (put (if free then { o with state := .free } else { o with state := .offered, recip := w.toNat })) t th)))))

namespace Sys2Proof.Machine

/-! ### References -/

/-- The descriptor a reference names by itself, before its generation is compared (R218, R220): its heap and
its index, or none for null, a reserved bit set, a heap that is not there or an index beyond it. -/
def namesDesc (s : State) (r : Word) : Option (Heap × Nat) :=
  let heap := r.toNat / 2 ^ 52 % 2 ^ 8; let index := r.toNat % 2 ^ 28
  if r.toNat % 2 ^ 40 = 0 ∨ r.toNat / 2 ^ 40 % 2 ^ 12 ≠ 0 then none
  else match tfind s.heaps heap with
    | some h => if index < h.ndesc then some (h, index) else none
    | none => none
/-- A descriptor in memory: three little-endian words (R219). -/
def descIn (s : State) (a : Nat) : Desc :=
  let w0 := leAt s a 8; let w1 := leAt s (a + 8) 8; let w2 := leAt s (a + 16) 8
  ⟨w0 / 2 ^ 62, w0 % 2 ^ 56, w1 / 2 ^ 48, w1 / 2 ^ 28 % 2 ^ 12, w1 % 2 ^ 27, w2 % 2 ^ 56⟩
/-- Loads through a reference: the instruction and its size. -/
def refLoads (rd : XReg) (rs1 : QReg) (rs2 : XReg) : List (Instr × Nat) :=
  [(.qld rd rs1 rs2, 8), (.qldw rd rs1 rs2, 4)]
/-- Stores through a reference: the instruction, its size and its value, none where that is void. -/
def refStores (th : Thread) (rd : XReg) (rs1 : QReg) (rs2 : XReg) (q2 : QReg) : List (Instr × Nat × Option Word) :=
  let v := th.rx rs2
  let d : Option Word := if v.void then none else some v.val
  [(.qst rd rs1 rs2, 8, d), (.qstw rd rs1 rs2, 4, d), (.qstq rd rs1 q2, 8, some (th.rq q2))]

end Sys2Proof.Machine

/-- R218 to R220, R306: a reference resolves to the descriptor it names, from its cluster's cache if it is there, else
from memory; one that names no descriptor, a FREE one or another generation is dead. Only the cluster's cache changes.
R221, R222, R394: a load through a reference reads its object; null and a dead weak reference read VOIDWORD, or null
for QLDQ, a dead strong one raises DEAD_REFERENCE; one with a poisoned descriptor raises MEM_POISON, but that a load
through a weak one reads as through a dead one; a store needs a live object, not immutable, with its offset inside,
waits while the object is frozen or flips, and goes to the object's home; a check of R165 that fails is the fault it
names, and a watchpoint halts the thread (R422). That UTVAL of a reference with a poisoned
descriptor is the descriptor's address is the model's choice (log 24). -/
def Obligations.ReferencesResolveLoadAndStore : Prop :=
  (∀ (s : State) cl (r : Word), s.memOk →
    let gen := r.toNat / 2 ^ 28 % 2 ^ 12
    let key := (r.toNat / 2 ^ 52 % 2 ^ 8, r.toNat % 2 ^ 28)
    let cached := (s.cluster cl).cache.find? (fun e => e.1 == key)
    let res := s.resolve cl r
    res.2 = { s with clusters := res.2.clusters } ∧ (∀ k, k ≠ cl → res.2.cluster k = s.cluster k) ∧
    res.2.cluster cl = { s.cluster cl with cache := (res.2.cluster cl).cache } ∧
    (namesDesc s r = none → res = (.dead, s)) ∧
    (∀ h i e, namesDesc s r = some (h, i) → cached = some e →
      res.1 = (if e.2.gen = gen then .live h i e.2 else .dead) ∧
      (res.2.cluster cl).cache.head? = some (key, e.2)) ∧
    (∀ h i, namesDesc s r = some (h, i) → cached = none → s.poisonIn (h.table + 32 * i) 32 = none →
      let d := descIn s (h.table + 32 * i)
      (d.state = 0 → res = (.dead, s)) ∧
      (d.state ≠ 0 → res.1 = (if d.gen = gen then .live h i d else .dead) ∧
        (res.2.cluster cl).cache.head? = some (key, d))) ∧
    (∀ h i, namesDesc s r = some (h, i) → cached = none → s.poisonIn (h.table + 32 * i) 32 ≠ none →
      res = (.poisoned (h.va + 32 * i), s))) ∧
  (∀ s t th, Executing s t th → s.memOk →
    (∀ (rd : XReg) (rs1 : QReg) (rs2 : XReg), ∀ p ∈ refLoads rd rs1 rs2,
      let r := th.rq rs1; let o := (th.rx rs2).val; let s1 := (s.resolve (th.tile / 16) r).2
      ((th.rx rs2).void = true → exec p.1 s = voidsX s t th rd 3) ∧
      ((th.rx rs2).void = false →
        ((s.resolve (th.tile / 16) r).1 = .dead → exec p.1 s =
          if r.toNat % 2 ^ 40 = 0 ∨ r.getLsbD 63 = true then goesOn s1 t (th.wx rd ⟨0, true⟩)
          else .next (s1.trap t th 48 r)) ∧
        (∀ va, (s.resolve (th.tile / 16) r).1 = .poisoned va → exec p.1 s =
          if r.getLsbD 63 = true then goesOn s1 t (th.wx rd ⟨0, true⟩)
          else .next (s1.trap t th 30 (BitVec.ofNat 64 va))) ∧
        (∀ h i d, (s.resolve (th.tile / 16) r).1 = .live h i d →
          let va := BitVec.ofNat 64 (d.addr + o.toNat)
          (o.toNat % p.2 ≠ 0 → exec p.1 s = .next (s1.trap t th 4 o)) ∧
          (o.toNat % p.2 = 0 → d.size < o.toNat + p.2 → exec p.1 s = .next (s1.trap t th 5 o)) ∧
          (o.toNat % p.2 = 0 → o.toNat + p.2 ≤ d.size →
            (∀ x, s1.access th va p.2 .load .ref = .ok (.loc x) →
              exec p.1 s = goesOn (s1.touched th false [va]) t
                (th.wx rd (.of ((BitVec.ofNat (8 * p.2) (leAt s x p.2)).signExtend 64)))) ∧
            (∀ (c : Nat) (v : Word), s1.access th va p.2 .load .ref = .error (.trap c v) →
              exec p.1 s = .next (s1.trap t th c v)) ∧
            (∀ j, s1.access th va p.2 .load .ref = .error (.watch j) → WatchAt s1 t th j (exec p.1 s = ·)))))) ∧
    (∀ (rd rs1 : QReg) (rs2 : XReg),
      let r := th.rq rs1; let o := (th.rx rs2).val; let s1 := (s.resolve (th.tile / 16) r).2
      ((th.rx rs2).void = true → exec (.qldq rd rs1 rs2) s = voids s t th 2) ∧
      ((th.rx rs2).void = false →
        ((s.resolve (th.tile / 16) r).1 = .dead → exec (.qldq rd rs1 rs2) s =
          if r.toNat % 2 ^ 40 = 0 ∨ r.getLsbD 63 = true then goesOn s1 t (th.wq rd 0)
          else .next (s1.trap t th 48 r)) ∧
        (∀ va, (s.resolve (th.tile / 16) r).1 = .poisoned va → exec (.qldq rd rs1 rs2) s =
          if r.getLsbD 63 = true then goesOn s1 t (th.wq rd 0)
          else .next (s1.trap t th 30 (BitVec.ofNat 64 va))) ∧
        (∀ h i d, (s.resolve (th.tile / 16) r).1 = .live h i d →
          let va := BitVec.ofNat 64 (d.addr + o.toNat)
          (o.toNat % 8 ≠ 0 → exec (.qldq rd rs1 rs2) s = .next (s1.trap t th 4 o)) ∧
          (o.toNat % 8 = 0 → d.size < o.toNat + 8 → exec (.qldq rd rs1 rs2) s = .next (s1.trap t th 5 o)) ∧
          (∀ e, o.toNat % 8 = 0 → o.toNat + 8 ≤ d.size → s1.access th va 8 .load .ref = .error e →
            (∀ c v, e = .trap c v → exec (.qldq rd rs1 rs2) s = .next (s1.trap t th c v)) ∧
            (∀ j, e = .watch j → WatchAt s1 t th j (exec (.qldq rd rs1 rs2) s = ·))) ∧
          (∀ x, o.toNat % 8 = 0 → o.toNat + 8 ≤ d.size → s1.access th va 8 .load .ref = .ok (.loc x) →
            let v := BitVec.ofNat 64 (leAt s x 8); let s2 := s1.touched th false [va]
            (v.getLsbD 63 = false → exec (.qldq rd rs1 rs2) s = goesOn s2 t (th.wq rd v)) ∧
            (v.getLsbD 63 = true → (∀ h' i' d', (s2.resolve (th.tile / 16) v).1 ≠ .live h' i' d') →
              exec (.qldq rd rs1 rs2) s = goesOn (s2.resolve (th.tile / 16) v).2 t (th.wq rd 0)) ∧
            (∀ h' i' d', v.getLsbD 63 = true → (s2.resolve (th.tile / 16) v).1 = .live h' i' d' →
              exec (.qldq rd rs1 rs2) s = goesOn (s2.resolve (th.tile / 16) v).2 t (th.wq rd v)))))) ∧
    (∀ (rd : XReg) (rs1 : QReg) (rs2 : XReg) (q2 : QReg), ∀ p ∈ refStores th rd rs1 rs2 q2,
      let r := th.rq rs1; let o := (th.rx rd).val; let s1 := (s.resolve (th.tile / 16) r).2
      let n := p.2.1
      ((th.rx rd).void = true ∨ p.2.2 = none → exec p.1 s = voids s t th 2) ∧
      (∀ v, (th.rx rd).void = false → p.2.2 = some v →
        ((s.resolve (th.tile / 16) r).1 = .dead → exec p.1 s = .next (s1.trap t th 48 r)) ∧
        (∀ va, (s.resolve (th.tile / 16) r).1 = .poisoned va →
          exec p.1 s = .next (s1.trap t th 30 (BitVec.ofNat 64 va))) ∧
        (∀ h i d, (s.resolve (th.tile / 16) r).1 = .live h i d →
          let home := descIn s (h.table + 32 * i)
          let die := (h.table + 32 * i) / 0x3000000000
          let held := home.state = 3 ∨ s1.flipOpen die (r.toNat / 2 ^ 52 % 2 ^ 8) i = true
          let base := if home.state = 2 then home.addr else d.addr
          let va := BitVec.ofNat 64 (base + o.toNat)
          let fits := o.toNat % n = 0 ∧ o.toNat + n ≤ d.size
          (r.getLsbD 62 = true → exec p.1 s = .next (s1.trap t th 7 r)) ∧
          (r.getLsbD 62 = false → o.toNat % n ≠ 0 → exec p.1 s = .next (s1.trap t th 6 o)) ∧
          (r.getLsbD 62 = false → o.toNat % n = 0 → d.size < o.toNat + n →
            exec p.1 s = .next (s1.trap t th 7 o)) ∧
          (r.getLsbD 62 = false → fits → held → exec p.1 s = .next (s1.setTh t { th with stalled := true })) ∧
          (∀ e, r.getLsbD 62 = false → fits → ¬held → s1.access th va n .store .ref (some v) = .error e →
            (∀ c u, e = .trap c u → exec p.1 s = .next (s1.trap t th c u)) ∧
            (∀ j, e = .watch j → WatchAt s1 t th j (exec p.1 s = ·))) ∧
          (∀ x, r.getLsbD 62 = false → fits → ¬held →
            s1.access th va n .store .ref (some v) = .ok (.loc x) →
            ∃ (s2 : State) (s3 : State), Stored (s1.touched th true [va]) s2 x n v.toNat ∧ exec p.1 s = goesOn s3 t th ∧
              s3 = { s2 with dies := s3.dies } ∧ (home.state ≠ 2 → s3 = s2))))))

/-- R223 to R229: QNEW makes a LIVE object at the lowest free index, or answers null; QPIN counts a pin at the home
and opens a window; QUNPIN closes the last one of the object and returns its weight, once no copy of the thread
touches it; QEQ compares objects, QTAG changes tags, QCLR and QMV write a q register; RELOC frees, asks, refuses or
queues a relocation, or waits while the Weevil's queue is full, and what it frees or moves leaves every descriptor
cache. The UTVAL of a poisoned descriptor is log 24's choice; that eight windows open and the ninth QPIN traps is
R223's, R224's and R371's word against R393's (log 57). -/
def Obligations.ObjectsPinsAndRelocations : Prop :=
  ∀ s t th, Executing s t th → s.memOk →
    (∀ (rd : XReg) (a b : QReg), exec (.qeq rd a b) s = goesOn s t (th.wx rd (.of (one
      (let x := (th.rq a).toNat; let y := (th.rq b).toNat
       (x % 2 ^ 40 = 0 ∧ y % 2 ^ 40 = 0) ∨
         (x % 2 ^ 40 = y % 2 ^ 40 ∧ x / 2 ^ 52 % 2 ^ 8 = y / 2 ^ 52 % 2 ^ 8)))))) ∧
    (∀ rd : QReg, exec (.qclr rd) s = goesOn s t (th.wq rd 0)) ∧
    (∀ rd a : QReg, exec (.qmv rd a) s = goesOn s t (th.wq rd (th.rq a))) ∧
    (∀ (rd a : QReg) (k : XReg),
      ((th.rx k).void = true → exec (.qtag rd a k) s = voids s t th 2) ∧
      ((th.rx k).void = false → 16 ≤ (th.rx k).val.toNat →
        exec (.qtag rd a k) s = .next (s.trap t th 2 (th.rx k).val)) ∧
      ((th.rx k).void = false → (th.rx k).val.toNat < 16 →
        ∃ v : Word, exec (.qtag rd a k) s = goesOn s t (th.wq rd v) ∧
          (∀ i : Nat, i < 60 → v.getLsbD i = (th.rq a).getLsbD i) ∧
          v.getLsbD 60 = (th.rx k).val.getLsbD 0 ∧
          (∀ i : Nat, 1 ≤ i → i < 4 → v.getLsbD (60 + i) = ((th.rq a).getLsbD (60 + i) || (th.rx k).val.getLsbD i)))) ∧
    (∀ (rd : QReg) rs1 rs2, (th.rx rs1).void = false → (th.rx rs2).void = false →
      let a := (th.rx rs1).val.toNat; let c := (th.rx rs2).val.toNat
      let size := c % 2 ^ 27; let hn := c / 2 ^ 52 % 2 ^ 8
      let legal := 0 < size ∧ size ≤ 2 ^ 26 ∧ a % 64 = 0 ∧ c / 2 ^ 60 = 0 ∧ c / 2 ^ 27 % 2 ^ 25 = 0
      (¬legal ∨ tfind s.heaps hn = none → exec (.qnew rd rs1 rs2) s = .next (s.trap t th 2 (th.rx rs2).val)) ∧
      (∀ h, legal → tfind s.heaps hn = some h →
        s.heapRange th a size (th.rx rs1).val = none → lockByte (s.tile th.tile).locks a size = none →
        (s.freeIndex h = none → exec (.qnew rd rs1 rs2) s = goesOn s t (th.wq rd 0)) ∧
        (∀ i, s.freeIndex h = some i →
          let d := descIn s (h.table + 32 * i)
          ∃ s' : State, s'.memOk ∧ s' = { s with mem := s'.mem } ∧
            descIn s' (h.table + 32 * i) = ⟨1, a % 2 ^ 56, 0, d.gen, size, 0⟩ ∧
            (∀ x, x < h.table + 32 * i ∨ h.table + 32 * i + 24 ≤ x → byteAt s' x = byteAt s x) ∧
            exec (.qnew rd rs1 rs2) s = goesOn s' t (th.wq rd (BitVec.ofNat 64 (hn * 2 ^ 52 + d.gen * 2 ^ 28 + i)))))) ∧
    (∀ (rd : QReg) rs1 rs2, (th.rx rs1).void = true ∨ (th.rx rs2).void = true →
      exec (.qnew rd rs1 rs2) s = voids s t th 2) ∧
    (∀ (rd : XReg) (rs1 : QReg), let r := th.rq rs1; let s1 := (s.resolve (th.tile / 16) r).2
      ((s.resolve (th.tile / 16) r).1 = .dead → exec (.qpin rd rs1) s = .next (s1.trap t th 48 r)) ∧
      (∀ va, (s.resolve (th.tile / 16) r).1 = .poisoned va →
        exec (.qpin rd rs1) s = .next (s1.trap t th 30 (BitVec.ofNat 64 va))) ∧
      (∀ h i e, (s.resolve (th.tile / 16) r).1 = .live h i e →
        let d := descIn s (h.table + 32 * i)
        let flips := s1.flipOpen ((h.table + 32 * i) / 0x3000000000) (r.toNat / 2 ^ 52 % 2 ^ 8) i
        (8 ≤ th.windows.length → exec (.qpin rd rs1) s = .next (s1.trap t th 50 r)) ∧
        (th.windows.length < 8 → 2 ≤ d.state ∨ flips = true →
          exec (.qpin rd rs1) s = .next (s1.setTh t { th with stalled := true })) ∧
        (th.windows.length < 8 → d.state < 2 → flips = false → d.pins = 65535 →
          exec (.qpin rd rs1) s = .next (s1.trap t th 50 r)) ∧
        (th.windows.length < 8 → d.state < 2 → flips = false → d.pins < 65535 →
          ∃ (s' : State) (th' : Thread), exec (.qpin rd rs1) s = .next s' ∧ s'.thread? t = some th' ∧ th'.pc = th.pc + 4 ∧
            th'.rx rd = (if rd = 0 then ⟨0, false⟩ else .of (BitVec.ofNat 64 d.addr)) ∧
            th'.windows = th.windows ++ [⟨r, d.addr, d.size, r.getLsbD 62, (s.birth th 0).1⟩] ∧
            th'.k = (s.birth th 0).2.1.k ∧ s'.memOk ∧
            descIn s' (h.table + 32 * i) = { d with pins := d.pins + 1 } ∧
            ∀ x, x < h.table + 32 * i ∨ h.table + 32 * i + 24 ≤ x → byteAt s' x = byteAt s x))) ∧
    (∀ rs1 : QReg, let r := th.rq rs1
      (∀ w ∈ th.windows, sameObj w.ref r = false) → exec (.qunpin rs1) s = .next (s.trap t th 2 r)) ∧
    (∀ (rs1 : QReg) before w after, let r := th.rq rs1
      th.windows = before ++ w :: after → sameObj w.ref r = true → (∀ x ∈ after, sameObj x.ref r = false) →
      ((∃ c ∈ (s.tile th.tile).copies, c.tid = th.tid t ∧ c.touches w = true) →
        exec (.qunpin rs1) s = .next (s.setTh t { th with stalled := true })) ∧
      ((∀ c ∈ (s.tile th.tile).copies, c.tid ≠ th.tid t ∨ c.touches w = false) →
        ∃ s' : State, exec (.qunpin rs1) s = goesOn s' t { th with windows := before ++ after } ∧
          s'.returns = s.returns ++ (if w.weight = 0 then [] else [⟨th.sid0, w.weight, .member, th.tile / 256⟩]) ∧
          ∀ h i, namesDesc s w.ref = some (h, i) → let d := descIn s (h.table + 32 * i)
            0 < d.pins → descIn s' (h.table + 32 * i) = { d with pins := d.pins - 1 })) ∧
    (∀ (rd : XReg) (rs1 : QReg) (rs2 : XReg), let r := th.rq rs1; let a := (th.rx rs2).val; let hn := r.toNat / 2 ^ 52 % 2 ^ 8
      ((th.rx rs2).void = true → exec (.reloc rd rs1 rs2) s = voidsX s t th rd 3) ∧
      ((th.rx rs2).void = false → a ≠ 1 → a.toNat % 64 ≠ 0 →
        exec (.reloc rd rs1 rs2) s = .next (s.trap t th 2 a)) ∧
      ((th.rx rs2).void = false → a = 1 ∨ a.toNat % 64 = 0 →
        (s.resolveHome r = none → exec (.reloc rd rs1 rs2) s = goesOn s t (th.wx rd (.of 4))) ∧
        (∀ h i d, s.resolveHome r = some (h, i, d) →
          let die := (h.table + 32 * i) / 0x3000000000
          (s.flipOpen die hn i = true → exec (.reloc rd rs1 rs2) s = .next (s.setTh t { th with stalled := true })) ∧
          (s.flipOpen die hn i = false → a = 1 →
            exec (.reloc rd rs1 rs2) s = goesOn s t (th.wx rd (.of (BitVec.ofNat 64 d.state)))) ∧
          (s.flipOpen die hn i = false → a = 0 →
            (0 < d.pins → exec (.reloc rd rs1 rs2) s = goesOn s t (th.wx rd (.of 1))) ∧
            (d.pins = 0 → 2 ≤ d.state → exec (.reloc rd rs1 rs2) s = goesOn s t (th.wx rd (.of 2))) ∧
            (d.pins = 0 → d.state = 1 →
              ∃ s' : State, exec (.reloc rd rs1 rs2) s = goesOn s' t (th.wx rd (.of 0)) ∧
                descIn s' (h.table + 32 * i) = { d with state := 0, gen := (d.gen + 1) % 4096 } ∧
                ∀ p ∈ s'.clusters, ∀ e ∈ p.2.cache, e.1 ≠ (hn, i))) ∧
          (s.flipOpen die hn i = false → 64 ≤ a.toNat →
            let dst := a.toNat
            (dst < d.addr + d.size ∧ d.addr < dst + d.size →
              exec (.reloc rd rs1 rs2) s = .next (s.trap t th 2 a)) ∧
            (d.addr + d.size ≤ dst ∨ dst + d.size ≤ d.addr →
              ((s.heapRange th dst d.size a).isSome = true →
                exec (.reloc rd rs1 rs2) s = .next (s.trap t th 7 a)) ∧
              (s.heapRange th dst d.size a = none →
                (r.getLsbD 61 = true → exec (.reloc rd rs1 rs2) s = goesOn s t (th.wx rd (.of 3))) ∧
                (r.getLsbD 61 = false → 0 < d.pins →
                  exec (.reloc rd rs1 rs2) s = goesOn s t (th.wx rd (.of 1))) ∧
                (r.getLsbD 61 = false → d.pins = 0 → 2 ≤ d.state →
                  exec (.reloc rd rs1 rs2) s = goesOn s t (th.wx rd (.of 2))) ∧
                (r.getLsbD 61 = false → d.pins = 0 → d.state = 1 → 64 ≤ (s.die die).weevil.length →
                  exec (.reloc rd rs1 rs2) s = stallsHere s t th) ∧
                (r.getLsbD 61 = false → d.pins = 0 → d.state = 1 → (s.die die).weevil.length < 64 →
                  ∃ (s' : State) (q : Reloc), exec (.reloc rd rs1 rs2) s = goesOn s' t (th.wx rd (.of 0)) ∧
                    (s'.die die).weevil = (s.die die).weevil ++ [q] ∧ q.heap = hn ∧ q.index = i ∧
                    q.oldAddr = d.addr ∧ q.newAddr = dst ∧ q.size = d.size ∧ q.sid = th.sid0 ∧
                    q.issuer = th.tid t ∧ q.phase = .waiting ∧ (∀ p ∈ s'.clusters, ∀ e ∈ p.2.cache, e.1 ≠ (hn, i)) ∧
                    descIn s' (h.table + 32 * i) = { d with state := 2, next := dst % 2 ^ 56 })))))))

namespace Sys2Proof.Machine

/-! ### Vectors -/

/-- Bits of VOIDSEEN for the lanes of a masked result: PROP where an active lane is void (R232). -/
def voidLaneIn (th : Thread) (f : Nat → Lane) : Prop := ∃ i : Nat, i < 64 ∧ (th.rm th.vpred).getLsbD i = true ∧ (f i).void = true
/-- Writing the active lanes of `rd` under VPRED's mask and PROP for a void one: the other lanes, the other
registers and the rest of the thread stay (R231, R232). -/
def LanesWritten (th th' : Thread) (rd : VReg) (f : Nat → Lane) : Prop :=
  th' = { th with v := th'.v, voidseen := th'.voidseen } ∧
  (∀ q, q ≠ rd → th'.rv q = th.rv q) ∧
  (∀ i : Fin 64, (th'.rv rd)[i] = if (th.rm th.vpred).getLsbD i.val then f i.val else (th.rv rd)[i]) ∧
  (voidLaneIn th f → th'.voidseen = th.voidseen ||| 1) ∧ (¬voidLaneIn th f → th'.voidseen = th.voidseen)

/-- A lane of a register. -/
def lane (v : VVal) (i : Nat) : Lane := if h : i < 64 then v[i] else ⟨0, false⟩
/-- A result lane from one, two or three source lanes, void where one of them is. -/
def from1 (f : W32 → W32) (a : VVal) (i : Nat) : Lane := if (lane a i).void then ⟨0, true⟩ else .of (f (lane a i).val)
def from2 (f : W32 → W32 → W32) (a b : VVal) (i : Nat) : Lane :=
  if (lane a i).void || (lane b i).void then ⟨0, true⟩ else .of (f (lane a i).val (lane b i).val)
def from3 (f : W32 → W32 → W32 → W32) (a b c : VVal) (i : Nat) : Lane :=
  if (lane a i).void || (lane b i).void || (lane c i).void then ⟨0, true⟩
  else .of (f (lane a i).val (lane b i).val (lane c i).val)
/-- One byte, or one half, of a lane at a time. -/
def byBytes (f : Byte → Byte → Byte) (a b : W32) : W32 :=
  let q (k : Nat) : Byte := f (a.extractLsb' (8 * k) 8) (b.extractLsb' (8 * k) 8)
  q 3 ++ q 2 ++ q 1 ++ q 0
def byHalves (f : BitVec 16 → BitVec 16 → BitVec 16) (a b : W32) : W32 :=
  f (a.extractLsb' 16 16) (b.extractLsb' 16 16) ++ f (a.extractLsb' 0 16) (b.extractLsb' 0 16)
/-- The element operation of a type: exact values rounded to nearest even for the floats, wrapping INT32,
saturating INT8 (R230, R234). -/
def onElems (ty : ETy) (fv : FV → FV → FV) (i32 i8 : Int → Int → Int) : W32 → W32 → W32 :=
  match ty with
  | .f32 => fun a b => rne32 (fv (val32 a) (val32 b))
  | .i32 => fun a b => BitVec.ofInt 32 (i32 a.toInt b.toInt)
  | .bf16 => byHalves (fun a b => BitVec.ofNat 16 (Elem.bf16.code (fv (bf16.value a.toNat) (bf16.value b.toNat))))
  | .i8 => byBytes (fun a b => BitVec.ofInt 8 (max (-128) (min 127 (i8 a.toInt b.toInt))))
/-- Shifts of INT32 lanes by five bits, of INT8 bytes by three. -/
def onShifts (ty : ETy) (f32 : W32 → Nat → W32) (f8 : Byte → Nat → Byte) : W32 → W32 → W32 :=
  if ty = .i8 then byBytes (fun a b => f8 a (b.toNat % 8)) else fun a b => f32 a (b.toNat % 32)

/-- The masked lane instructions and what a result lane is (R234 to R236, R240). -/
def laneForms (th : Thread) (ty : ETy) (rd rs1 rs2 rs3 : VReg) (m3 : MReg) : List (Instr × (Nat → Lane)) :=
  let a := th.rv rs1; let b := th.rv rs2; let c := th.rv rs3
  [ (.vadd ty rd rs1 rs2, from2 (onElems ty (FV.add false) (· + ·) (· + ·)) a b),
    (.vsub ty rd rs1 rs2, from2 (onElems ty (fun x y => FV.add false x y.neg) (· - ·) (· - ·)) a b),
    (.vmul ty rd rs1 rs2, from2 (onElems ty FV.mul (· * ·) (· * ·)) a b),
    (.vmax ty rd rs1 rs2, from2 (onElems ty (FV.pick true) max max) a b),
    (.vmin ty rd rs1 rs2, from2 (onElems ty (FV.pick false) min min) a b),
    (.vand ty rd rs1 rs2, from2 (· &&& ·) a b), (.vor ty rd rs1 rs2, from2 (· ||| ·) a b),
    (.vxor ty rd rs1 rs2, from2 (· ^^^ ·) a b),
    (.vshl ty rd rs1 rs2, from2 (onShifts ty (· <<< ·) (· <<< ·)) a b),
    (.vshr ty rd rs1 rs2, from2 (onShifts ty (· >>> ·) (· >>> ·)) a b),
    (.vsra ty rd rs1 rs2, from2 (onShifts ty BitVec.sshiftRight BitVec.sshiftRight) a b),
    (.vabs ty rd rs1, from1 (fun x => onElems ty (fun v _ => v.abs) (fun v _ => v.natAbs) (fun v _ => v.natAbs) x x) a),
    (.vneg ty rd rs1, from1 (fun x => onElems ty (fun v _ => v.neg) (fun v _ => -v) (fun v _ => -v) x x) a),
    (.vmov ty rd rs1, from1 id a), (.vexp2 ty rd rs1, from1 vexp2 a), (.vlog2 ty rd rs1, from1 vlog2 a),
    (.vrcp ty rd rs1, from1 vrcp a), (.vrsq ty rd rs1, from1 vrsq a),
    (.vfma rd rs1 rs2 rs3, from3 (fun x y z => rne32 (FV.add false ((val32 x).mul (val32 y)) (val32 z))) a b c),
    (.vfms rd rs1 rs2 rs3, from3 (fun x y z => rne32 (FV.add false ((val32 x).mul (val32 y)) (val32 z).neg)) a b c),
    (.vsel rd rs1 rs2 m3, fun i => if (th.rm m3).getLsbD i then lane a i else lane b i),
    (.vperm rd rs1 rs2, fun i => if (lane b i).void then ⟨0, true⟩ else lane a ((lane b i).val.toNat % 64)) ]

/-- One unit in the last place of a magnitude: the spacing of the binary32 numbers of its own binade (log 52). -/
noncomputable def ulp32 (y : ℝ) : ℝ := 2 ^ (max ⌊Real.logb 2 y⌋ (-126) - 23 : ℤ)
/-- `r` has the sign of `y` and lies within k units of it; infinity counts as 2^128, which `realOf` gives it. -/
def Near32 (k : ℝ) (y : ℝ) (r : W32) : Prop := ¬IsNan r ∧ (negOf r = true ↔ y < 0) ∧ |realOf r - y| ≤ k * ulp32 |y|
/-- The four functions of R235: the exact special results, and otherwise their bounds. That a result of 2^128 or more is
infinity is the model's choice (log 52). -/
def Exp2Is (a r : W32) : Prop :=
  (IsNan a → r = 0x7FC00000) ∧ (IsInf a → r = if negOf a then 0 else 0x7F800000) ∧
  (IsFin a → (∀ n : ℤ, realOf a = n → (n < -149 → r = 0) ∧ (-149 ≤ n → n < 128 → IsFin r ∧ realOf r = 2 ^ n) ∧
      (128 ≤ n → r = 0x7F800000)) ∧
    ((∀ n : ℤ, realOf a ≠ n) → (128 < realOf a → r = 0x7F800000) ∧
      (realOf a < 128 → Near32 2 ((2 : ℝ) ^ realOf a) r)))
def Log2Is (a r : W32) : Prop :=
  (IsNan a ∨ (negOf a = true ∧ a ≠ 0x80000000) → r = 0x7FC00000) ∧
  (a = 0 ∨ a = 0x80000000 → r = 0xFF800000) ∧ (a = 0x7F800000 → r = 0x7F800000) ∧
  (IsFin a → negOf a = false → a ≠ 0 →
    (∀ n : ℤ, realOf a = 2 ^ n → IsFin r ∧ realOf r = n ∧ (n = 0 → r = 0)) ∧
    ((∀ n : ℤ, realOf a ≠ 2 ^ n) → Near32 2 (Real.logb 2 (realOf a)) r))
def RcpIs (a r : W32) : Prop :=
  (IsNan a → r = 0x7FC00000) ∧ (IsInf a → r = signed (negOf a) 0) ∧
  (IsFin a → realOf a = 0 → r = signed (negOf a) 0x7F800000) ∧
  (IsFin a → realOf a ≠ 0 → let y := 1 / realOf a
    (2 ^ 128 ≤ |y| → r = signed (negOf a) 0x7F800000) ∧
    (|y| < 2 ^ 128 → Near32 1 y r ∧ ∀ n : ℤ, |realOf a| = 2 ^ n → IsFin r ∧ realOf r = y))
def RsqIs (a r : W32) : Prop :=
  (IsNan a ∨ (negOf a = true ∧ a ≠ 0x80000000) → r = 0x7FC00000) ∧
  (a = 0 → r = 0x7F800000) ∧ (a = 0x80000000 → r = 0xFF800000) ∧ (a = 0x7F800000 → r = 0) ∧
  (IsFin a → negOf a = false → a ≠ 0 → Near32 1 (1 / √(realOf a)) r ∧
    ∀ n : ℤ, realOf a = 4 ^ n → IsFin r ∧ realOf r = 2 ^ (-n))

/-- Compares into an m register and their relations (R241, R246). -/
def maskForms (rd : MReg) (rs1 rs2 : VReg) : List (Instr × (W32 → W32 → Bool)) :=
  [ (.vcmpeq rd rs1 rs2, feqV), (.vcmpne rd rs1 rs2, fun a b => !feqV a b), (.vcmplt rd rs1 rs2, fltV),
    (.vcmple rd rs1 rs2, fun a b => fltV a b || feqV a b),
    (.vtmask rd rs1 rs2, fun q k => decide (k.toNat % 65536 ≤ q.toNat % 65536 ∧ q.toNat / 65536 ≤ k.toNat / 65536)) ]
where
  feqV (a b : W32) : Bool := (val32 a).eq (val32 b)
  fltV (a b : W32) : Bool := (val32 a).lt (val32 b)

/-! ### Formats (R86 to R95, R99, R100, R243) -/

/-- Exponent bits, fraction bits and bias of the floating-point elements (R86). -/
def floatShape : Elem → Option (Nat × Nat × Nat)
  | .fp32 => some (8, 23, 127) | .bf16 => some (8, 7, 127) | .fp16 => some (5, 10, 15) | .e4m3 => some (4, 3, 7)
  | .e5m2 => some (5, 2, 15) | .e3m2 => some (3, 2, 3) | .e2m3 => some (2, 3, 1) | .e2m1 => some (2, 1, 1) | _ => none
/-- The number a code stands for (R86, R93, R95), LNS6 by the table of R94 (R243). -/
noncomputable def codeReal (k : Elem) (c : Nat) : ℝ :=
  match k, floatShape k with
  | _, some (eb, fb, bias) =>
    let e := c / 2 ^ fb % 2 ^ eb
    (if c / 2 ^ (eb + fb) % 2 = 1 then -1 else 1) * ((if e = 0 then 0 else 2 ^ fb) + (c % 2 ^ fb : ℕ)) *
      2 ^ ((max e 1 : ℕ) - (bias : ℤ) - fb)
  | .int8, _ => ((BitVec.ofNat 8 c).toInt : ℝ)
  | .int4, _ => ((BitVec.ofNat 4 c).toInt : ℝ)
  | _, _ => if c % 32 = 0 then 0 else (if 32 ≤ c then -1 else 1) *
      (([0x8000, 0x9838, 0xB505, 0xD745][c % 4]?).getD 0 : ℕ) * 2 ^ ((c % 32 / 4 : ℕ) - (19 : ℤ))
/-- Codes of NaN and of infinities (R86, R93). -/
def codeNan : Elem → Nat → Prop
  | .bf16, c => 0x7F80 < c % 0x8000 | .fp16, c => 0x7C00 < c % 0x8000 | .e4m3, c => c % 128 = 127
  | .e5m2, c => 0x7C < c % 128 | .lns6, c => c = 32 | _, _ => False
def codeInf : Elem → Nat → Prop
  | .bf16, c => c % 0x8000 = 0x7F80 | .fp16, c => c % 0x8000 = 0x7C00 | .e5m2, c => c % 128 = 0x7C | _, _ => False
/-- The largest magnitude code: infinity, which takes part as the next number would, or the largest finite one. -/
def lastCode : Elem → Nat
  | .bf16 => 0x7F80 | .fp16 => 0x7C00 | .e4m3 => 0x7E | .e5m2 => 0x7C | .e2m1 => 7 | _ => 31
/-- A finite number, of a sign, as a code: the nearest, of two as near the even one, at most the last one; integers
clamped; LNS6 by its intervals (R99). -/
def ElemIs (k : Elem) (x : ℝ) (neg : Bool) (c : Nat) : Prop :=
  let top := 2 ^ (k.bits - 1)
  match k with
  | .int8 | .int4 => ∃ i : ℤ, (|x - i| < 1 / 2 ∨ (|x - i| = 1 / 2 ∧ Even i)) ∧
      (c : ℤ) = max (-top : ℤ) (min i (top - 1)) % (2 * top)
  | .lns6 => (x = 0 → c = 0) ∧ ∀ l : ℤ, (2 : ℝ) ^ (((l : ℝ) - 1 / 2) / 4 - 4) ≤ |x| → |x| < (2 : ℝ) ^ (((l : ℝ) + 1 / 2) / 4 - 4) →
      (c : ℤ) = if l ≤ 0 then 0 else (if neg then 32 else 0) + min l 31
  | _ => ∃ m : ℕ, c = (if neg then top else 0) + m ∧ m ≤ lastCode k ∧ ∀ j, j ≤ lastCode k →
      let off (i : Nat) : ℝ := |codeReal k i - abs x|
      off m ≤ off j ∧ (off m = off j → m = j ∨ Even m)
/-- An FP32 word as a code of a format without scales (R99). -/
def NarrowIs (k : Elem) (w : W32) (c : Nat) : Prop :=
  let top := 2 ^ (k.bits - 1)
  (IsNan w → c = match k with | .bf16 => 0x7FC0 | .fp16 => 0x7E00 | .e4m3 => 0x7F | .e5m2 => 0x7E | .lns6 => 32 | _ => 0) ∧
  (IsInf w → c = if k = .int8 ∨ k = .int4 then (if negOf w then top else top - 1)
    else (if negOf w then top else 0) + lastCode k) ∧
  (IsFin w → ElemIs k (realOf w) (negOf w) c)
/-- The number of a scale code (R90). -/
noncomputable def scaleReal (f : ScaleF) (c : Nat) : ℝ :=
  match f with
  | .none => 1
  | .e8m0 => 2 ^ ((c : ℤ) - 127)
  | .ue5m3 => if c = 0 then 0 else 2 ^ ((c / 8 : ℕ) - (15 : ℤ)) * (1 + (c % 8 : ℕ) / 8)
/-- Block formats: the scale, the element, emax and the largest finite element of R100. -/
def blockFormats : List (ScaleF × Elem × ℤ × ℚ) :=
  [(.e8m0, .e4m3, 8, 448), (.e8m0, .e5m2, 15, 57344), (.e8m0, .e3m2, 4, 28), (.e8m0, .e2m3, 2, 15 / 2), (.e8m0, .e2m1, 2, 6),
    (.ue5m3, .e2m1, 2, 6), (.ue5m3, .e5m2, 15, 57344)]
/-- FP32 words as a block: its scale code from the largest finite magnitude, its elements divided by the scale, and the
NaN scale with elements of code 0; E5M2 with a UE5M3 scale keeps an infinity (R100). -/
def BlockIs (f : ScaleF) (k : Elem) (emax : ℤ) (largest : ℚ) (ws : List W32) (c : Nat) (cs : List Nat) : Prop :=
  let bad (w : W32) : Prop := IsNan w ∨ (IsInf w ∧ ¬(f = .ue5m3 ∧ k = .e5m2))
  cs.length = ws.length ∧
  ((∃ w ∈ ws, bad w) → c = 255 ∧ ∀ x ∈ cs, x = 0) ∧
  ((∀ w ∈ ws, ¬bad w) →
    ((∀ w ∈ ws, IsFin w → realOf w = 0) → c = if f = .e8m0 then 127 else 0) ∧
    (∀ u ∈ ws, IsFin u → realOf u ≠ 0 → (∀ w ∈ ws, IsFin w → |realOf w| ≤ |realOf u|) →
      if f = .e8m0 then (c : ℤ) = max 0 (min 254 (⌊Real.logb 2 |realOf u|⌋ - emax + 127))
      else c ≤ 254 ∧ (c < 254 → |realOf u| / largest ≤ scaleReal f c) ∧ ∀ j, j < c → scaleReal f j < |realOf u| / largest) ∧
    ∀ (i : Nat) w x, ws[i]? = some w → cs[i]? = some x →
      (IsFin w → ElemIs k (realOf w / scaleReal f c) (negOf w) x) ∧
      (IsInf w → x = (if negOf w then 128 else 0) + 0x7C))
/-- An element code under a scale code as an FP32 word: exact, then rounded once (R92, R243). -/
def WideIs (f : ScaleF) (k : Elem) (c sc : Nat) (r : W32) : Prop :=
  let neg := decide (c / 2 ^ (k.bits - 1) % 2 = 1)
  let nan := codeNan k c ∨ (f ≠ .none ∧ sc = 255)
  (nan → r = 0x7FC00000) ∧ (¬nan → codeInf k c → r = signed neg 0x7F800000) ∧
  (¬nan → ¬codeInf k c → ∃ fl, exactResult .rne (codeReal k c * scaleReal f sc) neg r fl)
/-- Lanes as one number, lane 0 lowest: element i of w bits stands at bit w·i (R87). -/
def streamOf (l : Nat → W32) (n : Nat) : Nat := ((List.range n).map (fun i => (l i).toNat * 2 ^ (32 * i))).sum
/-- The packed conversions of R243: to the format and from it, the element and its bits, block size and scale. -/
def packedForms : List (Cvt × Cvt × Elem × Nat × Nat × ScaleF) :=
  [ (.f32bf16, .bf16f32, .bf16, 16, 0, .none), (.f32f16, .f16f32, .fp16, 16, 0, .none), (.f32e4, .e4f32, .e4m3, 8, 0, .none),
    (.f32e5, .e5f32, .e5m2, 8, 0, .none), (.f32i8, .i8f32, .int8, 8, 0, .none), (.f32i4, .i4f32, .int4, 4, 0, .none),
    (.f32ln6, .ln6f32, .lns6, 6, 0, .none), (.f32mx8, .mx8f32, .e4m3, 8, 32, .e8m0), (.f32mx6, .mx6f32, .e2m3, 6, 32, .e8m0),
    (.f32mx4, .mx4f32, .e2m1, 4, 32, .e8m0), (.f32s4, .s4f32, .e2m1, 4, 16, .ue5m3) ]

/-! ### VHAD and VTOPK (R102, R103, R245) -/

/-- The sign generator (R103). -/
def hadSign (seed : Word) (i : Nat) : Bool :=
  let z := seed ^^^ (BitVec.ofNat 64 i * 0x9E3779B97F4A7C15)
  let z := (z ^^^ (z >>> 30)) * 0xBF58476D1CE4E5B9
  let z := (z ^^^ (z >>> 27)) * 0x94D049BB133111EB
  (z ^^^ (z >>> 31)).getLsbD 0
/-- Output j of a block of 4^k words: the exact signed sum over 2^k, rounded once, with the specials of R97 (R102). -/
def HadIs (k : Nat) (seed : Word) (ws : List W32) (j : Nat) (r : W32) : Prop :=
  let neg (i : Nat) (w : W32) : Bool := (hadSign seed i != decide (((List.range 64).filter (fun b => (i &&& j).testBit b)).length % 2 = 1)) != negOf w
  let has (n : Bool) : Prop := ∃ i w, ws[i]? = some w ∧ IsInf w ∧ neg i w = n
  ((∃ w ∈ ws, IsNan w) ∨ (has true ∧ has false) → r = 0x7FC00000) ∧
  ((∀ w ∈ ws, ¬IsNan w) → (has true → ¬has false → r = 0xFF800000) ∧ (has false → ¬has true → r = 0x7F800000)) ∧
  ((∀ w ∈ ws, IsFin w) → ∃ fl, exactResult .rne
    ((ws.zipIdx.map (fun p => (if neg p.2 p.1 then -1 else 1) * |realOf p.1|)).sum / 2 ^ k)
    (decide (∀ p ∈ ws.zipIdx, neg p.2 p.1 = true)) r fl)
/-- Place in the order of the numbers that are no NaN, −0 below +0. -/
def orderKey (w : W32) : ℤ := if negOf w then -1 - (w.toNat % 2 ^ 31 : ℕ) else w.toNat % 2 ^ 31
/-- The candidates of VTOPK, as lanes, in its order: by value, equal values by ascending lane (R245). -/
def InTopOrder (th : Thread) (v : VReg) (ls : List Nat) : Prop :=
  (∀ i, i ∈ ls ↔ i < 64 ∧ (th.rm th.vpred).getLsbD i = true ∧ (lane (th.rv v) i).void = false ∧
    ¬IsNan (lane (th.rv v) i).val) ∧
  ls.Pairwise (fun i j => let a := orderKey (lane (th.rv v) i).val; let b := orderKey (lane (th.rv v) j).val
    b < a ∨ (a = b ∧ i < j))

/-- Loads and stores of lanes: the address of a lane, none where its index is void (R237). -/
def laneAddrs (th : Thread) (rs1 rs2 : XReg) (v2 : VReg) (imm : BitVec 12) :
    (Nat → Option Word) × (Nat → Option Word) × (Nat → Option Word) :=
  let a := (th.rx rs1).val
  (fun i => some (a + BitVec.ofInt 64 imm.toInt + BitVec.ofNat 64 (4 * i)),
   fun i => let k := lane (th.rv v2) i
     if k.void then none else some (a + BitVec.ofNat 64 (4 * k.val.toNat)),
   fun i => some (a + BitVec.ofNat 64 i * (th.rx rs2).val))

/-- Lanes that a masked access reaches, ascending. -/
def reached (th : Thread) (addr : Nat → Option Word) : List (Nat × Word) :=
  (List.range 64).filterMap (fun i => if (th.rm th.vpred).getLsbD i then (addr i).map (fun a => (i, a)) else none)

/-- Masked loads of lanes: the instruction, its addresses, and the condition under which its scalars serve. -/
def laneLoads (th : Thread) (rd : VReg) (rs1 rs2 : XReg) (v2 : VReg) (imm : BitVec 12) :
    List (Instr × (Nat → Option Word) × Bool) :=
  let ad := laneAddrs th rs1 rs2 v2 imm
  [ (.vld rd rs1 imm, ad.1, true), (.vldx rd rs1 v2, ad.2.1, true),
    (.vlds rd rs1 rs2, ad.2.2, !(th.rx rs2).void && decide ((th.rx rs2).val.toNat % 4 = 0)) ]
/-- Masked stores of lanes: the instruction, its data and its addresses. -/
def laneStores (th : Thread) (rd : VReg) (rs1 rs2 : XReg) (v2 : VReg) (imm : BitVec 12) :
    List (Instr × VVal × (Nat → Option Word)) :=
  let ad := laneAddrs th rs1 rs2 v2 imm
  [ (.vst rd rs1 imm, th.rv rd, ad.1), (.vstx rd rs1 v2, th.rv rd, ad.2.1) ]

end Sys2Proof.Machine

/-- R230 to R236, R240: on a compute core a masked lane instruction writes each active lane of rd and changes nothing
else; a void source lane makes a lane void and sets PROP. On a stage core it raises cause 2. R231, R232, R241, R246: a
compare writes each active bit of its m register: the relation of the lanes, 0 with PROP where one is void; inactive
bits and everything else stay. A stage core raises cause 2. VEXP2, VLOG2, VRCP and VRSQ give the exact results of
R235's table, and otherwise one within 2, 2, 1 and 1 ulp of the real number; which one is a free value (log 14), and the
statement holds whatever it is. What an ulp is, and infinity from 2^128 on, are the model's choices (log 52). -/
def Obligations.MaskedLanesAndCompares : Prop :=
  (∀ a, Exp2Is a (vexp2 a) ∧ Log2Is a (vlog2 a) ∧ RcpIs a (vrcp a) ∧ RsqIs a (vrsq a)) ∧
  (∀ s t th ty rd rs1 rs2 rs3 m3, Executing s t th → ∀ p ∈ laneForms th ty rd rs1 rs2 rs3 m3,
    (th.cls = .stage → exec p.1 s = .next (s.trap t th 2 ((encode p.1).setWidth 64))) ∧
    (th.cls = .compute → ∃ th' : Thread, exec p.1 s = goesOn s t th' ∧ LanesWritten th th' rd p.2)) ∧
  (∀ s t th rd rs1 rs2, Executing s t th → rd ≠ 0 → ∀ p ∈ maskForms rd rs1 rs2,
    let a := th.rv rs1; let b := th.rv rs2
    let gone (i : Nat) : Bool := (lane a i).void || (lane b i).void
    (th.cls = .stage → exec p.1 s = .next (s.trap t th 2 ((encode p.1).setWidth 64))) ∧
    (th.cls = .compute → ∃ th' : Thread, exec p.1 s = goesOn s t th' ∧
      th' = { th with m := th'.m, voidseen := th'.voidseen } ∧ (∀ q, q ≠ rd → th'.rm q = th.rm q) ∧
      (∀ i : Nat, i < 64 → (th'.rm rd).getLsbD i =
        if (th.rm th.vpred).getLsbD i then !gone i && p.2 (lane a i).val (lane b i).val
        else (th.rm rd).getLsbD i) ∧
      th'.voidseen = th.voidseen |||
        (if (List.range 64).any (fun i => (th.rm th.vpred).getLsbD i && gone i) then 1 else 0)))

/-- R242: MAND, MOR and MNOT write the m register, MPOP the count of its one bits; the mask of VPRED plays no part,
and nothing nullifies them; a word with destination m0 is unassigned. On a stage core each raises cause 2 (R233). -/
def Obligations.MaskRegisterOperations : Prop :=
  (∀ s t th (rd a b : MReg), Executing s t th → th.cls = .compute →
    exec (.mand rd a b) s = goesOn s t (th.wm rd (th.rm a &&& th.rm b)) ∧
    exec (.mor rd a b) s = goesOn s t (th.wm rd (th.rm a ||| th.rm b)) ∧
    exec (.mnot rd a) s = goesOn s t (th.wm rd (~~~th.rm a)) ∧
    ∀ x : XReg, exec (.mpop x a) s = goesOn s t (th.wx x (.of (BitVec.ofNat 64
      ((List.range 64).filter (fun i => (th.rm a).getLsbD i)).length)))) ∧
  (∀ s t th (rd a b : MReg) (x : XReg), Executing s t th → th.cls = .stage →
    ∀ i ∈ [Instr.mand rd a b, .mor rd a b, .mnot rd a, .mpop x a],
      exec i s = .next (s.trap t th 2 ((encode i).setWidth 64))) ∧
  (∀ v (a b : MReg), ∀ i ∈ [Instr.mand 0 a b, .mor 0 a b, .mnot 0 a], decode v (encode i) = none)

/-- R237: a masked vector load reads 32 bits for each active lane, all checks before any lane is written, and a store
writes each active lane that is not void, ascending; a lane without an address becomes void, or is not stored, and
sets MEM; a void scalar voids the whole destination; a stride that is no multiple of 4 faults. A store waits while the
log ring has no room for the pages it makes dirty (R334), and a stage core raises cause 2 (R233). A watchpoint that a
lane meets, the lanes before it passing, halts the thread (R422). -/
def Obligations.VectorLoadsAndStores : Prop :=
  (∀ s t th rd rs1 rs2 v2 imm, Executing s t th → th.cls = .stage →
    (∀ p ∈ laneLoads th rd rs1 rs2 v2 imm, exec p.1 s = .next (s.trap t th 2 ((encode p.1).setWidth 64))) ∧
    ∀ p ∈ laneStores th rd rs1 rs2 v2 imm, exec p.1 s = .next (s.trap t th 2 ((encode p.1).setWidth 64))) ∧
  ∀ s t th rd rs1 rs2 v2 imm, Executing s t th → th.cls = .compute → s.memOk →
    (∀ p ∈ laneLoads th rd rs1 rs2 v2 imm,
      ((th.rx rs1).void = true → exec p.1 s = goesOn s t
        { th.wv rd (Vector.replicate 64 ⟨0, true⟩) with voidseen := th.voidseen ||| 3 }) ∧
      ((th.rx rs1).void = false → p.2.2 = true →
        let ls := reached th p.2.1
        (∀ x : Nat → Nat, (∀ l ∈ ls, s.access th l.2 4 .load .base = .ok (.loc (x l.1))) →
          ∃ th' : Thread, exec p.1 s = goesOn (s.touched th false (ls.map (·.2))) t th' ∧
            th' = { th with v := th'.v, voidseen := th'.voidseen } ∧ (∀ q, q ≠ rd → th'.rv q = th.rv q) ∧
            (∀ i : Fin 64, (th'.rv rd)[i] = if (th.rm th.vpred).getLsbD i.val then
              (if (p.2.1 i.val).isNone then ⟨0, true⟩ else .of (BitVec.ofNat 32 (leAt s (x i.val) 4)))
              else (th.rv rd)[i]) ∧
            th'.voidseen = th.voidseen ||| (if (List.range 64).any (fun i => (th.rm th.vpred).getLsbD i &&
              (p.2.1 i).isNone) then 3 else 0)) ∧
        (∀ before i a after c v, ls = before ++ (i, a) :: after →
          (∀ l ∈ before, ∃ x : Nat, s.access th l.2 4 .load .base = .ok (.loc x)) →
          s.access th a 4 .load .base = .error (.trap c v) → exec p.1 s = .next (s.trap t th c v)) ∧
        (∀ before i a after k, ls = before ++ (i, a) :: after →
          (∀ l ∈ before, ∃ x : Nat, s.access th l.2 4 .load .base = .ok (.loc x)) →
          s.access th a 4 .load .base = .error (.watch k) → WatchAt s t th k (exec p.1 s = ·)))) ∧
    ((th.rx rs2).void = true → exec (.vlds rd rs1 rs2) s = goesOn s t
      { th.wv rd (Vector.replicate 64 ⟨0, true⟩) with voidseen := th.voidseen ||| 3 }) ∧
    ((th.rx rs1).void = false → (th.rx rs2).void = false → (th.rx rs2).val.toNat % 4 ≠ 0 →
      exec (.vlds rd rs1 rs2) s = .next (s.trap t th 4 (th.rx rs2).val)) ∧
    (∀ p ∈ laneStores th rd rs1 rs2 v2 imm,
      ((th.rx rs1).void = true → exec p.1 s = voids s t th 2) ∧
      ((th.rx rs1).void = false →
        let ls := reached th (fun i => if (lane p.2.1 i).void then none else p.2.2 i)
        let data (l : Nat × Word) : Word := (lane p.2.1 l.1).val.setWidth 64
        (∀ x : Nat → Nat, (∀ l ∈ ls, s.access th l.2 4 .store .base (some (data l)) = .ok (.loc (x l.1))) →
          s.logFits th.tile th.aspace (ls.map (·.2.toNat)) = false → exec p.1 s = .next (s.logWait t th)) ∧
        (∀ x : Nat → Nat, (∀ l ∈ ls, s.access th l.2 4 .store .base (some (data l)) = .ok (.loc (x l.1))) →
          s.logFits th.tile th.aspace (ls.map (·.2.toNat)) = true →
          exec p.1 s = goesOn (storedAt s th 4 (ls.map (fun l => (x l.1, l.2, data l)))) t
            { th with voidseen := th.voidseen ||| (if (List.range 64).any (fun i => (th.rm th.vpred).getLsbD i &&
              ((lane p.2.1 i).void || (p.2.2 i).isNone)) then 2 else 0) }) ∧
        (∀ before i a after c v, ls = before ++ (i, a) :: after →
          (∀ l ∈ before, ∃ x : Nat, s.access th l.2 4 .store .base (some (data l)) = .ok (.loc x)) →
          s.access th a 4 .store .base (some (data (i, a))) = .error (.trap c v) →
          exec p.1 s = .next (s.trap t th c v)) ∧
        (∀ before i a after k, ls = before ++ (i, a) :: after →
          (∀ l ∈ before, ∃ x : Nat, s.access th l.2 4 .store .base (some (data l)) = .ok (.loc x)) →
          s.access th a 4 .store .base (some (data (i, a))) = .error (.watch k) → WatchAt s t th k (exec p.1 s = ·))))

/-- R232, R238 to R240, R243 to R245: broadcasts, slides, lane moves, reductions, conversions, Hadamard blocks and
top-k lists; a void scalar or a void among the lanes they need makes the whole result void. A stage core raises cause
2 for each of them (R233). R87, R90 to R95, R99, R100: what each conversion writes, in real numbers: elements nearest
to the number or to its quotient by the block's scale, the scale from the block's largest magnitude, and the exact
product back, rounded once. R102, R103: each output of a Hadamard block is the signed sum, scaled and rounded once.
R245: a top-k list is the candidates by value and lane. -/
def Obligations.WholeVectorInstructions : Prop :=
  (∀ (k : Nat) seed ws, k = 2 ∨ k = 3 ∨ k = 4 → ws.length = 4 ^ k → (hadBlock k seed ws).length = 4 ^ k ∧
    ∀ j r, (hadBlock k seed ws)[j]? = some r → HadIs k seed ws j r) ∧
  (∀ p ∈ blockFormats, ∀ ws, let q := quantBlock p.1 p.2.1 (ws.map val32)
    BlockIs p.1 p.2.1 p.2.2.1 p.2.2.2 ws q.1 q.2) ∧
  (∀ s t th ty rd v (r : BitVec 5) k x f code h, Executing s t th → th.cls = .stage →
    ∀ i ∈ [Instr.vbcast ty rd r, .vslide rd v k, .vmvx x v k, .vmvf f v k, .vins rd x k, .vredsum f v, .vredmax f v,
        .vredmin f v, .vcvt code rd v, .vtopk rd v k, .vhad rd v h],
      exec i s = .next (s.trap t th 2 ((encode i).setWidth 64))) ∧
  ∀ s t th, Executing s t th → th.cls = .compute →
    let voidV (rd : VReg) (bits : BitVec 6) : Out :=
      goesOn s t { th.wv rd (Vector.replicate 64 ⟨0, true⟩) with voidseen := th.voidseen ||| bits }
    (∀ ty rd (r : BitVec 5),
      let isF := ty = .f32 ∨ ty = .bf16
      let gone := (isF ∧ (th.rf r).void = true) ∨ (¬isF ∧ (th.rx r).void = true)
      (gone → exec (.vbcast ty rd r) s = voidV rd 1) ∧
      (¬gone → ∃ th' : Thread, exec (.vbcast ty rd r) s = goesOn s t th' ∧ LanesWritten th th' rd (fun _ => .of
        (match ty with
          | .f32 => if isNan32 (th.rf r).val then 0x7FC00000 else (th.rf r).val
          | .i32 => (th.rx r).val.setWidth 32
          | .bf16 => let h := BitVec.ofNat 16 (Elem.bf16.code (val32 (th.rf r).val)); h ++ h
          | .i8 => let b : Byte := (th.rx r).val.setWidth 8; b ++ b ++ b ++ b)))) ∧
    (∀ rd rs1 k,
      ((th.rx k).void = true → exec (.vslide rd rs1 k) s = voidV rd 1) ∧
      ((th.rx k).void = false → ∃ th' : Thread, exec (.vslide rd rs1 k) s = goesOn s t th' ∧ LanesWritten th th' rd (fun i =>
        let j := (i : Int) + (th.rx k).val.toInt
        if 0 ≤ j ∧ j < 64 then lane (th.rv rs1) j.toNat else .of 0))) ∧
    (∀ (v : VReg) (k : XReg),
      ((th.rx k).void = true → (∀ rd, exec (.vmvx rd v k) s = voidsX s t th rd 1) ∧
        (∀ rd, exec (.vmvf rd v k) s = voidsF s t th rd 1)) ∧
      ((th.rx k).void = false → 63 < (th.rx k).val.toNat →
        (∀ rd, exec (.vmvx rd v k) s = .next (s.trap t th 2 (th.rx k).val)) ∧
        (∀ rd, exec (.vmvf rd v k) s = .next (s.trap t th 2 (th.rx k).val)) ∧
        (∀ rd x, (th.rx x).void = false → exec (.vins rd x k) s = .next (s.trap t th 2 (th.rx k).val))) ∧
      ((th.rx k).void = false → (th.rx k).val.toNat ≤ 63 →
        let a := lane (th.rv v) (th.rx k).val.toNat
        (∀ rd, exec (.vmvx rd v k) s = if a.void then voidsX s t th rd 1
          else goesOn s t (th.wx rd (.of (a.val.signExtend 64)))) ∧
        (∀ rd, exec (.vmvf rd v k) s = if a.void then voidsF s t th rd 1 else goesOn s t (th.wf rd (.of a.val))) ∧
        (∀ rd x, (th.rx x).void = false → exec (.vins rd x k) s = goesOn s t (th.wv rd (Vector.ofFn (fun i : Fin 64 =>
          if i.val = (th.rx k).val.toNat then VWord.of ((th.rx x).val.setWidth 32) else (th.rv rd)[i]))))) ∧
      (∀ rd x, (th.rx x).void = true ∨ (th.rx k).void = true → exec (.vins rd x k) s = voidV rd 1)) ∧
    (∀ rd v,
      let act := (List.range 64).filter (fun i => (th.rm th.vpred).getLsbD i)
      let ws := act.map (fun i => (lane (th.rv v) i).val)
      ((∃ i ∈ act, (lane (th.rv v) i).void = true) → ∀ i ∈ [Instr.vredsum rd v, .vredmax rd v, .vredmin rd v],
        exec i s = voidsF s t th rd 1) ∧
      ((∀ i ∈ act, (lane (th.rv v) i).void = false) →
        exec (.vredsum rd v) s = goesOn s t (th.wf rd (.of (rne32 (FV.sum (ws.map val32))))) ∧
        exec (.vredmax rd v) s = goesOn s t (th.wf rd (.of (rne32 (ws.foldl (fun x w => FV.pick true x (val32 w)) (.inf true))))) ∧
        exec (.vredmin rd v) s = goesOn s t (th.wf rd (.of (rne32 (ws.foldl (fun x w => FV.pick false x (val32 w)) (.inf false))))))) ∧
    (∀ rd v,
      (∃ th' g, exec (.vcvt .f32i32 rd v) s = goesOn s t th' ∧ LanesWritten th th' rd (from1 g (th.rv v)) ∧ ∀ w,
        (IsNan w → g w = 0) ∧ (IsInf w → g w = if negOf w then 0x80000000 else 0x7FFFFFFF) ∧
        (IsFin w → ∃ i : ℤ, (|realOf w - i| < 1 / 2 ∨ (|realOf w - i| = 1 / 2 ∧ Even i)) ∧
          (g w).toInt = max (-2 ^ 31) (min i (2 ^ 31 - 1)))) ∧
      (∃ th' g, exec (.vcvt .i32f32 rd v) s = goesOn s t th' ∧ LanesWritten th th' rd (from1 g (th.rv v)) ∧ ∀ w : W32,
        ∃ fl, exactResult .rne (w.toInt : ℝ) false (g w) fl)) ∧
    (∀ (rd v : VReg), ∀ p ∈ packedForms,
      let (to_, back, k, w, block, f) := p
      let src (i : Nat) : W32 := (lane (th.rv v) i).val
      let n := 2 * w + (if block = 0 then 0 else 1)
      ((∃ i, i < 64 ∧ (lane (th.rv v) i).void = true) → exec (.vcvt to_ rd v) s = voidV rd 1) ∧
      ((∃ i, i < n ∧ (lane (th.rv v) i).void = true) → exec (.vcvt back rd v) s = voidV rd 1) ∧
      ((∀ i, i < 64 → (lane (th.rv v) i).void = false) → ∃ (out : Nat → W32) (c sc : Nat → Nat),
        exec (.vcvt to_ rd v) s = goesOn s t (th.wv rd (Vector.ofFn (fun i : Fin 64 => VWord.of (out i.val)))) ∧
        streamOf out 64 = ((List.range 64).map (fun i => c i * 2 ^ (w * i))).sum +
          ((List.range (if block = 0 then 0 else 64 / block)).map (fun b => sc b * 2 ^ (64 * w + 8 * b))).sum ∧
        (∀ i, c i < 2 ^ w ∧ sc i < 256) ∧
        (block = 0 → ∀ i, i < 64 → NarrowIs k (src i) (c i)) ∧
        (block ≠ 0 → ∀ q ∈ blockFormats, q.1 = f → q.2.1 = k → ∀ b, b < 64 / block →
          BlockIs f k q.2.2.1 q.2.2.2 ((List.range block).map (fun i => src (block * b + i))) (sc b)
            ((List.range block).map (fun i => c (block * b + i))))) ∧
      ((∀ i, i < n → (lane (th.rv v) i).void = false) → ∃ out : Nat → W32,
        exec (.vcvt back rd v) s = goesOn s t (th.wv rd (Vector.ofFn (fun i : Fin 64 => VWord.of (out i.val)))) ∧
        ∀ i, i < 64 → WideIs f k (streamOf src n / 2 ^ (w * i) % 2 ^ w)
          (if block = 0 then 0 else streamOf src n / 2 ^ (64 * w + 8 * (i / block)) % 256) (out i))) ∧
    (∀ rd v k,
      let c := (th.rx k).val.toNat
      ((th.rx k).void = true → exec (.vtopk rd v k) s = voidV rd 1) ∧
      ((th.rx k).void = false → c / 2 ^ 6 % 2 ^ 26 ≠ 0 ∨ c % 2 ^ 6 = 0 ∨ 32 < c % 2 ^ 6 →
        exec (.vtopk rd v k) s = .next (s.trap t th 2 (th.rx k).val)) ∧
      ((th.rx k).void = false → c / 2 ^ 6 % 2 ^ 26 = 0 → 1 ≤ c % 2 ^ 6 → c % 2 ^ 6 ≤ 32 →
        ∃ ls, InTopOrder th v ls ∧ exec (.vtopk rd v k) s = goesOn s t (th.wv rd (Vector.ofFn (fun i : Fin 64 =>
          VWord.of (match (if i.val % 32 < c % 2 ^ 6 then ls[i.val % 32]? else none) with
            | some l => if i.val < 32 then (lane (th.rv v) l).val else BitVec.ofNat 32 (c / 2 ^ 32 + l)
            | none => if i.val < 32 then 0xFF800000 else 0xFFFFFFFF)))))) ∧
    (∀ rd v h,
      ((th.rx h).void = true → exec (.vhad rd v h) s = voidV rd 3) ∧
      ((th.rx h).void = false → (th.rx h).val.toNat % 64 ≠ 0 →
        exec (.vhad rd v h) s = .next (s.trap t th 4 (th.rx h).val)) ∧
      (∀ w seed, (th.rx h).void = false → (th.rx h).val.toNat % 64 = 0 →
        s.readVals th .base [((th.rx h).val, 8), ((th.rx h).val + 24, 8)] = .ok [w, seed] →
        let s1 := s.touched th false [(th.rx h).val, (th.rx h).val + 24]
        let had := w / 2 ^ 32 % 4
        let legal := headerLegal (BitVec.ofNat 64 w) = true ∧ had ≠ 0 ∧
          (had = 3 → rd.toNat % 4 = 0 ∧ v.toNat % 4 = 0)
        (¬legal → exec (.vhad rd v h) s = .next (s1.trap t th 2 (th.rx h).val)) ∧
        (legal →
          let regs := if had = 3 then 4 else 1
          let n := 4 ^ (had + 1)
          let blocks := chunks n (64 * regs / n) (lanesFrom th v regs)
          exec (.vhad rd v h) s = goesOn s1 t
            { putFrom th rd regs ((blocks.map (fun b => if b.any (·.void) then b.map (fun _ => (⟨0, true⟩ : Lane))
                else (hadBlock (had + 1) (BitVec.ofNat 64 seed) (b.map (·.val))).map VWord.of)).flatten) with
              voidseen := th.voidseen ||| (if blocks.any (fun b => b.any (·.void)) then 1 else 0) })))

namespace Sys2Proof.Machine

/-! ### The matrix array -/

/-- An array command enters the weight queue or the row queue of the thread's tile, with its range locks; `x` is
the tile beside that (R247, R249). -/
def queuesCmd (s : State) (t : Nat) (th : Thread) (weight : Bool) (op : ArrayOp) (locks : List Lock) (x : Tile) : Out :=
  let c : ArrayCmd := ⟨s.nextOp, t, th.tid t, th.sid0, op, false, 0, s.scopeCancelled th.sid0⟩
  let y : Tile := { x with
    locks := x.locks ++ locks
    weightQ := if weight then x.weightQ ++ [c] else x.weightQ
    rowQ := if weight then x.rowQ else x.rowQ ++ [c] }
  goesOn { s with nextOp := s.nextOp + 1, tiles := tset s.tiles th.tile y } t th

/-- Instructions of the array: all of them run on compute cores only (R233). -/
def arrayForms (p : Pair) (acc : AccReg) (cb : CbReg) (rd rs2 : XReg) (vd : VReg) (f : FReg) : List Instr :=
  [.mxstrm p acc cb rs2 f, .mxldw cb rs2, .mxswap, .mxzero acc, .mxwb cb acc rs2, .mxrd vd acc rs2, .mxwait rd, .mxstat rd acc]

/-- Plane bytes of a weight format code (R251). -/
def bytesOfPlane (f : Nat) : Nat := [32768, 32768, 32768, 32768, 33792, 25600, 34816, 36864, 32768, 16384, 49152].getD f 0
/-- The range of bytes that covers `n` slots of a buffer from slot `i`; one that wraps is the whole buffer (R249). -/
def slotRange (d : Cb) (i n : Nat) : Nat × Nat :=
  if n = 0 then (d.base, 0)
  else if i + n ≤ d.count then (d.base + i * d.slot, n * d.slot) else (d.base, d.count * d.slot)
/-- A slot size that is a non-zero multiple of `n` bytes, in a configured buffer. -/
def goodSlots (d : Cb) (n : Nat) : Prop := d.count ≠ 0 ∧ d.slot ≠ 0 ∧ d.slot % n = 0
/-- Row bytes, scale bytes per row, and the weight format of a pair (R255). -/
def pairRows (p : Pair) : Nat × Nat × Nat :=
  match p with
  | .bb => (256, 0, 0) | .hh => (256, 0, 1) | .e4e4 => (256, 0, 2) | .e5e4 => (256, 0, 2) | .e4e5 => (256, 0, 3)
  | .e5e5 => (256, 0, 3) | .mx8 => (256, 8, 4) | .mx6 => (192, 8, 5) | .mx4 => (256, 16, 6) | .mx4x8 => (256, 8, 4)
  | .s4 => (256, 32, 7) | .i8 => (256, 0, 8) | .i8i4 => (256, 0, 9) | .ln6 => (384, 0, 10)
/-- Bytes of an output element of MXWB (R259). -/
def outBytes (fmt : Nat) : Nat := [4, 2, 2, 1, 1, 1].getD fmt 0
/-- Slots that `n` bytes fill. -/
def fills (n slot : Nat) : Nat := (n + slot - 1) / slot
/-- Does a queued command write the words of an accumulator (R261)? -/
def touchesAcc (c : ArrayCmd) (a : Nat) : Prop :=
  (∃ (p : _) (cb : _) (r : _) (n : _) (g : _), c.op = .strm p a cb r n g) ∨ c.op = .zero a ∨ ∃ (cb : _) (f : _) (r : _) (n : _), c.op = .wb cb a f r n true

end Sys2Proof.Machine

/-- R233, R247, R249 to R259: the array's instructions check their operands at issue, wait while their queue or the
range-lock table is full, and enter the queue; a command that traps queues nothing. R261 to R263: MXRD waits for the
commands that write its accumulator, also those queued while it waits (log 58), then reads a row into two v registers;
MXSTAT reads the planes and the accumulator's record; MXWAIT answers how the thread's commands came out. That a row
above 127 is an illegal use of MXRD, and one of 128 with no rows is none of MXWB, is read from R259 and R371 (log 58).
-/
def Obligations.ArrayCommandsAndAccumulatorReads : Prop :=
  (∀ s t th p acc cb rd rs2 vd f, Executing s t th →
    (th.cls = .stage → ∀ i ∈ arrayForms p acc cb rd rs2 vd f,
      exec i s = .next (s.trap t th 2 ((encode i).setWidth 64))) ∧
    (th.cls = .compute →
      let x := s.tile th.tile
      let d := x.cb cb.toNat
      let w := (th.rx rs2).val
      let count := w.toNat % 512
      let row0 := w.toNat / 65536 % 256
      let rowRoom := x.rowQ.length < 2
      (exec (.mxzero acc) s =
        if rowRoom then queuesCmd s t th false (.zero acc.toNat) [] x else stallsHere s t th) ∧
      (exec .mxswap s = if x.unclaimed = 0 then .next (s.trap t th 56 0)
        else if rowRoom then queuesCmd s t th false .swap [] { x with unclaimed := x.unclaimed - 1 }
        else stallsHere s t th) ∧
      (exec (.mxldw cb rs2) s = if (th.rx rs2).void then voids s t th 2
        else if 10 < w.toNat then .next (s.trap t th 2 w)
        else if d.count = 0 ∨ d.count * d.slot < bytesOfPlane w.toNat then
          .next (s.trap t th 29 (BitVec.ofNat 64 cb.toNat))
        else if x.weightQ.length < 2 ∧ x.locks.length < 16 then
          queuesCmd s t th true (.ldw cb.toNat w.toNat)
            [⟨s.nextOp, slotRange d d.cidx (if d.slot = 0 then 0 else fills (bytesOfPlane w.toNat) d.slot), (0, 0)⟩]
            { x with unclaimed := x.unclaimed + 1 }
        else stallsHere s t th) ∧
      (let int := p = .i8 ∨ p = .i8i4
       let (n, sn, fmt) := pairRows p
       let e := x.cb (cb.toNat + 1)
       let bad := w.toNat / 2 ^ 24 ≠ 0 ∨ w.toNat / 512 % 128 ≠ 0 ∨ 127 < row0 ∨ 128 < row0 + count
       let m := x.meets
       let lock (c : Cb) (k : Nat) : Lock := ⟨s.nextOp, slotRange c c.cidx (if count = 0 then 0 else fills ((c.row + count) * k) c.slot), (0, 0)⟩
       let locks := lock d n :: (if sn = 0 then [] else [lock e sn])
       let i := Instr.mxstrm p acc cb rs2 f
       ((th.rx rs2).void = true ∨ (¬int ∧ (th.rf f).void = true) → exec i s = voids s t th 2) ∧
       ((th.rx rs2).void = false → (int ∨ (th.rf f).void = false) →
        (bad → exec i s = .next (s.trap t th 2 w)) ∧
        (¬bad → ¬goodSlots d n → exec i s = .next (s.trap t th 29 (BitVec.ofNat 64 cb.toNat))) ∧
        (¬bad → goodSlots d n → sn ≠ 0 → cb = 15 → exec i s = .next (s.trap t th 2 ((encode i).setWidth 64))) ∧
        (¬bad → goodSlots d n → sn ≠ 0 → cb ≠ 15 → ¬goodSlots e sn →
          exec i s = .next (s.trap t th 29 (BitVec.ofNat 64 (cb.toNat + 1)))) ∧
        (¬bad → goodSlots d n → (sn = 0 ∨ (cb ≠ 15 ∧ goodSlots e sn)) →
          (m.1 = .empty ∨ m.1 = .invalid ∨ m.2 ≠ fmt → exec i s = .next (s.trap t th 28 (BitVec.ofNat 64 p.code.toNat))) ∧
          (m.1 ≠ .empty → m.1 ≠ .invalid → m.2 = fmt →
            (rowRoom → x.locks.length + locks.length ≤ 16 →
              exec i s = queuesCmd s t th false
                (.strm p acc.toNat cb.toNat row0 count (if int then 0 else (th.rf f).val)) locks
                { x with accStat := x.accStat.set acc.toNat { x.accStat[acc.toNat]'acc.isLt with last := .running, rows := 0 } acc.isLt }) ∧
            (¬(rowRoom ∧ x.locks.length + locks.length ≤ 16) → exec i s = stallsHere s t th))))) ∧
      (let fmt := w.toNat / 2 ^ 24 % 16
       let bad := w.toNat / 2 ^ 29 ≠ 0 ∨ w.toNat / 512 % 128 ≠ 0 ∨ 5 < fmt ∨ 128 < row0 + count
       let n := 128 * outBytes fmt
       let i := Instr.mxwb cb acc rs2
       ((th.rx rs2).void = true → exec i s = voids s t th 2) ∧
       ((th.rx rs2).void = false →
        (d.count = 0 → exec i s = .next (s.trap t th 29 (BitVec.ofNat 64 cb.toNat))) ∧
        (d.count ≠ 0 → bad → exec i s = .next (s.trap t th 2 w)) ∧
        (d.count ≠ 0 → ¬bad → ¬goodSlots d n → exec i s = .next (s.trap t th 29 (BitVec.ofNat 64 cb.toNat))) ∧
        (¬bad → goodSlots d n → rowRoom → x.locks.length < 16 →
          exec i s = queuesCmd s t th false (.wb cb.toNat acc.toNat fmt row0 count (w.getLsbD 28))
            [⟨s.nextOp, (0, 0), slotRange d d.pidx (fills (count * n) d.slot)⟩] x) ∧
        (¬bad → goodSlots d n → ¬(rowRoom ∧ x.locks.length < 16) → exec i s = stallsHere s t th))))) ∧
  (∀ s t th acc rd (rs2 : XReg) (vd : VReg), Executing s t th → th.cls = .compute →
    let x := s.tile th.tile
    let r := (th.rx rs2).val
    let allv : VVal := Vector.replicate 64 ⟨0, true⟩
    ((th.rx rs2).void = true → exec (.mxrd vd acc rs2) s =
      goesOn s t { (th.wv vd allv).wv (vd + 1) allv with voidseen := th.voidseen ||| 1 }) ∧
    ((th.rx rs2).void = false →
      (127 < r.toNat → exec (.mxrd vd acc rs2) s = .next (s.trap t th 2 r)) ∧
      (r.toNat ≤ 127 → (∃ c ∈ x.rowQ, touchesAcc c acc.toNat) → exec (.mxrd vd acc rs2) s = stallsHere s t th) ∧
      (r.toNat ≤ 127 → (∀ c ∈ x.rowQ, ¬touchesAcc c acc.toNat) →
        (x.rowPoisoned acc.toNat r.toNat = true → exec (.mxrd vd acc rs2) s = .next (s.trap t th 30 r)) ∧
        (x.rowPoisoned acc.toNat r.toNat = false →
          let ws := x.accRow acc.toNat r.toNat
          exec (.mxrd vd acc rs2) s = goesOn s t
            ((th.wv vd (Vector.ofFn (fun i : Fin 64 => VWord.of (ws.getD i.val 0)))).wv (vd + 1)
              (Vector.ofFn (fun i : Fin 64 => VWord.of (ws.getD (64 + i.val) 0))))))) ∧
    (let st := x.accStat[acc.toNat]'acc.isLt
     let code (p : PlaneState) (shadow : Bool) : Nat := match p, shadow with
       | .empty, _ => 0 | .loading, sh => if sh then 1 else 0 | .valid, sh => if sh then 2 else 1
       | .invalid, sh => if sh then 3 else 2
     let last : Nat := match st.last with | .none => 0 | .running => 1 | .complete => 2 | .cancelled => 3 | .faulted => 4
     exec (.mxstat rd acc) s = goesOn s t (th.wx rd (.of (BitVec.ofNat 64 (x.active.fmt * 2 ^ 36 + code x.active.state false * 2 ^ 34 +
       x.shadow.fmt * 2 ^ 30 + code x.shadow.state true * 2 ^ 28 + (if st.sat then 2 ^ 19 else 0) + last * 2 ^ 16 + st.rows))))) ∧
    (let mine (c : ArrayCmd) : Prop := c.tid = th.tid t
     let r : Word := if th.mxFailed then 2 else if th.mxCancelled then 1 else 0
     ((∀ c ∈ x.weightQ ++ x.rowQ, ¬mine c) → exec (.mxwait rd) s =
       goesOn s t { th.wx rd (.of r) with mxFailed := false, mxCancelled := false, wait := none }) ∧
     ((∃ c ∈ x.weightQ ++ x.rowQ, mine c) → exec (.mxwait rd) s = waitsFor s t th .mx rd)))

namespace Sys2Proof.Machine

/-! ### The array at work -/

/-- A step of the array changes tile `l` alone. -/
def tileBecomes (s : State) (l : Nat) (y : Tile) : Out := .next (s.setTile l y)
/-- The record of the thread that issued a command, if that thread still lives. -/
def issuerOf (s : State) (c : ArrayCmd) : Option Thread :=
  match s.thread? c.t with
  | some th => if th.tid c.t = c.tid then some th else none
  | none => none
/-- The tile changes, and the issuer, if it lives, is told. -/
def tileTells (s : State) (l : Nat) (y : Tile) (c : ArrayCmd) (f : Thread → Thread) : Out :=
  match issuerOf s c with
  | some th => .next ((s.setTile l y).setTh c.t (f th))
  | none => .next (s.setTile l y)
/-- A failure of a command: it ends, the commands its thread issued later and that have not started are discarded,
and MATRIX_OPERAND with a word is kept for the thread (R391). -/
def cmdFails (s : State) (l : Nat) (c : ArrayCmd) (y : Tile) (kind cb acc done_ where_ : Nat) : Out :=
  let later (k : ArrayCmd) : ArrayCmd :=
    if k.tid = c.tid ∧ c.id < k.id ∧ k.started = false then { k with cancelled := true } else k
  let z := y.dropCmd c.id
  tileTells s l { z with weightQ := z.weightQ.map later, rowQ := z.rowQ.map later } c (fun th =>
    { th with mxFailed := true, pendMx := th.pendMx ++
      [BitVec.ofNat 64 (kind * 2 ^ 24 + cb * 2 ^ 20 + acc * 2 ^ 18 + done_ * 2 ^ 8 + where_)] })
/-- LAST and ROWS of an accumulator set to values. -/
def lastIs (x : Tile) (acc : Fin 4) (l : Last) (rows : Nat) : Tile :=
  { x with accStat := x.accStat.set acc.val { x.accStat[acc] with last := l, rows := rows } acc.isLt }
/-- Is a stream into an accumulator queued after a command, so that LAST and ROWS are that stream's (R263)? -/
def laterStrm (x : Tile) (id : Nat) (acc : Fin 4) : Bool :=
  x.rowQ.any (fun k => decide (id < k.id) && match k.op with | .strm _ a _ _ _ _ => a == acc.val | _ => false)
/-- LAST and ROWS as a command leaves them, unless a later stream has them. -/
def leaves (x : Tile) (id : Nat) (acc : Fin 4) (l : Last) (rows : Nat) : Tile :=
  if laterStrm x id acc then x else lastIs x acc l rows
/-- A consumer side advanced by a slot (R64). -/
def slotTaken (d : Cb) : Cb := { d with fill := d.fill - 1, free := d.free + 1, cidx := (d.cidx + 1) % d.count }
/-- A producer side advanced by a slot. -/
def slotFilled (d : Cb) : Cb := { d with free := d.free - 1, fill := d.fill + 1, pidx := (d.pidx + 1) % d.count }
/-- A row of `n` bytes has been read; after a slot's last one the next slot begins at its first row (R256). -/
def rowTaken (d : Cb) (n : Nat) : Cb :=
  if (d.row + 1) * n < d.slot then { d with row := d.row + 1 } else { slotTaken d with row := 0 }
/-- Where the next row of `n` bytes of a buffer stands. -/
def rowLoc (l : Nat) (d : Cb) (n : Nat) : Nat := tlLoc l (d.base + d.cidx * d.slot + d.row * n)

/-- The new value of an accumulator word after a row: the exact sum times g, one rounding; integers saturate
(R96, R98). -/
def newWord (r : RowIn) (data : List Byte) (j : Nat) (old : W32) : W32 × Bool :=
  let i := pairInfo r.p
  let (w, ws) := planeCol i data j
  if r.p = .i8 ∨ r.p = .i8i4 then
    let v := old.toInt + columnInt i r.act w
    (BitVec.ofInt 32 (max (-2 ^ 31) (min (2 ^ 31 - 1) v)), decide (v < -2 ^ 31 ∨ 2 ^ 31 - 1 < v))
  else (rne32 (FV.add false (val32 old) ((columnSum i r.act r.scale w ws).mul (val32 r.g))), false)

end Sys2Proof.Machine

/-- R247, R248, R252, R253, R258: the head of the weight queue starts when the shadow is EMPTY or INVALID and no
earlier stream names its buffer, reads a slot at a time, and leaves the shadow READY; MXSWAP starts once the rows
before it are through, and from then on moves the shadow to the active plane as soon as it is READY or INVALID, be it
cancelled (R264); MXZERO clears an accumulator and its SAT. R96, R98, R254 to R257: a stream starts when it heads the
row queue and meets a VALID plane of its format, fails with KIND 2 and WHERE 3 otherwise, and is over at once without
rows; a row enters from its buffers; its 128 words are updated in one step, in the order of entry, and the last row's
update completes the stream; LAST and ROWS stay those of a stream queued later (R263). That a sum of products that are
all −0 is −0, as R5 has it, is the model's reading (log 21); that an EMPTY shadow keeps its format code after a swap,
and a slot that MXLDW takes its row position, is read from R6 (log 58). -/
def Obligations.PlanesAndStreamedRows : Prop :=
  (∀ s l, s.input = .num l →
    let x := s.tile l
    (∀ c cb f, x.weightQ.head? = some c → c.op = .ldw cb f → c.cancelled = false →
      let d := x.cb cb
      let n := min d.slot (planeBytes f - c.pos * d.slot)
      let data := x.shadow.data ++ s.bytesAt (tlLoc l (d.base + d.cidx * d.slot)) n
      (c.started = false → x.streamBefore c cb = false →
        (x.shadow.state = .empty ∨ x.shadow.state = .invalid → exec .arrayMxldwStart s =
          tileBecomes s l { x.setCmd { c with started := true } with shadow := ⟨.loading, f, []⟩ }) ∧
        (x.shadow.state = .loading ∨ x.shadow.state = .valid → exec .arrayMxldwStart s = .next s)) ∧
      (c.started = true → cb < 16 → d.count ≠ 0 →
        (d.fill = 0 → exec .arrayMxldwSlot s = .next s) ∧
        (d.fill ≠ 0 → s.poisonIn (tlLoc l (d.base + d.cidx * d.slot)) n = none →
          let y := x.setCb cb (slotTaken d)
          (data.length < planeBytes f → exec .arrayMxldwSlot s =
            tileBecomes s l { y.setCmd { c with pos := c.pos + 1 } with shadow := ⟨.loading, f, data⟩ }) ∧
          (planeBytes f ≤ data.length → exec .arrayMxldwSlot s =
            tileBecomes s l { y.dropCmd c.id with shadow := ⟨.valid, f, data⟩ })))) ∧
    (∀ c, x.rowQ.head? = some c → c.cancelled = false →
      (c.op = .swap → c.started = false →
        (x.rowsIn = [] → exec .arrayMxswapRun s = tileBecomes s l (x.setCmd { c with started := true })) ∧
        (x.rowsIn ≠ [] → exec .arrayMxswapRun s = .next s)) ∧
      (∀ acc : Fin 4, c.op = .zero acc.val → ∃ y : Tile, exec .arrayMxzeroRun s = tileBecomes s l y ∧
        (∀ row, row < 128 → y.accRow acc.val row = List.replicate 128 0) ∧
        (∀ a row, row < 128 → a ≠ acc.val → y.accRow a row = x.accRow a row) ∧
        y.accStat = x.accStat.set acc.val { x.accStat[acc] with sat := false } acc.isLt ∧
        (∀ row, row < 128 → y.rowPoisoned acc.val row = false) ∧
        y.rowQ = (x.dropCmd c.id).rowQ ∧ y.cbs = x.cbs ∧ y.active = x.active ∧ y.shadow = x.shadow)) ∧
    (∀ c, x.rowQ.head? = some c → c.op = .swap → c.started = true →
      (x.shadow.state = .valid ∨ x.shadow.state = .invalid → exec .arrayMxswapRun s =
        tileBecomes s l { x.dropCmd c.id with active := x.shadow, shadow := ⟨.empty, x.shadow.fmt, []⟩ }) ∧
      (x.shadow.state = .empty ∨ x.shadow.state = .loading → exec .arrayMxswapRun s = .next s))) ∧
  (∀ s l, s.input = .num l →
    let x := s.tile l
    (∀ c p (acc : Fin 4) cb row0 count g, x.rowQ.head? = some c → c.op = .strm p acc.val cb row0 count g →
      c.cancelled = false →
      let (n, sn, fmt) := pairRows p
      let d := x.cb cb
      let e := x.cb (cb + 1)
      (c.started = false → x.loadBefore c p cb = false →
        (count = 0 → exec .arrayStreamHeadCheck s = tileBecomes s l (leaves (x.dropCmd c.id) c.id acc .complete 0)) ∧
        (count ≠ 0 → x.active.state = .valid → x.active.fmt = fmt → exec .arrayStreamHeadCheck s =
          tileBecomes s l (leaves (x.setCmd { c with started := true }) c.id acc .running 0)) ∧
        (count ≠ 0 → ¬(x.active.state = .valid ∧ x.active.fmt = fmt) → exec .arrayStreamHeadCheck s =
          cmdFails s l c (leaves x c.id acc .faulted 0) 2 cb acc.val 0 3)) ∧
      (c.started = true → c.pos < count → cb < 16 → d.count ≠ 0 → d.fill ≠ 0 →
        (sn ≠ 0 → cb < 15 ∧ e.count ≠ 0 ∧ e.fill ≠ 0) →
        s.poisonIn (rowLoc l d n) n = none → (sn ≠ 0 → s.poisonIn (rowLoc l e sn) sn = none) →
        x.rowPoisoned acc.val (row0 + c.pos) = false →
        let r : RowIn := ⟨c.id, p, acc.val, row0 + c.pos, s.bytesAt (rowLoc l d n) n,
          (if sn = 0 then [] else s.bytesAt (rowLoc l e sn) sn), g⟩
        ∃ y : Tile, exec .arrayRowEnter s = tileBecomes s l y ∧ y.rowsIn = x.rowsIn ++ [r] ∧
          y.cb cb = rowTaken d n ∧ (sn ≠ 0 → y.cb (cb + 1) = rowTaken e sn) ∧
          (∀ b, b ≠ cb → (sn ≠ 0 → b ≠ cb + 1) → y.cb b = x.cb b) ∧
          y.rowQ = (x.setCmd { c with pos := c.pos + 1 }).rowQ ∧ y.acc = x.acc ∧ y.active = x.active) ∧
      (c.started = true → d.fill = 0 → exec .arrayRowEnter s = .next s)) ∧
    (∀ r rest (acc : Fin 4), x.rowsIn = r :: rest → r.acc = acc.val → r.row < 128 →
      x.rowPoisoned r.acc r.row = false → (x.accRow r.acc r.row).length = 128 →
      let new := fun j => newWord r x.active.data j ((x.accRow r.acc r.row).getD j 0)
      ∃ y : Tile, exec .arrayRowUpdate s = tileBecomes s l y ∧ y.rowsIn = rest ∧ y.cbs = x.cbs ∧ y.active = x.active ∧
        (∀ j, j < 128 → (y.accRow r.acc r.row).getD j 0 = (new j).1) ∧
        (∀ a b, b < 128 → (a ≠ r.acc ∨ b ≠ r.row) → y.accRow a b = x.accRow a b) ∧
        y.accStat[acc].rows = x.accStat[acc].rows + (if laterStrm x r.cmd acc then 0 else 1) ∧
        y.accStat[acc].sat = (x.accStat[acc].sat || (List.range 128).any (fun j => (new j).2)) ∧
        (∀ c p cb row0 count g, x.rowQ.find? (fun k => k.id == r.cmd) = some c → c.op = .strm p r.acc cb row0 count g →
          (c.pos = count → (∀ q ∈ rest, q.cmd ≠ r.cmd) →
            y.rowQ = (x.dropCmd r.cmd).rowQ ∧
            y.accStat[acc].last = (if laterStrm x r.cmd acc then x.accStat[acc].last else .complete)) ∧
          (¬(c.pos = count ∧ ∀ q ∈ rest, q.cmd ≠ r.cmd) →
            y.rowQ = x.rowQ ∧ y.accStat[acc].last = x.accStat[acc].last))))

/-- R99, R260, R264, R391: MXWB writes a row of converted words into its slot and advances the producer side when
the slot is full or the last row is written; a cancelled command stops at its boundary and its issuer is told, but a
swap that has started is not stopped; a command that meets poison ends as failed, and LAST of its accumulator reads
FAULTED. An MXWB that stops within a slot of rows written advances it. That MXWB waits for the commands queued before it
is the model's reading (log 22), and so is that a failed MXWB advances its last slot as a cancelled one does (log 58);
that a poisoned row of scales is reported with the buffer that the instruction names is its choice (log 58). -/
def Obligations.ArrayCommandsWriteStopAndFail : Prop :=
  ∀ s l,
    let x := s.tile l
    (∀ c cb acc fmt row0 count z, s.input = .num l → x.rowQ.head? = some c → c.op = .wb cb acc fmt row0 count z →
      c.cancelled = false → x.cmdBefore c.id = false →
      let d := x.cb cb
      let n := 128 * outBytes fmt
      let k := d.slot / n
      (count = 0 → exec .arrayMxwbRow s = tileBecomes s l (x.dropCmd c.id)) ∧
      (count ≠ 0 → c.pos % k = 0 → d.free = 0 → exec .arrayMxwbRow s = .next s) ∧
      (cb < 16 → fmt ≤ 5 → row0 + c.pos < 128 → c.pos < count → d.count ≠ 0 → d.free ≠ 0 → x.rowPoisoned acc (row0 + c.pos) = false →
        let out : List Nat := (x.accRow acc (row0 + c.pos)).map (fun w =>
          [w.toNat, Elem.bf16.code (val32 w), Elem.fp16.code (val32 w), Elem.e4m3.code (val32 w),
            Elem.e5m2.code (val32 w), Elem.int8.code (ofInt w.toInt)].getD fmt 0)
        let last := c.pos + 1 = count
        ∃ y : Tile, exec .arrayMxwbRow s = .next ((s.setTile l y).putClean
            (tlLoc l (d.base + d.pidx * d.slot + c.pos % k * n)) (pack (8 * outBytes fmt) out)) ∧
          y.cb cb = (if (c.pos + 1) % k = 0 ∨ last then slotFilled d else d) ∧ (∀ b, b ≠ cb → y.cb b = x.cb b) ∧
          (z = true → y.accRow acc (row0 + c.pos) = List.replicate 128 0) ∧
          (∀ a b, b < 128 → (z = false ∨ a ≠ acc ∨ b ≠ row0 + c.pos) → y.accRow a b = x.accRow a b) ∧
          (last → y.rowQ = (x.dropCmd c.id).rowQ) ∧
          (¬last → y.rowQ = (x.setCmd { c with pos := c.pos + 1, started := true }).rowQ))) ∧
    (∀ c, s.input = .num2 l c.id → x.weightQ.head? = some c ∨ (x.rowQ.head? = some c ∧ ∀ k ∈ x.weightQ, k.id ≠ c.id) →
      c.cancelled = true →
      let y := x.dropCmd c.id
      let told (y : Tile) : Out := tileTells s l y c (fun th => { th with mxCancelled := true })
      (∀ cb f, c.op = .ldw cb f → (c.started = true ∨ x.shadow.state = .empty ∨ x.shadow.state = .invalid) →
        exec .arrayCancelStop s = told { y with shadow := ⟨.invalid, f, []⟩ }) ∧
      (c.op = .swap → c.started = false → exec .arrayCancelStop s = told { y with unclaimed := y.unclaimed + 1 }) ∧
      (c.op = .swap → c.started = true → exec .arrayCancelStop s = .next s) ∧
      (∀ acc, c.op = .zero acc → exec .arrayCancelStop s = told y) ∧
      (∀ p (acc : Fin 4) cb row0 count g, c.op = .strm p acc.val cb row0 count g →
        ((∃ r ∈ x.rowsIn, r.cmd = c.id) → exec .arrayCancelStop s = .next s) ∧
        ((∀ r ∈ x.rowsIn, r.cmd ≠ c.id) → exec .arrayCancelStop s =
          told (leaves y c.id acc .cancelled (if c.started then x.accStat[acc].rows else 0)))) ∧
      (∀ cb acc fmt row0 count z, c.op = .wb cb acc fmt row0 count z →
        let d := x.cb cb
        (c.started = false ∨ c.pos % (d.slot / (128 * outBytes fmt)) = 0 → fmt ≤ 5 → exec .arrayCancelStop s = told y) ∧
        (c.started = true → c.pos % (d.slot / (128 * outBytes fmt)) ≠ 0 → fmt ≤ 5 → d.count ≠ 0 → d.free ≠ 0 →
          exec .arrayCancelStop s = told (y.setCb cb (slotFilled d))))) ∧
    (∀ c cb f, s.input = .num2 l 0 → x.weightQ.head? = some c → c.op = .ldw cb f → c.started = true →
      c.cancelled = false → (x.cb cb).fill ≠ 0 →
      let d := x.cb cb
      s.poisonIn (tlLoc l (d.base + d.cidx * d.slot)) (min d.slot (planeBytes f - c.pos * d.slot)) ≠ none →
      exec .arrayPoisonFault s = cmdFails s l c { x with shadow := ⟨.invalid, f, []⟩ } 1 cb 0 c.pos 1) ∧
    (∀ c p (acc : Fin 4) cb row0 count g, s.input = .num2 l 1 → x.rowQ.head? = some c →
      c.op = .strm p acc.val cb row0 count g → c.started = true → c.cancelled = false → c.pos < count →
      x.rowsIn = [] → (x.cb cb).fill ≠ 0 → (pairRows p).2.1 = 0 →
      let n := (pairRows p).1
      let y := leaves x c.id acc .faulted x.accStat[acc].rows
      (s.poisonIn (rowLoc l (x.cb cb) n) n ≠ none → exec .arrayPoisonFault s = cmdFails s l c y 2 cb acc.val c.pos 1) ∧
      (s.poisonIn (rowLoc l (x.cb cb) n) n = none → x.rowPoisoned acc.val (row0 + c.pos) = true →
        exec .arrayPoisonFault s = cmdFails s l c y 2 cb acc.val c.pos 2)) ∧
    (∀ c p (acc : Fin 4) cb row0 count g, s.input = .num2 l 1 → x.rowQ.head? = some c →
      c.op = .strm p acc.val cb row0 count g → c.started = true → c.cancelled = false → c.pos < count →
      x.rowsIn = [] → (x.cb cb).fill ≠ 0 → (x.cb (cb + 1)).fill ≠ 0 →
      let (n, sn, _) := pairRows p
      sn ≠ 0 →
      let bad := s.poisonIn (rowLoc l (x.cb cb) n) n ≠ none ∨ s.poisonIn (rowLoc l (x.cb (cb + 1)) sn) sn ≠ none
      let y := leaves x c.id acc .faulted x.accStat[acc].rows
      (bad → exec .arrayPoisonFault s = cmdFails s l c y 2 cb acc.val c.pos 1) ∧
      (¬bad → x.rowPoisoned acc.val (row0 + c.pos) = true →
        exec .arrayPoisonFault s = cmdFails s l c y 2 cb acc.val c.pos 2)) ∧
    (∀ c (acc : Fin 4) cb fmt row0 count z, s.input = .num2 l 1 → x.rowQ.head? = some c →
      c.op = .wb cb acc.val fmt row0 count z → c.cancelled = false → c.pos < count → fmt ≤ 5 →
      x.wbReady c cb (128 * outBytes fmt) = true → x.rowPoisoned acc.val (row0 + c.pos) = true →
      let d := x.cb cb
      let part := c.started = true ∧ c.pos % (d.slot / (128 * outBytes fmt)) ≠ 0
      (¬part → exec .arrayPoisonFault s =
        cmdFails s l c (leaves x c.id acc .faulted x.accStat[acc].rows) 3 cb acc.val c.pos 2) ∧
      (part → d.count ≠ 0 → d.free ≠ 0 → exec .arrayPoisonFault s =
        cmdFails s l c (leaves (x.setCb cb (slotFilled d)) c.id acc .faulted x.accStat[acc].rows) 3 cb acc.val c.pos 2))

namespace Sys2Proof.Machine

/-! ### Streams, prefixes and sampling -/

/-- The thread is bound to a live stream (R268). -/
def BoundTo (s : State) (th : Thread) (id : Nat) (st : Stream) : Prop := th.stream.toNat = id ∧ s.stream? id = some st
/-- A stream after a step in its order: ORDER advanced (R268). -/
def stepOf (st : Stream) : Stream := { st with order := (st.order + 1) % 2 ^ 32 }
/-- The slot of the truncation point is copied into the recurrent-state area, of one piece in device memory, and no
other byte changes: s1 is the device after the truncation and the appends (R273, R274). -/
def Restored (s1 s' : State) (u id : Nat) (st : Stream) : Prop :=
  let slot := st.slots + st.p % 64 * st.rsize
  (st.rsize = 0 → s'.mem = s1.mem) ∧
  ∀ x page, s1.areaSegs u id st = [⟨st.rsaddr, st.rsize, none, x, page⟩] → s1.memOk → st.rsize ≤ 65536 →
    (x + st.rsize ≤ slot ∨ slot + st.rsize ≤ x) →
    ∀ a, byteAt s' a = if x ≤ a ∧ a < x + st.rsize then byteAt s1 (slot + (a - x)) else byteAt s1 a
/-- The last page leaves a stream's list (R61, R267, R314): its mapping goes, and, unless the prefix table owns it, it
is wiped into the pool; no other byte changes but that of the leaf in the tables. -/
def Trims (s : State) (st : Stream) (r : Stream × State) : Prop :=
  ∀ pre k, st.pages = pre ++ [k] →
    r.1 = { st with pages := pre, pool := if k.shared then st.pool else st.pool ++ [k.pa] } ∧
    (s.memOk → r.2.memOk ∧
      (k.shared = false → ∀ a, k.pa ≤ a → a < k.pa + 65536 → byteAt r.2 a = 0) ∧
      ∀ a, (k.shared = true ∨ a < k.pa ∨ k.pa + 65536 ≤ a) →
        (∀ f, s.walk st.aspace (st.kvbase + 65536 * pre.length) = some f → ¬(f.entry ≤ a ∧ a < f.entry + 8)) →
        byteAt r.2 a = byteAt s a)
/-- The stream result word of R268. -/
def resultWord (st : Stream) (status : Nat) : Word := BitVec.ofNat 64 (st.i * 2 ^ 32 + st.g * 2 ^ 8 + status)
/-- Token of a position. -/
def tokenAt (st : Stream) (q : Nat) : Nat := match st.pages[q / 16]? with | some k => k.tokens.getD (q % 16) 0 | none => 0
/-- The list has the pages that G needs, of 16 token words each, and P is at most G (R267). -/
def ListOk (st : Stream) : Prop :=
  st.pages.length = (st.g + 15) / 16 ∧ (∀ k ∈ st.pages, k.tokens.length = 16) ∧ st.p ≤ st.g
/-- The instructions that act on the bound stream, when their x sources are not void (R268). -/
def streamForms (rd rs1 rs2 : XReg) : List Instr :=
  [.smcommit rd rs1 rs2, .smplay rs1, .smframe rd rs1, .smtrunc rd, .smsnap rs1, .smstat rd rs1, .smkv rd rs1,
    .pfxins rd rs1 rs2]
/-- The chained block hash of R279: rotate by 13 and add the tokens, each shifted by three more. -/
def nextHash (h : Word) (ts : List Nat) : Word :=
  h.rotateLeft 13 ^^^ ((List.range 16).foldl (fun x k => x ^^^ (BitVec.ofNat 64 (ts.getD k 0) <<< (3 * k))) 0)
/-- A prefix result word (R280). -/
def foundWord (depth : Nat) (existed : Bool) (e : Nat) : Word :=
  BitVec.ofNat 64 (depth * 2 ^ 32 + (if existed then 128 else 0) + 64 + e)
/-- A prefix entry matches a hash, a parent and tokens, and is not damaged (R280, R396). -/
def Matches (s : State) (e : Nat) (h : Word) (parent : Nat) (ts : List Nat) : Prop :=
  ∃ x, tfind s.pfx e = some x ∧ x.damaged = false ∧ x.hash = h ∧ x.parent = parent ∧ x.tokens = ts

end Sys2Proof.Machine

/-- R268 to R271, R276, R277: binding, committing a token, playing, and reading a stream; each that passes its checks
is one step of the stream, and a trap changes no record. R272 to R275, R313: the checks of SMFRAME, SMTRUNC and
SMSNAP, in their order, and what an admitted frame leaves: the tokens up to the truncation point, the prefix chain's,
then the frame's; I and ORDER advance. An area with parts at a peer is read and written by remote operations of the
thread (R336, log 53). What a write of the CSR STREAM binds is the model's reading (log 27). A barge frame and SMTRUNC
trim the list page by page, copy the slot of P into the recurrent-state area, and leave the rest of memory but for the
trimmed pages and the tables; a frame that is no barge copies nothing (R273, R274). -/
def Obligations.StreamsFramesAndSnapshots : Prop :=
  (∀ (s : State) st n p, Trims s st (s.trimOne st) ∧ (st.pages = [] → s.trimOne st = (st, s)) ∧ s.trim st 0 = (st, s) ∧
    s.trim st (n + 1) = (s.trimOne st).2.trim (s.trimOne st).1 n ∧
    s.truncate st p = (let r := s.trim st (st.pages.length - (p + 15) / 16)
      ({ r.1 with g := p }, r.2))) ∧
  (∀ s t th rd rs1 rs2, Executing s t th →
    let a := th.rx rs1
    let b := th.rx rs2
    let stored (id : Nat) (st : Stream) (th' : Thread) : Out := goesOn { s with streams := tset s.streams (id / 65536) (stepOf st) } t th'
    ((a.void = true → exec (.smbind rs1) s = voids s t th 2) ∧
     (a.void = false →
      (a.val = 0 → exec (.smbind rs1) s = goesOn s t { th with stream := 0 }) ∧
      (∀ st, a.val.toNat < 2 ^ 32 → s.stream? a.val.toNat = some st → exec (.smbind rs1) s =
        stored a.val.toNat { st with owner := th.sid0 } { th with stream := a.val.setWidth 32 }) ∧
      (a.val ≠ 0 → 2 ^ 32 ≤ a.val.toNat ∨ s.stream? a.val.toNat = none →
        exec (.smbind rs1) s = .next (s.trap t th 2 a.val))) ∧
     (a.void = false → rs1 ≠ 0 →
      let old : VWord 64 := .of (th.stream.setWidth 64)
      let n := a.val.toNat % 2 ^ 32
      (n = 0 → exec (.csrrw rd rs1 0x80A) s = goesOn s t ({ th with stream := 0 }.wx rd old)) ∧
      (∀ st, s.stream? n = some st → exec (.csrrw rd rs1 0x80A) s =
        stored n { st with owner := th.sid0 } ({ th with stream := a.val.setWidth 32 }.wx rd old)) ∧
      (n ≠ 0 → s.stream? n = none → exec (.csrrw rd rs1 0x80A) s = .next (s.trap t th 2 (BitVec.ofNat 64 n))))) ∧
    (a.void = true ∨ b.void = true → exec (.smcommit rd rs1 rs2) s = voidsX s t th rd 3) ∧
    (a.void = true → exec (.smplay rs1) s = voids s t th 2 ∧ exec (.smsnap rs1) s = voids s t th 2 ∧
      ∀ i ∈ [Instr.smframe rd rs1, .smstat rd rs1, .smkv rd rs1], exec i s = voidsX s t th rd 3) ∧
    (a.void = false → b.void = false → s.stream? th.stream.toNat = none → ∀ i ∈ streamForms rd rs1 rs2,
      exec i s = .next (s.trap t th 2 (th.stream.setWidth 64))) ∧
    (∀ id st, BoundTo s th id st → a.void = false →
      (b.void = false →
        let k := a.val.toNat
        (2 ^ 17 ≤ k → exec (.smcommit rd rs1 rs2) s = .next (s.trap t th 2 a.val)) ∧
        (k < 2 ^ 17 → 2 ^ 32 ≤ b.val.toNat → exec (.smcommit rd rs1 rs2) s = .next (s.trap t th 2 b.val)) ∧
        (k < 2 ^ 17 → b.val.toNat < 2 ^ 32 → st.damaged = true →
          exec (.smcommit rd rs1 rs2) s = .next (s.trap t th 30 (BitVec.ofNat 64 id))) ∧
        (k < 2 ^ 17 → b.val.toNat < 2 ^ 32 → st.damaged = false →
          (b.val.toNat ≠ st.i → exec (.smcommit rd rs1 rs2) s = stored id st (th.wx rd (.of (resultWord st 1)))) ∧
          (b.val.toNat = st.i → 64 ≤ st.g - st.p →
            exec (.smcommit rd rs1 rs2) s = .next (s.trap t th 52 (BitVec.ofNat 64 st.g))) ∧
          (b.val.toNat = st.i → st.g - st.p < 64 → st.g = 2 ^ 20 ∨ (st.g % 16 = 0 ∧ st.pool = []) →
            exec (.smcommit rd rs1 rs2) s = stored id st (th.wx rd (.of (resultWord st 2)))) ∧
          (b.val.toNat = st.i → st.g - st.p < 64 → st.g ≠ 2 ^ 20 → ListOk st →
            (st.g % 16 ≠ 0 ∨ st.pool ≠ []) →
            ∃ (s' : State) (st' : Stream), exec (.smcommit rd rs1 rs2) s = .next s' ∧ s'.stream? id = some st' ∧
              st' = { stepOf st with g := st.g + 1, pages := st'.pages, pool := st'.pool } ∧
              (∀ q, q < st.g → tokenAt st' q = tokenAt st q) ∧ tokenAt st' st.g = k ∧ ListOk st' ∧
              (st.g % 16 ≠ 0 → st'.pool = st.pool) ∧ (st.g % 16 = 0 → st.pool.head?.toList ++ st'.pool = st.pool) ∧
              s'.thread? t = some { th.wx rd (.of (resultWord st' 0)) with
                pc := th.pc + 4, stalled := false, peer := [], skipCheck := false }))) ∧
      (let p := st.p + a.val.toNat % 65536
       (st.g < p → exec (.smplay rs1) s = .next (s.trap t th 2 a.val)) ∧
       (p ≤ st.g → exec (.smplay rs1) s = stored id { st with p := p, ptime := max st.ptime (a.val.toNat / 65536) } th)) ∧
      (let words : List Nat := [st.g * 2 ^ 32 + st.p, st.i * 2 ^ 32 + (st.order + 1) % 2 ^ 32,
         (if st.damaged then 2 ^ 39 else 0) + st.pages.length * 2 ^ 22 +
           (if st.g = 0 then 0 else st.g - 16 * (st.pages.length - 1)) * 2 ^ 17 + st.pool.length,
         st.ptime, st.tol, st.kvbase, st.rsaddr, st.rsize]
       (7 < a.val.toNat → exec (.smstat rd rs1) s = .next (s.trap t th 2 a.val)) ∧
       (a.val.toNat ≤ 7 → exec (.smstat rd rs1) s = stored id st (th.wx rd (.of (BitVec.ofNat 64 (words.getD a.val.toNat 0)))))) ∧
      (let p := a.val.toNat % 2 ^ 63
       exec (.smkv rd rs1) s = stored id st (th.wx rd (.of (
         if a.val.toNat < 2 ^ 63 then
           (if p < 16 * st.pages.length then BitVec.ofNat 64 (st.kvbase + 0x10000 * (p / 16) + 0x1000 * (p % 16)) else 0)
         else if p < st.g then BitVec.ofNat 64 (tokenAt st p) else 0xFFFFFFFFFFFFFFFF)))))) ∧
  (∀ s t th rd rs1 id st, Executing s t th → BoundTo s th id st →
    let a := th.rx rs1
    let admitted (i : Instr) (b : Nat) (mid : List Nat) (toks : List Nat) (mem : State → Prop) : Prop :=
      ∃ (s' : State) (st' : Stream), exec i s = .next s' ∧ s'.stream? id = some st' ∧ mem s' ∧
        st' = { stepOf st with g := b + mid.length + toks.length, i := (st.i + 1) % 2 ^ 32, pages := st'.pages, pool := st'.pool } ∧
        (∀ q, q < b → tokenAt st' q = tokenAt st q) ∧ (∀ q, q < mid.length → tokenAt st' (b + q) = mid.getD q 0) ∧
        (∀ q, q < toks.length → tokenAt st' (b + mid.length + q) = toks.getD q 0) ∧
        st'.pages.length = (st'.g + 15) / 16 ∧
        ∃ th' : Thread, s'.thread? t = some { th.wx rd (.of (resultWord st' 0)) with
            pc := th.pc + 4, stalled := false, peer := [], skipCheck := false, k := th'.k } ∧
          (s'.remotes = s.remotes → th'.k = th.k)
    (a.void = false →
      (a.val.toNat % 8 ≠ 0 → exec (.smframe rd rs1) s = .next (s.trap t th 4 a.val)) ∧
      (∀ (c : Nat) (v : Word), a.val.toNat % 8 = 0 → s.readVal th a.val 8 .base = .error (.trap c v) →
        exec (.smframe rd rs1) s = .next (s.trap t th c v)) ∧
      (∀ h, a.val.toNat % 8 = 0 → s.readVal th a.val 8 .base = .ok h → h < 2 ^ 64 →
        let vas := (List.range (h % 256)).map (fun i => a.val + BitVec.ofNat 64 (8 + 4 * i))
        let pfx := h / 2 ^ 8 % 2 ^ 7
        let barge := h / 2 ^ 15 % 2 = 1
        let capture := h / 2 ^ 16
        let b := if barge then st.p else st.g
        let s1 := s.touched th false (a.val :: vas)
        (∀ (c : Nat) (v : Word), s.readVals th .base (vas.map (fun v => (v, 4))) = .error (.trap c v) →
          exec (.smframe rd rs1) s = .next (s.trap t th c v)) ∧
        (∀ toks, s.readVals th .base (vas.map (fun v => (v, 4))) = .ok toks →
          let illegal := (64 ≤ pfx ∧ pfx ≤ 126) ∨ ∃ k ∈ toks, 2 ^ 17 ≤ k
          let checked := ¬illegal ∧ (barge → s1.areaFails st true = none) ∧ st.damaged = false
          let late := capture + st.tol < st.ptime
          let deep := barge ∧ tfind st.spos (st.p % 64) ≠ some st.p
          (illegal → exec (.smframe rd rs1) s = .next (s1.trap t th 2 a.val)) ∧
          (∀ x, ¬illegal → barge → s1.areaFails st true = some x →
            exec (.smframe rd rs1) s = .next (s1.trap t th 15 (BitVec.ofNat 64 x))) ∧
          (¬illegal → (barge → s1.areaFails st true = none) → st.damaged = true →
            exec (.smframe rd rs1) s = .next (s1.trap t th 30 (BitVec.ofNat 64 id))) ∧
          (checked → late → exec (.smframe rd rs1) s = .next (s1.trap t th 51 (BitVec.ofNat 64 capture))) ∧
          (checked → ¬late → deep → exec (.smframe rd rs1) s = .next (s1.trap t th 53 (BitVec.ofNat 64 st.p))) ∧
          (checked → ¬late → ¬deep → pfx < 64 →
            (∀ e, tfind s.pfx pfx = some e → e.pins = 0) ∨ b % 16 ≠ 0 →
            exec (.smframe rd rs1) s = .next (s1.trap t th 2 a.val)) ∧
          (checked → ¬late → ¬deep →
            (pfx = 127 ∨ (b % 16 = 0 ∧ ∃ e, tfind s.pfx pfx = some e ∧ e.pins ≠ 0)) →
            let chain := if pfx = 127 then [] else s.chain pfx
            let m := chain.length
            let mid := chain.flatMap (fun f => match tfind s.pfx f with | some e => e.tokens | none => [])
            let freed := if barge then ((st.pages.drop ((b + 15) / 16)).filter (fun k => !k.shared)).length else 0
            let need := (b + 16 * m + toks.length + 15) / 16 - (b + 15) / 16 - m
            (st.pool.length + freed < need ∨ 2 ^ 20 < b + 16 * m + toks.length →
              exec (.smframe rd rs1) s = goesOn { s1 with streams := tset s1.streams (id / 65536) (stepOf st) } t
                (th.wx rd (.of (resultWord st 2)))) ∧
            (need ≤ st.pool.length + freed → b + 16 * m + toks.length ≤ 2 ^ 20 → ListOk st →
              (∀ f ∈ chain, ∀ e, tfind s.pfx f = some e → e.tokens.length = 16) →
              admitted (.smframe rd rs1) b mid toks (fun s' =>
                (∀ st2 s2, s1.enrol id st a.val (decide barge) pfx capture toks = .ok (0, st2, s2) →
                  if barge then Restored s2 s' th.tile id st else s'.mem = s2.mem) ∧
                (barge → m = 0 → (b + toks.length + 15) / 16 = (b + 15) / 16 →
                  Restored (s1.truncate st st.p).2 s' th.tile id st) ∧
                (¬barge → m = 0 → (b + toks.length + 15) / 16 = (b + 15) / 16 → s'.mem = s1.mem))))))) ∧
    (let deep := tfind st.spos (st.p % 64) ≠ some st.p
     (∀ x, s.areaFails st true = some x → exec (.smtrunc rd) s = .next (s.trap t th 15 (BitVec.ofNat 64 x))) ∧
     (s.areaFails st true = none → st.damaged = true → exec (.smtrunc rd) s = .next (s.trap t th 30 (BitVec.ofNat 64 id))) ∧
     (s.areaFails st true = none → st.damaged = false → deep →
       exec (.smtrunc rd) s = .next (s.trap t th 53 (BitVec.ofNat 64 st.p))) ∧
     (s.areaFails st true = none → st.damaged = false → ¬deep → st.p ≤ 2 ^ 20 → ListOk st →
       admitted (.smtrunc rd) st.p [] [] (fun s' => Restored (s.truncate st st.p).2 s' th.tile id st))) ∧
    (a.void = false →
      let p := a.val.toNat
      (st.g < p → exec (.smsnap rs1) s = .next (s.trap t th 2 a.val)) ∧
      (∀ x, p ≤ st.g → s.areaFails st false = some x →
        exec (.smsnap rs1) s = .next (s.trap t th 13 (BitVec.ofNat 64 x))) ∧
      (∀ e, p ≤ st.g → s.areaFails st false = none →
        State.areaStop th (State.areaPeers st (s.areaSegs th.tile id st)) = some e →
        exec (.smsnap rs1) s = .next (s.stop t th e)) ∧
      (p ≤ st.g → s.areaFails st false = none →
        State.areaStop th (State.areaPeers st (s.areaSegs th.tile id st)) = none →
        ∃ s' : State, exec (.smsnap rs1) s = .next s' ∧ s'.stream? id = some (stepOf { st with spos := tset st.spos (p % 64) p }) ∧
          s'.thread? t = some { th with pc := th.pc + 4, stalled := false, peer := [], skipCheck := false } ∧
          (∀ x, (x < st.slots + p % 64 * st.rsize ∨ st.slots + p % 64 * st.rsize + st.rsize ≤ x) → s.memOk → byteAt s' x = byteAt s x) ∧
          (∀ la page, s.areaSegs th.tile id st = [⟨st.rsaddr, st.rsize, none, la, page⟩] → s.memOk → st.rsize ≤ 65536 →
            (la + st.rsize ≤ st.slots + p % 64 * st.rsize ∨ st.slots + p % 64 * st.rsize + st.rsize ≤ la) →
            ∀ k, k < st.rsize → byteAt s' (st.slots + p % 64 * st.rsize + k) = byteAt s (la + k)))))

namespace Sys2Proof.Machine

/-- mix of R284. -/
def mixOf (z : Word) : Word :=
  let z1 := (z ^^^ (z >>> 30)) * 0xBF58476D1CE4E5B9
  let z2 := (z1 ^^^ (z1 >>> 27)) * 0x94D049BB133111EB
  z2 ^^^ (z2 >>> 31)
/-- May entry `b` of a merged list not stand before `a`: greater values first, then smaller indices (R286). -/
def keepsOrder (a b : W32 × W32) : Prop := lt0 b.1 a.1 = true ∨ (lt0 a.1 b.1 = false ∧ a.2.toNat ≤ b.2.toNat)
/-- Candidates of a list of 64 words: entries with an index and a value (R286). -/
def candidates (ws : List Nat) : List (W32 × W32) :=
  ((List.range 32).map (fun e => (BitVec.ofNat 32 (ws.getD e 0), BitVec.ofNat 32 (ws.getD (32 + e) 0)))).filter
    (fun c => c.2 != 0xFFFFFFFF && !isNan32 c.1)
/-- Sizes and entries of a full tree with the given level widths (R287, R288). -/
def sizeBelow : List Nat → Nat
  | [] => 1
  | w :: ws => 1 + w * sizeBelow ws
/-- Preorder number of the node that a path of branches reaches. -/
def entryOf : List Nat → List Nat → Nat
  | w :: ws, b :: p => if b < w then 1 + b * sizeBelow ws + entryOf ws p else 0
  | _, _ => 0
/-- A path of branches within the widths. -/
def pathIn (ws p : List Nat) : Prop := p.length ≤ ws.length ∧ ∀ i, i < p.length → p.getD i 0 < ws.getD i 0
/-- The bytes of a width word up to the first zero (R287). -/
def widthsOf (w : Word) : List Nat := ((List.range 8).map (fun i => w.toNat / 256 ^ i % 256)).takeWhile (· ≠ 0)
/-- The lowest present child of a node whose token is the target's sample there (R289). -/
def takenChild (nodes target : Nat → W32) (c : Nat) : Option Nat :=
  (List.range 64).find? (fun n => decide (c < n ∧ (nodes n).getLsbD 31 = true ∧ (nodes n).toNat / 2 ^ 18 % 64 = c ∧
    (nodes n).toNat % 2 ^ 17 = (target c).toNat % 2 ^ 17))

end Sys2Proof.Machine

/-- R278 to R283: PHASH chains a block's hash; PFXLOOK finds the longest chain that the tokens begin with, ages it and
pins it; PFXINS finds or inserts a block of the bound stream; PFXPIN and PFXUNPIN count along a chain. R284, R286 to
R289: SDRAW draws from SEEDKEY, the position and the attempt; TOPKMRG merges sorted candidates into list 0; TREEGEN
writes the records of a full tree; DACCEPT follows the accepted path of a draft tree. A write to pages that the log
ring has no room for waits (R334). A parent that PFXINS evicts, the void corners of DACCEPT, PFXLOOK of no block and
the order of TOPKMRG's checks are the model's readings (logs 25, 28, 36, 37). R281, R396: which entry PFXINS evicts;
R314: the stream's pool gains a page of its die's KV pool, if there is one, for the page that the table now owns. -/
def Obligations.PrefixesDrawsAndTrees : Prop :=
  (∀ s t th rd rs1 rs2, Executing s t th →
    let a := th.rx rs1
    let b := th.rx rs2
    let use := s.pfxUse + 1
    let at_ (w : Word) (n : Nat) : List Word := (List.range n).map (fun i => w + BitVec.ofNat 64 (4 * i))
    let reads (i : Instr) (w : Word) (n : Nat) (k : List Nat → Prop) : Prop :=
      (n ≠ 0 → w.toNat % 4 ≠ 0 → exec i s = .next (s.trap t th 4 w)) ∧
      (n = 0 ∨ w.toNat % 4 = 0 →
        (∀ (c : Nat) (v : Word), s.readVals th .base ((at_ w n).map (fun x => (x, 4))) = .error (.trap c v) →
          exec i s = .next (s.trap t th c v)) ∧
        (∀ ts, s.readVals th .base ((at_ w n).map (fun x => (x, 4))) = .ok ts →
          ((∃ k ∈ ts, 2 ^ 17 ≤ k) → exec i s = .next (s.trap t th 2 w)) ∧
          ((∀ k ∈ ts, k < 2 ^ 17) → k ts)))
    (a.void = true ∨ b.void = true → ∀ i ∈ [Instr.phash rd rs1 rs2, .pfxlook rd rs1 rs2, .pfxins rd rs1 rs2],
      exec i s = voidsX s t th rd 3) ∧
    (a.void = true → exec (.pfxpin rs1) s = voids s t th 2 ∧ exec (.pfxunpin rs1) s = voids s t th 2) ∧
    (a.void = false → b.void = false →
      reads (.phash rd rs1 rs2) b.val 16 (fun ts => exec (.phash rd rs1 rs2) s =
        goesOn (s.touched th false (at_ b.val 16)) t (th.wx rd (.of (nextHash a.val ts))))) ∧
    (a.void = false → b.void = false →
      let n := b.val.toNat % 128
      let pin := b.val.getLsbD 8
      let bad := b.val.toNat / 2 ^ 9 ≠ 0 ∨ b.val.getLsbD 7 = true ∨ 64 < n
      let i := Instr.pfxlook rd rs1 rs2
      (bad → exec i s = .next (s.trap t th 2 b.val)) ∧
      (¬bad → reads i a.val (16 * n) (fun ts =>
        let s1 := s.touched th false (at_ a.val (16 * n))
        let block (j : Nat) : List Nat := (ts.drop (16 * j)).take 16
        let hash (j : Nat) : Word := (List.range (j + 1)).foldl (fun h k => nextHash h (block k)) 0
        ∀ es : List Nat, es.length ≤ n →
          (∀ j, j < es.length → s.matchEntry (hash j) (if j = 0 then 64 else es.getD (j - 1) 0) (block j) = some (es.getD j 0)) →
          (es.length = n ∨ s.matchEntry (hash es.length) (es.getLastD 64) (block es.length) = none) →
          (es = [] → exec i s = goesOn s1 t (th.wx rd (.of 0))) ∧
          (es ≠ [] →
            (pin = true → (∃ f ∈ es, s.pinsOf f = 65535) → exec i s = .next (s1.trap t th 2 (BitVec.ofNat 64 (es.getLastD 0)))) ∧
            (pin = false ∨ (∀ f ∈ es, s.pinsOf f ≠ 65535) →
              exec i s = goesOn { s1 with pfxUse := use, pfx := s.pfx.map (fun p => if p.1 ∈ es then (p.1, { p.2 with
                  age := use.toNat, pins := if pin then p.2.pins + 1 else p.2.pins }) else p) } t
                (th.wx rd (.of (foundWord es.length false (es.getLastD 0))))))))) ∧
    (let fits (h : Word) (p : Nat) (ts : List Nat) (x : Prefix) : Prop :=
       x.damaged = false ∧ x.hash = h ∧ x.parent = p ∧ x.tokens = ts
     ∀ h p ts, (∀ e, s.matchEntry h p ts = some e → ∃ x, (e, x) ∈ s.pfx ∧ fits h p ts x) ∧
       (s.matchEntry h p ts = none → ∀ q ∈ s.pfx, ¬fits h p ts q.2)) ∧
    (let free (q : Nat × Prefix) : Prop := q ∈ s.pfx ∧ q.2.pins = 0 ∧ ∀ c ∈ s.pfx, c.2.parent ≠ q.1
     (s.evictable = none ↔ ∀ q, ¬free q) ∧
     ((s.pfx.map (·.1)).Pairwise (· < ·) → ∀ e, s.evictable = some e → ∃ x, free (e, x) ∧ ∀ q, free q →
       (x.damaged = true ∧ q.2.damaged = false) ∨
       (x.damaged = q.2.damaged ∧ (x.age < q.2.age ∨ (x.age = q.2.age ∧ e ≤ q.1))))) ∧
    (∀ id st, BoundTo s th id st → a.void = false → b.void = false →
      let i := Instr.pfxins rd rs1 rs2
      let parent := a.val.toNat
      let n := b.val.toNat
      let par := if parent = 64 then none else tfind s.pfx parent
      let goodParent := parent = 64 ∨ (parent < 64 ∧ ∃ x, tfind s.pfx parent = some x ∧ x.depth ≠ 64)
      (¬goodParent → exec i s = .next (s.trap t th 2 a.val)) ∧
      (goodParent → st.g < 16 * n + 16 ∨ (∀ k, st.pages[n]? = some k → k.shared = true) →
        exec i s = .next (s.trap t th 2 b.val)) ∧
      (∀ k, goodParent → 16 * n + 16 ≤ st.g → st.pages[n]? = some k → k.shared = false →
        let h := nextHash (match par with | some x => x.hash | none => 0) k.tokens
        let depth := match par with | some x => x.depth + 1 | none => 1
        k.tokens.length = 16 →
        (∀ e x, s.matchEntry h parent k.tokens = some e → tfind s.pfx e = some x →
          exec i s = goesOn { s with pfxUse := use, pfx := s.pfx.map (fun p =>
            if p.1 = e then (p.1, { p.2 with age := use.toNat }) else p) } t
            (th.wx rd (.of (foundWord x.depth true e)))) ∧
        (s.matchEntry h parent k.tokens = none →
          let full := ∀ e, e < 64 → (tfind s.pfx e).isSome = true
          let d := id / 2 ^ 30
          let kv (e : Nat) : List Nat := (s.die d).kvPool ++ (match tfind s.pfx e with
            | some x => if x.page / dieRange = d then [x.page] else []
            | none => [])
          let inserted (e : Nat) : Prop := ∃ s' : State, exec i s = .next s' ∧
            tfind s'.pfx e = some ⟨h, parent, depth, k.tokens, k.pa, 0, use.toNat, false⟩ ∧
            (∀ f, f ≠ e → tfind s'.pfx f = tfind s.pfx f) ∧ s'.pfxUse = use ∧
            s'.stream? id = some { st with
              pages := st.pages.set n { k with shared := true }, pool := st.pool ++ (kv e).head?.toList } ∧
            (s'.die d).kvPool = (kv e).tail ∧
            s'.thread? t = some { th.wx rd (.of (foundWord depth false e)) with
              pc := th.pc + 4, stalled := false, peer := [], skipCheck := false }
          (∀ e, e < 64 → tfind s.pfx e = none → (∀ f, f < e → (tfind s.pfx f).isSome = true) → inserted e) ∧
          (full → s.evictable = none → exec i s = goesOn { s with pfxUse := use } t (th.wx rd (.of 0))) ∧
          (∀ e, full → s.evictable = some e → inserted e)))) ∧
    (a.void = false →
      let e := a.val.toNat
      let es := s.chain e
      let counted (d : Nat → Nat) : Out := goesOn { s with pfx := s.pfx.map (fun p =>
        if p.1 ∈ es then (p.1, { p.2 with pins := d p.2.pins }) else p) } t th
      (63 < e ∨ tfind s.pfx e = none → exec (.pfxpin rs1) s = .next (s.trap t th 2 a.val) ∧
        exec (.pfxunpin rs1) s = .next (s.trap t th 2 a.val)) ∧
      (e ≤ 63 → (tfind s.pfx e).isSome = true →
        exec (.pfxpin rs1) s = (if (∃ f ∈ es, s.pinsOf f = 65535) then .next (s.trap t th 2 a.val) else counted (· + 1)) ∧
        exec (.pfxunpin rs1) s = (if (∃ f ∈ es, s.pinsOf f = 0) then .next (s.trap t th 2 a.val) else counted (· - 1))))) ∧
  (∀ s t th rd rs1 rs2, Executing s t th →
    let a := th.rx rs1
    let b := th.rx rs2
    (∀ fd, (a.void = true ∨ b.void = true → exec (.sdraw fd rs1 rs2) s = voidsF s t th fd 3) ∧
      (a.void = false → b.void = false →
        (2 ^ 32 ≤ b.val.toNat → exec (.sdraw fd rs1 rs2) s = .next (s.trap t th 2 b.val)) ∧
        (b.val.toNat < 2 ^ 32 →
          let z := mixOf (mixOf (th.seedkey ^^^ (a.val * 0x9E3779B97F4A7C15)) ^^^ (b.val * 0xD6E8FEB86659FD93))
          exec (.sdraw fd rs1 rs2) s = goesOn s t (th.wf fd (.of (rne32 (.fin false (z.toNat / 2 ^ 40) (-24)))))))) ∧
    (a.void = true ∨ b.void = true → exec (.topkmrg rd rs1 rs2) s = voidsX s t th rd 3 ∧
      exec (.treegen rd rs1 rs2) s = voidsX s t th rd 3) ∧
    (a.void = false → b.void = false →
      let i := Instr.topkmrg rd rs1 rs2
      let n := b.val.toNat / 2 ^ 32
      let k := b.val.toNat % 64
      let bad := b.val.toNat / 2 ^ 40 ≠ 0 ∨ b.val.toNat / 2 ^ 6 % 2 ^ 26 ≠ 0 ∨ n = 0 ∨ 64 < n ∨ k = 0 ∨ 32 < k
      let vas (m : Nat) : List Word := (List.range m).map (fun j => a.val + BitVec.ofNat 64 (4 * j))
      (a.val.toNat % 64 ≠ 0 → exec i s = .next (s.trap t th 4 a.val)) ∧
      (a.val.toNat % 64 = 0 → bad → exec i s = .next (s.trap t th 2 b.val)) ∧
      (a.val.toNat % 64 = 0 → ¬bad →
        (∀ (c : Nat) (v : Word), s.readVals th .base ((vas (64 * n)).map (fun x => (x, 4))) = .error (.trap c v) →
          exec i s = .next (s.trap t th c v)) ∧
        (∀ ws, s.readVals th .base ((vas (64 * n)).map (fun x => (x, 4))) = .ok ws →
          ∃ cs : List (W32 × W32),
            cs.Perm ((List.range n).flatMap (fun j => candidates ((ws.drop (64 * j)).take 64))) ∧
            cs.Pairwise keepsOrder ∧
            let top := cs.take k
            let word (e : Nat) : Word := (if e < 32 then ((top[e]?).map (·.1)).getD 0xFF800000
              else ((top[e - 32]?).map (·.2)).getD 0xFFFFFFFF).setWidth 64
            (∀ x : Nat → Nat, (∀ e, e < 64 → s.access th (a.val + BitVec.ofNat 64 (4 * e)) 4 .store .base (some (word e)) = .ok (.loc (x e))) →
              s.logFits th.tile th.aspace ((vas 64).map (·.toNat)) = false → exec i s = .next (s.logWait t th)) ∧
            (∀ x : Nat → Nat, (∀ e, e < 64 → s.access th (a.val + BitVec.ofNat 64 (4 * e)) 4 .store .base (some (word e)) = .ok (.loc (x e))) →
              s.logFits th.tile th.aspace ((vas 64).map (·.toNat)) = true →
              exec i s = goesOn (storedAt (s.touched th false (vas (64 * n))) th 4
                ((List.range 64).map (fun e => (x e, a.val + BitVec.ofNat 64 (4 * e), word e)))) t
                (th.wx rd (.of (BitVec.ofNat 64 top.length)))) ∧
            (∀ e c v, e < 64 → (∀ f, f < e → ∃ x : Nat, s.access th (a.val + BitVec.ofNat 64 (4 * f)) 4 .store .base (some (word f)) = .ok (.loc x)) →
              s.access th (a.val + BitVec.ofNat 64 (4 * e)) 4 .store .base (some (word e)) = .error (.trap c v) →
              exec i s = .next (s.trap t th c v))))) ∧
    (a.void = false → b.void = false →
      let i := Instr.treegen rd rs1 rs2
      let ws := widthsOf a.val
      let n := sizeBelow ws
      let bad := a.val.toNat / 256 ^ ws.length ≠ 0 ∨ 256 < n
      (bad → exec i s = .next (s.trap t th 2 a.val)) ∧
      (¬bad → ∃ recs : List Word, recs.length = n ∧
        (∀ p, pathIn ws p → recs[entryOf ws p]? = some (BitVec.ofNat 64 (entryOf ws p.dropLast * 2 ^ 48 +
          p.getLastD 0 * 2 ^ 40 + p.length * 2 ^ 32 + (entryOf ws p + sizeBelow (ws.drop p.length) - 1) * 2 ^ 16 + entryOf ws p))) ∧
        (let va (e : Nat) : Word := b.val + BitVec.ofNat 64 (8 * e)
         (∀ x : Nat → Nat, (∀ e, e < n → s.access th (va e) 8 .store .base (some (recs.getD e 0)) = .ok (.loc (x e))) →
          s.logFits th.tile th.aspace ((List.range n).map (fun e => (va e).toNat)) = false →
          exec i s = .next (s.logWait t th)) ∧
         (∀ x : Nat → Nat, (∀ e, e < n → s.access th (va e) 8 .store .base (some (recs.getD e 0)) = .ok (.loc (x e))) →
          s.logFits th.tile th.aspace ((List.range n).map (fun e => (va e).toNat)) = true →
          exec i s = goesOn (storedAt s th 8 ((List.range n).map (fun e => (x e, va e, recs.getD e 0)))) t
            (th.wx rd (.of (BitVec.ofNat 64 n)))) ∧
         (∀ e c v, e < n → (∀ f, f < e → ∃ x : Nat, s.access th (va f) 8 .store .base (some (recs.getD f 0)) = .ok (.loc x)) →
          s.access th (va e) 8 .store .base (some (recs.getD e 0)) = .error (.trap c v) → exec i s = .next (s.trap t th c v))))) ∧
    (∀ vd v1 v2,
      let i := Instr.daccept vd v1 v2
      let gone := ∃ j : Fin 64, (th.rv v1)[j].void = true ∨ (th.rv v2)[j].void = true
      let nodes (j : Nat) : W32 := (lane (th.rv v1) j).val
      let target (j : Nat) : W32 := (lane (th.rv v2) j).val
      (th.cls = .stage → exec i s = .next (s.trap t th 2 ((encode i).setWidth 64))) ∧
      (th.cls = .compute → gone → exec i s =
        goesOn s t { th.wv vd (Vector.replicate 64 ⟨0, true⟩) with voidseen := th.voidseen ||| 3 }) ∧
      (th.cls = .compute → ¬gone → ∀ ns : List Nat,
        (∀ j, j < ns.length → takenChild nodes target (if j = 0 then 0 else ns.getD (j - 1) 0) = some (ns.getD j 0)) →
        takenChild nodes target (ns.getLastD 0) = none →
        exec i s = goesOn s t (th.wv vd (Vector.ofFn (fun j : Fin 64 =>
          if j.val < ns.length then VWord.of (BitVec.ofNat 32 (ns.getD j.val 0 * 2 ^ 24 + ns.length * 2 ^ 18 +
            (nodes (ns.getD j.val 0)).toNat % 2 ^ 17))
          else if j.val = ns.length then VWord.of (BitVec.ofNat 32 (ns.getLastD 0 * 2 ^ 24 + ns.length * 2 ^ 18 +
            (target (ns.getLastD 0)).toNat % 2 ^ 17))
          else ⟨0, true⟩))))))

namespace Sys2Proof.Machine

/-! ### Steps of threads, scopes and schedulers -/

/-- The thread that a step is about. -/
def About (s : State) (t : Nat) (th : Thread) : Prop := s.input = .num t ∧ s.thread? t = some th
/-- The thread stands in its cluster's ready queue, ready since a tick, to go on where it stopped (R301). -/
def queuesSince (s : State) (t : Nat) (th : Thread) (since : Nat) : State :=
  let cl := th.tile / 16
  let c := s.cluster cl
  { s with
    threads := tset s.threads t { th with loc := .queued }
    clusters := tset s.clusters cl { c with ready := c.ready ++ [⟨false, t, th.prio, since, 0, some th.tile, th.cls⟩] } }
/-- The same, ready since now. -/
def queuesThread (s : State) (t : Nat) (th : Thread) : State := queuesSince s t th s.time
/-- A context save: it waits for the thread's engine and remote operations, and then the thread is queued (R84,
R301).  The thread waits in nothing and holds no range registers. -/
def savesOrQueues (s : State) (t : Nat) (th : Thread) : Out :=
  if s.engineBusy th.tile (th.tid t) || s.remoteBusy (th.tid t) then
    .next (s.setTh t { th with saving := true, stalled := false })
  else .next (queuesThread s t { th with saving := false, savingFor := none, stalled := false, peer := [] })
/-- At the end of an instruction a debugger's STEP or HALT of the thread takes effect (R424, R427). -/
def thenEnds (o : Out) (t : Nat) (old : Thread) : Out := andThen o (fun s => s.ended t old)
/-- Effective priority: min(7, priority + waited / 50,000) (R296). -/
def risen (s : State) (i : Item) : Nat := min 7 (i.prio + (s.time - i.readyAt) / 50000)
/-- The four keys of R296, in their order. -/
def RanksBefore (s : State) (a b : Item) : Prop :=
  risen s b < risen s a ∨ (risen s a = risen s b ∧ (a.readyAt < b.readyAt ∨ (a.readyAt = b.readyAt ∧
    ((a.isTask = false ∧ b.isTask = true) ∨ (a.isTask = b.isTask ∧ a.record ≤ b.record)))))
/-- The tiles that an item may use (R180, R297). -/
def Usable (s : State) (cl : Nat) (i : Item) (l : Nat) : Prop :=
  s.inService l = true ∧ match i.place with | some p => l = p | none => l / 16 = cl
/-- A thread saved with a range of its tile, which a debugger does not hold (R188, R424). -/
def SavedRange (s : State) (i : Item) : Prop := i.isTask = false ∧ ∃ x, s.thread? i.record = some x ∧ x.saved.isSome = true
def HeldInQueue (s : State) (i : Item) : Prop :=
  i.isTask = false ∧ ∀ x, s.thread? i.record = some x → x.halted.isSome = true
/-- The range registers that it needs are bound to another, or another binds them first (R189). -/
def WaitsForRange (s : State) (i : Item) : Prop :=
  SavedRange s i ∧ ∃ l, i.place = some l ∧ ((s.tile l).ranges.bound ≠ none ∨ ∃ j, s.turnItem l = some j ∧ j ≠ i)
/-- An item fits a resident thread's context, once that is saved (R297, R300). -/
def FitsContext (s : State) (i : Item) (t : Nat) (th : Thread) : Prop :=
  i.cls = th.cls ∧ (i.isTask = true → s.freeThread ≠ none) ∧ ¬HeldInQueue s i ∧ (∀ l, i.place = some l → l = th.tile) ∧
    (SavedRange s i → (s.tile th.tile).ranges.bound = none ∨ (s.tile th.tile).ranges.bound = some (th.tid t))
/-- An item waits for the range registers that a thread holds (R189). -/
def WantsRangeOf (s : State) (i : Item) (t : Nat) (th : Thread) : Prop :=
  SavedRange s i ∧ i.place = some th.tile ∧ ¬HeldInQueue s i ∧ (s.tile th.tile).ranges.bound = some (th.tid t)
/-- A thread that an item pre-empts at its latency limit (R189, R300): it has reached an instruction boundary or waits,
and no context is saved for the item already; that one inside an instruction is none is log 38. -/
def ReachesLimit (s : State) (i : Item) (t : Nat) (th : Thread) : Prop :=
  (∃ x, th.loc = .resident x) ∧ th.saving = false ∧ th.ending = false ∧
    (th.wait = none → th.remoteOut = none ∧ th.peer = []) ∧ 0 < th.latlim ∧ th.latlim * 1000 ≤ s.time - i.readyAt ∧
    ((FitsContext s i t th ∧ th.prio < risen s i ∧ ¬WaitsForRange s i ∧
        ¬(∃ u x, (u, x) ∈ s.threads ∧ x.saving = true ∧ x.savingFor = some (i.isTask, i.record))) ∨
      WantsRangeOf s i t th)
/-- Does one thread go before another as the one pre-empted: the lowest PRIO, then the earliest dispatched (R300)? -/
def GoesFirst (a b : Nat × Thread) : Prop :=
  a.2.prio < b.2.prio ∨ (a.2.prio = b.2.prio ∧ a.2.dispatched < b.2.dispatched)
/-- A step comes to `s'`, or, while a link holds back the fault that ends the thread in it, to nothing. -/
def OrStays (s s' : State) (t : Nat) (th : Thread) (o : Out) : Prop :=
  (¬HeldBack s s' t th → o = .next s') ∧ (HeldBack s s' t th → o = .next s)

end Sys2Proof.Machine

/-- R166, R197, R301, R374, R391: a wait is evaluated again by an event or at its deadline; a parked thread whose wait
may end enters the ready queue; the watchdog and a matrix fault are delivered at an instruction boundary. R296, R297,
R300, R301: an expired slice saves and queues the thread where an item of its priority waits, and starts again where
none does; an item that reaches its latency limit takes a thread of lower priority; a dispatcher gives a free context
to the item whose turn it is to bind a tile's range registers (R189), else to the first item in order that fits,
unless one passed over eight times waits for its own. Where a step ends an instruction, a debugger's STEP or HALT of
the thread takes effect with it (R424, R427). The queue's order is the four keys of R296; an item's tile is one it may
use that has a free context, of several the one with most, then the lowest (R297); the thread taken at a limit has the
lowest PRIO, then the earliest dispatch, and, the model's choice (log 38), of equals the lower record; a queued thread
of MODE 2 or 3 takes a tile as a task does (log 38). How items of halted threads stand in a queue, when a watchdog is
delivered to a waiting thread, that an item at its turn goes before all others, and that a fault that ends the thread
waits for links (R13) are the model's readings (logs 38, 44, 54, 47). A thread parked in SCLOSE is ready since its
scope's join. -/
def Obligations.WaitsSlicesAndDispatch : Prop :=
  (∀ (s : State) t old, old.stepping = none → (∀ x, s.thread? t = some x → x.stepping = none ∧ x.halting = false) →
    s.ended t old = s) ∧
  (∀ s t th, About s t th →
    (∀ w, th.wait = some w → th.canEval = true →
      (w.kind = .mx →
        (let r : Word := if th.mxFailed then 2 else if th.mxCancelled then 1 else 0
         s.arrayIdle th.tile (th.tid t) = true → exec .waitReevaluate s =
          thenEnds (goesOn s t { th.wx w.rd (.of r) with mxFailed := false, mxCancelled := false, wait := none }) t th)) ∧
      (∀ sid k, w.kind = .join sid k → ∀ c, s.scope? sid = some c → c.state = .joined → s.joinHeard th sid = true →
        exec .waitReevaluate s = thenEnds (goesOn (s.report sid) t
          { (th.wk k ⟨.empty, 0, 0⟩).wx w.rd (.of (statusWord c .opener c.cancelled)) with wait := none }) t th) ∧
      ((∀ sid k, w.kind ≠ .join sid k) → w.kind ≠ .mx → (∀ l, w.kind ≠ .steal l) →
        ∀ i ∈ [Instr.waitReevaluate, .waitTimeout], (i = .waitTimeout → s.expired th w = true) →
        (s.diverts th = true → exec i s = thenEnds (divertsTo s t th) t th) ∧
        (s.diverts th = false → ((∃ f, w.kind = .recv f) → s.cancelled th = false) →
          (∀ s1 th1 v, s.waitCond (seen th) w.kind = .ok (some (s1, th1, v)) →
            exec i s = thenEnds (goesOn s1 t { th1.wx w.rd (.of v) with wait := none }) t th) ∧
          (∀ (c : Nat) (v : Word), s.waitCond (seen th) w.kind = .error (.trap c v) →
            OrStays s ((s.trap t { seen th with wait := some w } c v).ended t th) t th (exec i s)) ∧
          (s.waitCond (seen th) w.kind = .ok none →
            (s.expired th w = true → exec i s =
              thenEnds (goesOn s t { (seen th).wx w.rd ⟨0, true⟩ with wait := none }) t th) ∧
            (s.expired th w = false → exec i s = thenEnds (.next (s.setTh t
              { seen th with wait := some w, stalled := false, peer := [] })) t th))))) ∧
    (∀ w, s.expired th w = (th.waittmo != 0 && decide (th.waittmo.toNat ≤ s.time - w.start))) ∧
    ((th.wait = none ∨ th.canEval = false) → exec .waitReevaluate s = .next s ∧ exec .waitTimeout s = .next s) ∧
    (th.remoteOut = none → th.wait = none → th.ending = false → exec .issueStallEnd s =
      (if th.stalled then .next (s.setTh t { th with stalled := false }) else .next s)) ∧
    (∀ w, th.wait = some w → th.loc = .parked →
      (∀ f, w.kind = .recv f →
        ((∃ m ∈ th.inbox ++ th.overflow, m.words.length = 1 ∧ (f = 0 ∨ m.sender = f)) ∨ s.cancelled th = true ∨
          s.expired th w = true → exec .parkedWake s = .next (queuesThread s t th)) ∧
        ((∀ m ∈ th.inbox ++ th.overflow, ¬(m.words.length = 1 ∧ (f = 0 ∨ m.sender = f))) → s.cancelled th = false →
          s.expired th w = false → exec .parkedWake s = .next s)) ∧
      (∀ sid k c, w.kind = .join sid k → s.scope? sid = some c → exec .parkedWake s =
        (if c.state = .joined ∧ s.joinHeard th sid = true then .next (queuesSince s t th c.joinedAt) else .next s))) ∧
    ((th.watch < 2 ^ 30 → exec .watchdog s = .next s) ∧
     (∀ ctx, 2 ^ 30 ≤ th.watch → th.loc = .resident ctx → th.saving = false → th.ending = false → th.remoteOut = none →
       th.peer = [] → th.halted = none → th.wait = none →
       OrStays s ((s.trap t th 54 (BitVec.ofNat 64 (2 ^ 30))).ended t th) t th (exec .watchdog s))) ∧
    (∀ ctx v rest w, th.pendMx = v :: rest → th.wait = some w → th.loc = .resident ctx → th.halted = none → th.ending = false →
      th.remoteOut = none →
      ((∃ sid k, w.kind = .join sid k) ∨ w.kind = .mx → exec .matrixOperandDelivery s = .next s) ∧
      ((∀ sid k, w.kind ≠ .join sid k) → w.kind ≠ .mx → (∀ l, w.kind ≠ .steal l) →
        OrStays s ((s.trap t { th with pendMx := rest, wait := none } 56 v).ended t th) t th
          (exec .matrixOperandDelivery s)))) ∧
  ((∀ s t th, About s t th → th.wait = none → (s.tile th.tile).ranges.bound ≠ some (th.tid t) → th.pendMx = [] →
    (th.saving = true → th.ending = false → exec .sliceExpiry s = savesOrQueues s t th) ∧
    (∀ ctx, th.saving = false → th.loc = .resident ctx → th.ending = false → th.remoteOut = none → th.peer = [] →
      (th.slice = 0 ∨ s.time - th.sliceStart < th.slice * 1000 → exec .sliceExpiry s = .next s) ∧
      (th.slice ≠ 0 → th.slice * 1000 ≤ s.time - th.sliceStart →
        (s.sliceTaken t th = true → exec .sliceExpiry s = savesOrQueues s t th) ∧
        (s.sliceTaken t th = false → exec .sliceExpiry s = .next (s.setTh t { th with sliceStart := s.time }))))) ∧
  (∀ s cl, s.input = .num cl →
    (∀ t th, s.limitVictim cl = some (t, th) → th.wait = none → (s.tile th.tile).ranges.bound ≠ some (th.tid t) →
      th.pendMx = [] → exec .latlimExpiry s = savesOrQueues s t th) ∧
    (s.limitVictim cl = none → exec .latlimExpiry s = .next s) ∧
    (∀ before it after t th, s.ordered (s.cluster cl).ready = before ++ it :: after →
      (∀ i ∈ before, HeldInQueue s i ∨ (s.fitTile cl i).isSome = true ∨ s.victim cl i = none) →
      ¬HeldInQueue s it → s.fitTile cl it = none → s.victim cl it = some (t, th) →
      s.limitVictim cl = some (t, { th with savingFor := some (it.isTask, it.record) })) ∧
    ((∀ i ∈ (s.cluster cl).ready, HeldInQueue s i ∨ (s.fitTile cl i).isSome = true ∨ s.victim cl i = none) →
      s.limitVictim cl = none) ∧
    (let q := s.ordered ((s.cluster cl).ready.filter (fun i => !s.heldItem i))
     (∀ l it k before after, l / 16 = cl → s.turnItem l = some it → s.fitTile cl it = some k →
       (∀ m i, m / 16 = cl → m < l → s.turnItem m = some i → s.fitTile cl i = none) →
       q = before ++ it :: after → it ∉ before → exec .taskDispatch s = .next ((s.skipped cl before).dispatch cl it k)) ∧
     (∀ m i, m / 16 = cl → s.turnItem m = some i → s.fitTile cl i = none) →
     (∀ before it after l, q = before ++ it :: after → (∀ i ∈ q, i.skips < 8) → (∀ i ∈ before, s.fitTile cl i = none) →
       s.fitTile cl it = some l → exec .taskDispatch s = .next ((s.skipped cl before).dispatch cl it l)) ∧
     ((∀ i ∈ q, s.fitTile cl i = none) → exec .taskDispatch s = .next s) ∧
     (∀ before it after, q = before ++ it :: after → (∀ i ∈ before, i.skips < 8) → 8 ≤ it.skips → exec .taskDispatch s =
       .next (match s.fitTile cl it with | some l => (s.skipped cl before).dispatch cl it l | none => s)))) ∧
  (∀ (s : State) q, (s.ordered q).Perm q ∧ (s.ordered q).Pairwise (RanksBefore s)) ∧
  (∀ (s : State) cl i, (s.heldItem i = true ↔ HeldInQueue s i) ∧
    (s.fitTile cl i = none ↔ (WaitsForRange s i ∨ (i.isTask = true ∧ s.freeThread = none) ∨
      ∀ l, Usable s cl i l → s.freeCtx l i.cls = 0)) ∧
    (∀ l, s.fitTile cl i = some l → Usable s cl i l ∧ 0 < s.freeCtx l i.cls ∧
      ∀ m, Usable s cl i m → s.freeCtx m i.cls ≤ s.freeCtx l i.cls ∧ (s.freeCtx m i.cls = s.freeCtx l i.cls → l ≤ m)) ∧
    (s.victim cl i = none ↔ ∀ t th, (t, th) ∈ s.threads → th.tile / 16 = cl → ¬ReachesLimit s i t th) ∧
    (∀ t th, s.victim cl i = some (t, th) → th.tile / 16 = cl ∧ ReachesLimit s i t th ∧
      ∃ before after, s.threads = before ++ (t, th) :: after ∧
        (∀ p ∈ before, p.2.tile / 16 = cl → ReachesLimit s i p.1 p.2 → GoesFirst (t, th) p) ∧
        (∀ p ∈ after, p.2.tile / 16 = cl → ReachesLimit s i p.1 p.2 → ¬GoesFirst p (t, th)))) ∧
  (∀ (s : State) t th, s.sliceTaken t th = true ↔ ∃ i ∈ (s.cluster (th.tile / 16)).ready,
    (FitsContext s i t th ∧ th.prio ≤ risen s i) ∨ WantsRangeOf s i t th) ∧
  (∀ (s : State) cl it l x, s.lowCtx l it.cls = some x →
    let s' := s.dispatch cl it l
    (it.isTask = true → ∀ k r, tfind s.tasks it.record = some k → s.freeThread = some r →
      tfind s'.tasks it.record = some { k with state := .running } ∧
      ∃ th : Thread, s'.thread? r = some th ∧ th.pc = k.entry ∧ th.rx 10 = .of k.arg ∧ (∀ q : XReg, q ≠ 10 → th.rx q = .of 0) ∧
        th.loc = .resident x ∧ th.tile = l ∧ th.cls = k.cls ∧ th.sid0 = k.sid ∧ (th.rk 0).weight = k.weight ∧
        th.task = some (it.record * 4096 + k.reuse) ∧ th.utvec = k.utvec ∧ th.cland = k.cland ∧
        th.cancel = s.scopeCancelled k.sid ∧ th.prio = k.prio) ∧
    (it.isTask = false → ∀ th, s.thread? it.record = some th → th.saved = none → s'.thread? it.record = some
      { th.putMsgs (th.inbox ++ th.overflow) with tile := l, loc := .resident x, sliceStart := s.time, dispatched := s.time, saved := none }) ∧
    (∀ i ∈ (s'.cluster cl).ready, ¬(i.isTask = it.isTask ∧ i.record = it.record))))

/-- R28, R29, R32 to R34, R57, R412: weight that reaches home lowers O, and a CLOSING scope whose O falls to 0 joins
and returns its parent's weight; a root scope that joins frees its record, ends the reservations of its command, and
finishes the command, whose completion is to be posted, or drops one that a reset silenced (R293, R331, R407); the
tracker returns a pin once its window is free, and the weight of an ended thread once its work has landed, when its
task is DONE (R178); a cancellation from another device marks the scope's subtree; each waits at a stalled link (R13),
the cancellation by `State.fabricOpen` and `State.treeHeld`, as a map-out does (log 47); a walk's leaf goes into the
tile's buffer; a third restart of a translation service within one second maps the cluster out. Which entry a full
translation buffer drops is the model's choice (log 5). -/
def Obligations.ReturnsJoinsAndTranslations : Prop :=
  (∀ s n r, s.input = .num n → s.returns[n]? = some r → s.linkOpen r.die (r.sid / 0x40000000) = false →
    exec .weightReturn s = .next s) ∧
  (∀ s n r c, s.input = .num n → s.returns[n]? = some r → r.for_ = .member → s.scope? r.sid = some c →
    s.linkOpen r.die (r.sid / 0x40000000) = true →
    (¬(c.state = .closing ∧ c.o - r.weight = 0) → exec .weightReturn s =
      .next ({ s with returns := s.returns.eraseIdx n }.setScope r.sid { c with o := c.o - r.weight })) ∧
    (c.state = .closing → c.o - r.weight = 0 → c.parent ≠ 0 → ∃ s' : State, exec .weightReturn s = .next s' ∧
      (∃ c' : Scope, s'.scope? r.sid = some c' ∧ c'.state = .joined ∧ c'.o = 0 ∧ c'.joinedAt = s.time) ∧
      s'.returns = s.returns.eraseIdx n ++ [⟨c.parent, c.parentWeight, .child r.sid, r.sid / 0x40000000⟩] ∧
      s'.mem = s.mem ∧
      (∀ u x k rd w, s.thread? u = some x → x.wait = some ⟨.join r.sid k, rd, w⟩ → x.canEval = true →
        s.linkOpen (x.tile / 256) (r.sid / 0x40000000) = true →
        ∃ x' : Thread, s'.thread? u = some x' ∧ x'.pc = x.pc + 4 ∧ x'.wait = none ∧ (x'.rk k).kind = .empty) ∧
      (∀ u x, s.thread? u = some x → (∀ k rd w, x.wait ≠ some ⟨.join r.sid k, rd, w⟩) → s'.thread? u = some x)) ∧
    (c.state = .closing → c.o - r.weight = 0 → c.parent = 0 → ∃ s' : State, exec .weightReturn s = .next s' ∧
      s'.returns = s.returns.eraseIdx n ∧ s'.mem = s.mem ∧ s'.threads = s.threads ∧ s'.scope? r.sid = none ∧
      (∃ c' : Scope, tfind s'.scopes (r.sid / 16384) = some c' ∧ c'.state = .free ∧ c'.reuse = c.reuse) ∧
      (∀ l, s'.tile l = if (s.tile l).resv = some c.cmd then { s.tile l with resv := none } else s.tile l) ∧
      ∀ k, tfind s.cmds c.cmd = some k →
        (k.silent = false → s'.donePosts = s.donePosts ++ [c.cmd] ∧ tfind s'.cmds c.cmd = some { k with
          phase := .finished, value := (statusWord { c with state := .joined } .opener c.cancelled).toNat % 2 ^ 32 }) ∧
        (k.silent = true → s'.donePosts = s.donePosts ∧ tfind s'.cmds c.cmd = none))) ∧
  (∀ s n, s.input = .num n → s.returns[n]? = none → exec .weightReturn s = .next s) ∧
  (∀ s l id e, s.input = .num2 l id → (s.tile l).tracker.find? (fun k => k.tid == id) = some e →
    (s.engineBusy l id = true ∨ s.remoteBusy id = true → e.weight ≠ 0 → e.windows = [] →
      ∃ s' : State, exec .trackerReturn s = .next s' ∧ s' = { s with tiles := s'.tiles } ∧ e ∈ (s'.tile l).tracker) ∧
    (∀ w, s.memOk → s.engineBusy l id = true ∨ s.remoteBusy id = true → e.weight ≠ 0 → e.windows = [w] →
      (s.windowFree l id w = false →
        ∃ s' : State, exec .trackerReturn s = .next s' ∧ s' = { s with tiles := s'.tiles } ∧ e ∈ (s'.tile l).tracker) ∧
      (s.windowFree l id w = true → ∃ s' : State, exec .trackerReturn s = .next s' ∧
        { e with windows := [] } ∈ (s'.tile l).tracker ∧
        s'.returns = s.returns ++ (if w.weight = 0 then [] else [⟨e.sid, w.weight, .member, l / 256⟩]) ∧
        ∀ h i, namesDesc s w.ref = some (h, i) → let d := descIn s (h.table + 32 * i)
          0 < d.pins → descIn s' (h.table + 32 * i) = { d with pins := d.pins - 1 })) ∧
    (s.engineBusy l id = false → s.remoteBusy id = false → e.windows = [] → e.weight ≠ 0 →
      (∀ p ∈ s.threads, p.2.ending = false) → exec .trackerReturn s =
        .next { s.taskDone e.task with
          tiles := tset s.tiles l { s.tile l with tracker := (s.tile l).tracker.filter (fun k => k.tid != id) }
          returns := s.returns ++
            [⟨e.sid, e.weight, match e.task with | some k => .task k | none => .member, l / 256⟩] }) ∧
    (s.taskDone none = s ∧ ∀ k x, s.task? k = some x →
      s.taskDone (some k) = { s with tasks := tset s.tasks (k / 4096) { x with state := .done } })) ∧
  (∀ s sid c, s.input = .num sid → s.scope? sid = some c →
    let die := sid / 0x40000000
    (c.cancelled = true ∨ s.fabricOpen die = false ∨ s.treeHeld die sid = true → exec .cancelMessageArrive s = .next s) ∧
    (c.cancelled = false → s.fabricOpen die = true → s.treeHeld die sid = false → ∃ s' : State, exec .cancelMessageArrive s = .next s' ∧ s'.mem = s.mem ∧
      (∀ k x, tfind s.scopes k = some x → x.state ≠ .free → x.state ≠ .joined → tfind s'.scopes k =
        some { x with cancelled := x.cancelled || s.under sid 256 (State.scopeId k x.reuse) }) ∧
      (∀ u x, s.thread? u = some x → s'.thread? u = some { x with cancel := x.cancel || s.under sid 256 x.sid0 }))) ∧
  (∀ s l as va store, s.input = .walk l as va store → translated va.toNat = true →
    ((s.tlbMiss l as va.toNat = false ∨ s.walk as va.toNat = none ∨ s.walkHeld l as va.toNat = true) → exec .translationWalk s = .next s) ∧
    (∀ f, s.tlbMiss l as va.toNat = true → s.walk as va.toNat = some f →
      (f.bit (if store then 3 else 2) = true ∨ (store = false ∧ f.bit 4 = true)) →
      s.walkHeld l as va.toNat = false → (store = true → s.dirtyHeld l as va.toNat f = false) →
      (store = true → s.logBlocks as va.toNat f = false) → f.entry ≠ 0 → ∃ s' : State, exec .translationWalk s = .next s' ∧ s'.tlbMiss l as va.toNat = false ∧
        s'.threads = s.threads ∧ (store = false ∨ f.bit 5 = true → s'.mem = s.mem)) ∧
    (∀ f, s.walk as va.toNat = some f → f.bit (if store then 3 else 2) = false → (store = true ∨ f.bit 4 = false) →
      exec .translationWalk s = .next s)) ∧
  (∀ s cl, s.input = .num cl →
    let c := s.cluster cl
    let rs := (c.restarts ++ [s.time]).filter (fun x => decide (s.time - x < 1000000000))
    let held := ∃ l, l / 16 = cl ∧ s.mapHeld l = true
    (held → exec .tscRestart s = .next s) ∧
    (¬held → rs.length < 3 → exec .tscRestart s = .next (s.setCluster cl { c with restarts := rs })) ∧
    (¬held → 3 ≤ rs.length → cl < 64 → ∃ s' : State, exec .tscRestart s = .next s' ∧ ∀ l, l / 16 = cl → s'.inService l = false))

/-- R65, R206, R207, R37, R390: a copy writes its next piece, which ends at a 256-byte boundary of the destination
or with its row; a poisoned source byte fails it; a finished, stopped or failed copy sets its tag with its status
and the bytes written, frees its range lock, returns its weight, and advances its buffer only when complete. A piece
waits while a link to its source or its destination stalls (R13). -/
def Obligations.CopiesWritePiecesAndFinish : Prop :=
  ∀ s l id c, s.input = .num2 l id → s.copy? l id = some c →
    let sv := c.src + c.sstep * (c.done / c.rowBytes) + c.done % c.rowBytes
    let dv := c.dst + c.dstep * (c.done / c.rowBytes) + c.done % c.rowBytes
    let n := min (256 - dv % 256) (c.rowBytes - c.done % c.rowBytes)
    let x := s.tile l
    ((c.cancelled = true ∨ c.failed = true ∨ c.rows * c.rowBytes ≤ c.done) → exec .copyPieceWrite s = .next s) ∧
    (∀ a, c.cancelled = false → c.failed = false → c.done < c.rows * c.rowBytes → s.copyWaits l id true = false →
      segRuns c.srcSegs n sv n = [(none, a, n)] →
      (s.homeOpen (l / 256) a = false → exec .copyPieceWrite s = .next s) ∧
      (∀ b, c.multicast = false → segRuns c.dstSegs n dv n = [(none, b, n)] → s.homeOpen (l / 256) b = false →
        exec .copyPieceWrite s = .next s) ∧
      (s.homeOpen (l / 256) a = true → s.poisonIn a n ≠ none →
        (c.multicast = true ∨ ∃ b, segRuns c.dstSegs n dv n = [(none, b, n)] ∧ s.homeOpen (l / 256) b = true) →
        exec .copyPieceWrite s = .next (s.setCopy l { c with failed := true })) ∧
      (s.homeOpen (l / 256) a = true → s.poisonIn a n = none →
        let s1 := s.setCopy l { c with done := c.done + n, got := [] }
        (∀ b, c.multicast = false → segRuns c.dstSegs n dv n = [(none, b, n)] → s.homeOpen (l / 256) b = true →
          exec .copyPieceWrite s = .next (s1.putClean b (s.bytesAt a n))) ∧
        (c.multicast = true → s.memOk → dv + n ≤ 0x60000 → ∃ s' : State, exec .copyPieceWrite s = .next s' ∧ s'.tiles = s1.tiles ∧
          (∀ k j, k / 16 = l / 16 → s.inService k = true → j < n → byteAt s' (tlLoc k dv + j) = byteAt s (a + j)) ∧
          (∀ z, (∀ k, k / 16 = l / 16 → s.inService k = true → z < tlLoc k dv ∨ tlLoc k dv + n ≤ z) →
            byteAt s' z = byteAt s z)))) ∧
    (let finished (status : Nat) : Out :=
       let y : Tile := { (match c.cb with | some b => if status = 0 then x.setCb b (x.cb b).produce else x | none => x) with
         tags := if x.outOfService then x.tags else tset x.tags ((if c.cls = .stage then 0 else 64) + c.tag) (.set status c.done)
         locks := x.locks.filter (fun k => k.op != c.id)
         copies := x.copies.filter (fun k => k.id != c.id) }
       .next { s with tiles := tset s.tiles l y, returns := s.returns ++ (if c.weight = 0 then [] else [⟨c.sid, c.weight, .member, l / 256⟩]) }
     let waits := s.copyWaits l c.id false
     (waits = true → exec .copyFinish s = .next s) ∧
     (waits = false → c.failed = true → exec .copyFinish s = finished 2) ∧
     (waits = false → c.failed = false → c.cancelled = true → exec .copyFinish s = finished 1) ∧
     (waits = false → c.failed = false → c.cancelled = false → c.rows * c.rowBytes ≤ c.done → exec .copyFinish s = finished 0) ∧
     (waits = false → c.failed = false → c.cancelled = false → c.done < c.rows * c.rowBytes → exec .copyFinish s = .next s))

/-- R80, R307 to R311: the Weevil copies the slices of a pass in order; a clean pass, or the fifth, begins the flip
with the descriptor OBJECT at the new address; the fourth dirty pass freezes the object; the last acknowledgement
ends the relocation; an abandoned one leaves the object where it was, and the bytes of the slices it wrote at NEXT
hold free values (log 14). A slice waits for the links to both copies, and the flip's beginning, its last
acknowledgement and the end of an abandoned one for those to every die (R13, log 47). -/
def Obligations.RelocationsCopyFlipAndEnd : Prop :=
  (∀ s die r, s.input = .num die → s.relocHead die = some r → r.abandon = false →
    (∀ n k todo, r.phase = .pass n (k :: todo) →
      let off := 512 * k
      let len := min 512 (r.size - off)
      let r' : Reloc := { r with
        dirty := r.dirty.filter (· != k), copied := if k ∈ r.copied then r.copied else k :: r.copied, phase := .pass n todo }
      (s.sliceOpen die r k = false → exec .weevilSliceCopy s = .next s) ∧
      (s.sliceOpen die r k = true →
        ∃ s' : State, exec .weevilSliceCopy s = .next s' ∧ s' = { s.setReloc die r' with mem := s'.mem, poison := s'.poison } ∧
        (∀ a b pa pb, s.memOk → r.oldSegs = [⟨r.oldAddr, r.size, none, a, pa⟩] →
          r.newSegs = [⟨r.newAddr, r.size, none, b, pb⟩] →
          (a + r.size ≤ b ∨ b + r.size ≤ a) →
          (∀ j, j < len → byteAt s' (b + off + j) = byteAt s (a + off + j)) ∧
          (∀ z, (z < b + off ∨ b + off + len ≤ z) → byteAt s' z = byteAt s z)))) ∧
    (∀ n, r.phase = .pass n [] →
      let flips := r.dirty = [] ∨ 5 ≤ n
      let next := s.setReloc die { r with phase := .pass (n + 1) (sortNat r.dirty) }
      (flips → (∃ d < 4, s.linkOpen die d = false) → exec .weevilPassEnd s = .next s) ∧
      (flips → (∀ d < 4, s.linkOpen die d = true) → exec .weevilPassEnd s = .next (((s.setReloc die { r with phase := .flipping }).homeDesc r (fun d =>
        { d with state := 1, addr := r.newAddr, next := 0 })).invalidate r.heap r.index)) ∧
      (¬flips → n ≠ 4 → exec .weevilPassEnd s = .next next) ∧
      (¬flips → n = 4 → exec .weevilPassEnd s = .next (next.homeDesc r (fun d => { d with state := 3 }))))) ∧
  (∀ l : List Nat, (sortNat l).Perm l ∧ (sortNat l).Pairwise (· ≤ ·)) ∧
  (∀ s die r rest, s.input = .num die → (s.die die).weevil = r :: rest →
    (r.phase = .flipping → (∃ d < 4, s.linkOpen die d = false) → exec .flipWindowClose s = .next s) ∧
    (r.phase = .flipping → (∀ d < 4, s.linkOpen die d = true) → exec .flipWindowClose s = .next (s.setDie die { s.die die with
      weevil := (r :: rest).filter (fun k => !(k.heap == r.heap && k.index == r.index)) })) ∧
    (r.phase ≠ .flipping → exec .flipWindowClose s = .next s)) ∧
  (∀ s die heap i r, s.input = .num3 die heap i → s.relocOf die heap i = some r →
    let open_ := ∀ d < 4, s.linkOpen die d = true
    (r.abandon = false ∨ r.phase = .flipping ∨ ¬open_ → exec .relocAbandon s = .next s) ∧
    (r.abandon = true → r.phase ≠ .flipping → open_ → r.copied = [] → exec .relocAbandon s = .next
      (((s.dropReloc die r).homeDesc r (fun d => { d with state := 1, addr := r.oldAddr, next := 0 })).invalidate r.heap r.index)) ∧
    (r.abandon = true → r.phase ≠ .flipping → open_ → ∃ mid : State,
      exec .relocAbandon s = .next ((mid.homeDesc r (fun d => { d with
        state := 1, addr := r.oldAddr, next := 0 })).invalidate r.heap r.index) ∧
      mid = { s.dropReloc die r with mem := mid.mem, freeCount := mid.freeCount } ∧
      ∀ b page, s.memOk → r.newSegs = [⟨r.newAddr, r.size, none, b, page⟩] → mid.memOk ∧
        (∀ k ∈ r.copied, ∀ j, j < min 512 (r.size - 512 * k) →
          ∃ m, s.freeCount ≤ m ∧ m < mid.freeCount ∧ byteAt mid (b + 512 * k + j) = Config.freeByte m) ∧
        ∀ z, (∀ k ∈ r.copied, z < b + 512 * k ∨ b + 512 * k + min 512 (r.size - 512 * k) ≤ z) →
          byteAt mid z = byteAt s z))

/-- R31, R58, R336, R338, R415: an acknowledged remote operation returns its weight and hands its bytes to the thread
that waits, whose instruction then goes on with them; poison, a refusal, or 10 ms without an answer is handed to it as
such, or faults the scope with cause 55 for a store, or is handed to the command that reads for a stream; operations
of peers act at this device's memory and are acknowledged, refused outside it, or answered as poisoned; answers,
operations and that fault wait at stalled links, by `State.fabricOpen` and `State.treeHeld` (R13, log 47); a link
loses lanes; the time moves toward the master's by one tick, but that of the master itself does not, and no time flit
is taken while every port stalls (log 49). -/
def Obligations.RemoteOperationsLinksAndTime : Prop :=
  (∀ s id r, s.remotes.find? (fun k => k.id == id) = some r →
    let s1 : State := { s with
      remotes := s.remotes.filter (fun k => k.id != r.id)
      returns := s.returns ++ (if r.weight = 0 then [] else [⟨r.sid, r.weight, .member, r.tile / 256⟩]) }
    let heard := s.fabricOpen (r.tile / 256) = true
    let waits := r.kind = .load ∨ (∃ op d e, r.kind = .amo op d e) ∨ r.kind = .bar
    let answered (th : Thread) (bs : List Byte) (ans : PeerAns) : Out := .next (s1.setTh r.t { th with
      peer := th.peer ++ [⟨r.va, r.n, decide (r.kind ≠ .load), bs, ans, r.weight⟩], remoteOut := none, stalled := false })
    (∀ d, s.input = .ack id d → ¬heard → exec .remoteAck s = .next s) ∧
    (∀ bs th, s.input = .ack id (.bytes bs) → heard → waits → s.thread? r.t = some th → th.tid r.t = r.tid →
      th.remoteOut = some r.id → exec .remoteAck s = answered th bs .ok) ∧
    (∀ bs d, s.input = .ack id (.bytes bs) → heard → r.kind = .store d → exec .remoteAck s = .next s1) ∧
    (∀ bs k c, s.input = .ack id (.bytes bs) → heard → r.kind = .copyRead k → s.copy? r.tile k = some c → exec .remoteAck s =
      .next (s1.setCopy r.tile { c with got := c.got ++ [⟨r.va, r.n, false, bs, .ok, 0⟩] })) ∧
    (∀ bs k c, s.input = .ack id (.bytes bs) → heard → r.kind = .cmdRead k → tfind s.cmds k = some c → exec .remoteAck s =
      .next { s1 with cmds := tset s.cmds k { c with got := c.got ++ [⟨r.va, r.n, false, bs, .ok, 0⟩] } }) ∧
    (∀ k c, s.input = .ack id .poisoned → heard → r.kind = .cmdRead k → tfind s.cmds k = some c → exec .remoteAck s =
      .next { s1 with cmds := tset s.cmds k { c with got := c.got ++ [⟨r.va, r.n, false, [], .poisoned, 0⟩] } }) ∧
    (∀ th, s.input = .ack id .poisoned → heard → waits → s.thread? r.t = some th → th.tid r.t = r.tid →
      th.remoteOut = some r.id → exec .remoteAck s = answered th [] .poisoned) ∧
    (∀ k c, s.input = .ack id .poisoned → heard → r.kind = .copyRead k → s.copy? r.tile k = some c →
      exec .remoteAck s = .next (s1.setCopy r.tile { c with failed := true })) ∧
    (∀ i, (i = .remoteAck ∧ s.input = .ack id .refused ∧ heard) ∨ (i = .remoteTimeout ∧ s.input = .num id ∧ 10000000 ≤ s.time - r.issued) →
      (∀ th, waits → s.thread? r.t = some th → th.tid r.t = r.tid → th.remoteOut = some r.id →
        exec i s = answered th [] .failed) ∧
      (∀ k bs c, r.kind = .copyWrite k bs → s.copy? r.tile k = some c →
        exec i s = .next (s1.setCopy r.tile { c with failed := true, done := c.done - bs.length })) ∧
      (∀ d, r.kind = .store d → s.treeHeld (r.tile / 256) r.sid = false → exec i s = .next (s1.scopeFault r.sid 55)) ∧
      (∀ d, r.kind = .store d → s.treeHeld (r.tile / 256) r.sid = true → exec i s = .next s) ∧
      (∀ k c, r.kind = .cmdRead k → tfind s.cmds k = some c → exec i s = .next { s1 with
        cmds := tset s.cmds k { c with got := c.got ++ [⟨r.va, r.n, false, [], .failed, 0⟩] } }) ∧
      (∀ k c, r.kind = .copyRead k → s.copy? r.tile k = some c → exec i s = .next (s1.setCopy r.tile { c with failed := true }))) ∧
    (s.input = .num id → s.time - r.issued < 10000000 → exec .remoteTimeout s = .next s)) ∧
  (∀ s dev serial op, s.input = .peer dev serial op → s.fabricOpen (peerAddr op / dieRange) = false →
    exec .remoteOperationArrive s = .next s) ∧
  (∀ s dev serial op, s.input = .peer dev serial op → s.memOk → s.fabricOpen (peerAddr op / dieRange) = true →
    let answers (s1 : State) (m : Sent) : Out := .next { s1 with sent := m :: s1.sent }
    (∀ a n, op = .load a n →
      (inMemory a n = false → exec .remoteOperationArrive s = answers s (.nack dev serial)) ∧
      (inMemory a n = true → s.poisonIn a n ≠ none → exec .remoteOperationArrive s = answers s (.poisoned dev serial)) ∧
      (inMemory a n = true → s.poisonIn a n = none → exec .remoteOperationArrive s = answers s (.ack dev serial (s.bytesAt a n)))) ∧
    (∀ a n, (∃ bs, op = .store a bs ∧ n = bs.length) ∨ (∃ f d e, op = .amo f a n d e) ∨ (op = .bar a ∧ n = 16) →
      (inMemory a n = false → exec .remoteOperationArrive s = answers s (.nack dev serial)) ∧
      (inMemory a n = true → s.poisonIn a n ≠ none → (∀ bs, op ≠ .store a bs) →
        exec .remoteOperationArrive s = answers s (.poisoned dev serial))) ∧
    (∀ a bs, op = .store a bs → inMemory a bs.length = true →
      exec .remoteOperationArrive s = answers (s.putClean a bs) (.ack dev serial [])) ∧
    (∀ f a n d e, op = .amo f a n d e → n = 4 ∨ n = 8 → inMemory a n = true → s.poisonIn a n = none →
      let old := leAt s a n
      let r := amoNat f n old d.toNat e.toNat
      exec .remoteOperationArrive s = answers (if r.2 then s.putNum a n r.1 else s) (.ack dev serial (leBytes n old))) ∧
    (∀ a, op = .bar a → inMemory a 16 = true → s.poisonIn a 16 = none →
      let w0 := leAt s a 8
      let n := w0 % 2 ^ 16; let k := w0 / 2 ^ 16 % 2 ^ 16; let g := w0 / 2 ^ 32
      exec .remoteOperationArrive s = answers (if n = 0 ∨ n ≤ k ∨ 5 < leAt s (a + 8) 8 then s
        else s.putNum a 8 (if k + 1 = n then (g + 1) % 2 ^ 32 * 2 ^ 32 + n else g * 2 ^ 32 + (k + 1) * 2 ^ 16 + n))
        (.ack dev serial (s.bytesAt a 16)))) ∧
  (∀ s p n, s.input = .num2 p n →
    (p < 18 → n < s.portLanes p → n ∈ [0, 1, 2, 4] → exec .linkFailure s =
      .next (raises { s with lanes := tset s.lanes p n } (1 + p / 6) 3)) ∧
    (s.portLanes p ≤ n → exec .linkFailure s = .next s)) ∧
  (∀ s m, s.input = .num m →
    (s.timeMaster = true ∨ s.portOpen = false ∨ s.time < s.slewAt + 1000 ∨ m = s.time → exec .timeFlit s = .next s) ∧
    (s.timeMaster = false → s.portOpen = true → s.slewAt + 1000 ≤ s.time → s.time < m → ∃ s' : State, exec .timeFlit s = .next s' ∧ s'.time = s.time + 1 ∧ s'.slewAt = s.time + 1 ∧ s'.mem = s.mem) ∧
    (s.timeMaster = false → s.portOpen = true → s.slewAt + 1000 ≤ s.time → m < s.time → exec .timeFlit s = .next { s with slew := s.slew + 1, slewAt := s.time }))

namespace Sys2Proof.Machine

/-! ### The Kiln -/

/-- A command is over: its record keeps status and value until its completion is posted (R329). -/
def cmdOver (s : State) (id : Nat) (c : Command) (status value : Nat) : State :=
  { s with
    cmds := tset s.cmds id { c with phase := .finished, status := status, value := value }
    donePosts := s.donePosts ++ [id] }
/-- The Kiln carries out a command it took, over links that do not stall: its record, its opcode, and its words as
numbers (R13, R330). -/
def Carries (s : State) (id : Nat) (c : Command) (op : Nat) (w : Nat → Nat) : Prop :=
  s.input = .num id ∧ tfind s.cmds id = some c ∧ c.op = op ∧ c.phase = .taken ∧ c.silent = false ∧
    s.cmdOpen c = true ∧ ∀ k, w k = (c.words.getD k 0).toNat
/-- A command record as the Kiln takes it from the entry `w` at a queue's head (R294, R330). -/
def takenCmd (q : Nat) (x : Queue) (w : List Word) (phase : Phase) (status value : Nat) : Command :=
  let w0 := (w.getD 0 0).toNat
  { queue := q, index := x.ridx.toNat, op := w0 % 2 ^ 8, group := w0 / 2 ^ 32 % 2 ^ 16, token := w0 / 2 ^ 16 % 2 ^ 8
    post := (w.getD 0 0).getLsbD 9, irq := (w.getD 0 0).getLsbD 8, words := w, cookie := w.getD 7 0, phase := phase
    status := status, value := value, root := 0, launch := none, silent := false, got := [] }
/-- A queue after the Kiln took its head; one it leaves empty was non-empty until now (R294, R303). -/
def advanced (s : State) (x : Queue) (hold : Option Nat) : Queue :=
  { x with ridx := x.ridx + 1, head := none, busySince := if x.ridx + 1 = x.notify then s.time else x.busySince, hold := hold }
/-- The Kiln takes the head of queue q as command `c`: the queue advances, held by a WAIT_TOKEN that was not refused,
and a command that is over already waits for its completion (R294, R332, R403). -/
def Takes (s s' : State) (q : Nat) (x : Queue) (c : Command) : Prop :=
  s'.queue q = advanced s x (if c.op = 3 ∧ c.phase = .taken then some s.nextCmd else none) ∧
    (∀ r, r ≠ q → s'.queue r = s.queue r) ∧
    tfind s'.cmds s.nextCmd = some c ∧ s'.nextCmd = s.nextCmd + 1 ∧ tfind s'.lastTaken x.prio = some q ∧
    s'.donePosts = s.donePosts ++ (if c.phase = .finished then [s.nextCmd] else []) ∧ s'.mem = s.mem ∧ s'.threads = s.threads
/-- A queue that the Kiln may take from, with what stands at its head, if that does not wait (R294). -/
def Offers (s : State) (q : Nat) (x : Queue) (h : State.Head) : Prop :=
  (q, x) ∈ s.queues ∧ s.queueReady q x = true ∧ s.headOf q x = h ∧ h ≠ .waiting
/-- The pages of a launch's sections, in their order: address, permissions, and where the contents stand in the image,
of as many bytes as the section emits there (R115, R116, R293). -/
def sectionPages (img : Nat) (xs : List Sec) : List (Nat × Nat × Nat × Nat) :=
  xs.flatMap (fun x => (List.range ((x.filesz + 65535) / 65536)).map (fun j =>
    (x.va + 65536 * j, x.perm, img + x.off + 65536 * j, min 65536 (x.filesz - 65536 * j))))
/-- A page holds contents and then zeros (R293). -/
def holdsContents (bs : List Byte) (a : Nat) (k : Nat) : Byte := (bs[k - a]?).getD 0
/-- Step 1 of R293 for one page: written in place in the page that a leaf names, whose permissions are set anew, or in a
page of the first tile's die or of the lowest die that has one, kept with the space and mapped by a new leaf. -/
def SectionPage (s : State) (as d va perm : Nat) (bs : List Byte) : Prop :=
  (∀ f, s.walk as va = some f → s.memOk → bs.length ≤ 65536 → f.entry + 8 ≤ f.addr ∨ f.addr + 65536 ≤ f.entry →
    ∃ s' : State, s.writePage as d va perm bs = some s' ∧ s'.memOk ∧
      (∀ a, byteAt s' a = if f.addr ≤ a ∧ a < f.addr + 65536 then holdsContents bs f.addr a
        else if f.entry ≤ a ∧ a < f.entry + 8 then
          BitVec.ofNat 8 (((f.word &&& ~~~0x1C#64) ||| BitVec.ofNat 64 perm).toNat / 256 ^ (a - f.entry))
        else byteAt s a) ∧
      (∀ l, ∀ e ∈ (s'.tile l).tlb, ¬(e.aspace = as ∧ e.base < va + 65536 ∧ va < e.base + e.size))) ∧
  (s.walk as va = none → s.allocFrom d = none → s.writePage as d va perm bs = none) ∧
  (∀ p s0, s.walk as va = none → s.allocFrom d = some (p, s0) →
    ((s0.notePage as p).mapPage as d va (p + 3 + perm) = none → s.writePage as d va perm bs = none) ∧
    (∀ m, (s0.notePage as p).mapPage as d va (p + 3 + perm) = some m → s0.memOk → m.memOk → bs.length ≤ 65536 →
      ∃ s' : State, s.writePage as d va perm bs = some s' ∧ s'.memOk ∧
        ∀ a, byteAt s' a = if p ≤ a ∧ a < p + bs.length then holdsContents bs p a else byteAt m a))
/-- A page the Kiln takes is one of die d's, given back before, else the highest below its mark, else one of the lowest
die that has one; it is zero (R293; which page it is, log 11). -/
def TakesPage (s : State) (d : Nat) : Prop :=
  (∀ p s0, s.allocPage d = some (p, s0) →
    ((∃ ps, (s.die d).freePages = p :: ps ∧ (s0.die d).freePages = ps ∧ (s0.die d).allocTop = (s.die d).allocTop) ∨
      ((s.die d).freePages = [] ∧ p + 65536 = (s.die d).allocTop ∧ (s0.die d).allocTop = p)) ∧
    (s.memOk → ∀ a, byteAt s0 a = if p ≤ a ∧ a < p + 65536 then 0 else byteAt s a)) ∧
  (s.allocPage d = none ↔ (s.die d).freePages = [] ∧ (s.die d).allocTop < d * 0x3000000000 + 65536) ∧
  (∀ r, s.allocPage d = some r → s.allocFrom d = some r) ∧
  (∀ e r, s.allocPage d = none → e < 4 → (∀ k, k < e → s.allocPage k = none) → s.allocPage e = some r →
    s.allocFrom d = some r) ∧
  (s.allocPage d = none → (∀ k, k < 4 → s.allocPage k = none) → s.allocFrom d = none)
/-- What the Kiln's handle holds after n births, from 2^40: each takes half, and 2^24 more are made where 1 is left
(R30). -/
def kilnHandle : Nat → Nat
  | 0 => 2 ^ 40
  | n + 1 => if kilnHandle n = 1 then (1 + 2 ^ 24) - (1 + 2 ^ 24) / 2 else kilnHandle n - kilnHandle n / 2
/-- The weight of the n-th birth. -/
def birthWeight (n : Nat) : Nat := if kilnHandle n = 1 then (1 + 2 ^ 24) / 2 else kilnHandle n / 2
/-- The first threads of a launch in the order of their births: of each tile in turn, those of the stage core and then
those of the compute core (R293). -/
def firstBorn (r : LaunchRec) (ts : List Nat) : List (Nat × CoreClass) :=
  ts.flatMap (fun l => List.replicate r.ctxs (l, CoreClass.stage) ++ List.replicate r.ctxc (l, CoreClass.compute))

end Sys2Proof.Machine

/-- R13, R290 to R294, R328 to R331, R339, R403, R404: the Kiln takes the head of the queue it turns to, or refuses it
with a status; an entry it cannot read puts the queue in ERROR; a launch is checked at the head, and placed when its
tiles are fit: its sections stand in their pages, with zeros after them, its tiles' memory and buffers are reserved,
and a root scope is CLOSING with its threads born in it, in the order of R293, from the Kiln's handle (R30); NOTIFY
writes that came during a takeover are applied before. Completions are written in order as there is room, and STATUS 9
for a queue in ERROR once it is drained. The queue taken from is one whose head no longer meets its placement, else
the highest priority, in rotation. The model's readings: the order of the refusals (log 30), that an unmet head is
refused as the Kiln's next decision (log 43), what the launch checks test (log 42), the pages taken (log 11), that the
Kiln takes no entry while a command is in hand or while its standby cannot hear of it (kilnBusy, logs 18, 43), and
that completions wait for stalled links (log 47). -/
def Obligations.KilnTakesPlacesAndPosts : Prop :=
  (∀ s, s.time < s.takeoverUntil → ∀ i ∈ [Instr.kilnTake, .launch, .launchPlace], exec i s = .next s) ∧
  (∀ s, s.takeoverUntil ≤ s.time → ∀ i ∈ [Instr.kilnTake, .launch, .launchPlace],
    exec i s = exec i (s.lateNotify.foldl (fun s p => s.notify p.1 p.2) { s with lateNotify := [] })) ∧
  (∀ s : State, (s.decides = true ↔ s.booted = true ∧ s.kilnFailed = false ∧ s.takeoverUntil ≤ s.time ∧
      (s.standby = true → s.linkOpen 0 2 = true)) ∧
    (s.kilnTakes = true ↔ s.decides = true ∧ s.tripped = false ∧ s.devEvents.getLsbD 7 = false)) ∧
  (∀ s, s.lateNotify = [] →
    (s.kilnTakes = false ∨ s.kilnBusy = true → ∀ i ∈ [Instr.kilnTake, .launch, .launchPlace], exec i s = .next s) ∧
    (s.kilnChoice = none → exec .kilnTake s = .next s ∧ exec .launchPlace s = .next s) ∧
    (∀ q x h, s.kilnChoice = some (q, x, h) → (∀ w r ts rec, h ≠ .launch w r ts rec) → exec .launchPlace s = .next s)) ∧
  (∀ s : State, (s.queues.map (·.1)).Pairwise (· < ·) →
    (s.kilnChoice = none ↔ ∀ q x h, ¬Offers s q x h) ∧
    (∀ q x h, s.kilnChoice = some (q, x, h) → Offers s q x h ∧
      ((∃ q' x' w, Offers s q' x' (.unmet w)) → ∃ w, h = .unmet w) ∧
      ((∀ q' x' w, ¬Offers s q' x' (.unmet w)) → ∀ q' x' h', Offers s q' x' h' → x'.prio ≤ x.prio ∧
        (x'.prio = x.prio → match tfind s.lastTaken x.prio with
          | some l => (l < q → q' ≤ l ∨ q ≤ q') ∧ (q ≤ l → q' ≤ l ∧ q ≤ q')
          | none => q ≤ q')))) ∧
  (∀ (s : State) d, TakesPage s d) ∧
  (∀ s as d va perm bs, SectionPage s as d va perm bs) ∧
  (∀ (s : State) as d img xs, s.writeSections as d img xs = (sectionPages img xs).foldlM (fun s p =>
    s.writePage as d p.1 p.2.1 (s.bytesAt p.2.2.1 p.2.2.2)) s) ∧
  (∀ (s : State) (q : Nat) (x : Queue) (h : State.Head), s.lateNotify = [] → s.kilnTakes = true → s.kilnBusy = false →
    s.kilnChoice = some (q, x, h) →
    (h = .bad → exec .kilnTake s =
      .next (s.setQueue q { s.queue q with state := .error, errVal := some x.ridx.toNat, head := none })) ∧
    (∀ (w : List Word) (st : Nat), h = .other w st → ∃ s' : State, exec .kilnTake s = .next s' ∧
      Takes s s' q x (if st = 0 then takenCmd q x w .taken 0 0 else takenCmd q x w .finished st 0)) ∧
    (∀ w : List Word, h = .unmet w → ∃ s' : State, exec .kilnTake s = .next s' ∧ Takes s s' q x (takenCmd q x w .finished 5 6)) ∧
    (∀ w : List Word, h = .unchecked w →
      (∀ r, s.checkLaunch (q / 16) (w.getD 1 0) = .ok r → exec .kilnTake s = .next (s.setQueue q { x with head := some r })) ∧
      (∀ st v, s.checkLaunch (q / 16) (w.getD 1 0) = .error (st, v) →
        ∃ s' : State, exec .kilnTake s = .next s' ∧ Takes s s' q x (takenCmd q x w .finished st v))) ∧
    (∀ w r ts rec, h = .launch w r ts rec → exec .kilnTake s = exec .launchPlace s ∧
      (∀ s1, s.writeSections r.aspace (ts.headD 0 / 256) r.image r.secs = some s1 →
        let born := firstBorn r ts
        (s.threads.map (·.1)).Pairwise (· < ·) →
        ∃ (s' : State) (c : Command) (o : Scope) (ks : List Nat), exec .launchPlace s = .next s' ∧
          (s'.queue q).ridx = x.ridx + 1 ∧ s'.mem = s1.mem ∧
          tfind s'.cmds s.nextCmd = some c ∧ c.phase = .running ∧ c.launch = some r ∧ c.words = w ∧
          tfind s'.scopes rec = some o ∧ c.root = rec * 16384 + o.reuse ∧ o.state = .closing ∧ o.parent = 0 ∧
          o.depth = 1 ∧ o.opener = 0 ∧ o.cancelled = false ∧ o.cmd = s.nextCmd ∧ o.group = c.group ∧
          o.o = 2 ^ 40 + 2 ^ 24 * ((List.range born.length).filter (fun n => kilnHandle n == 1)).length ∧
          ks.length = born.length ∧ ks.Nodup ∧
          (∀ n k (b : Nat × CoreClass), ks[n]? = some k → born[n]? = some b → s.thread? k = none ∧
            ∃ th : Thread, s'.thread? k = some th ∧ th.pc = r.entry ∧ (∀ i : XReg, th.rx i = if i = 10 then .of r.args else .of 0) ∧
              th.tile = b.1 ∧ th.cls = b.2 ∧ (∃ ctx, th.loc = .resident ctx) ∧ th.sid0 = c.root ∧
              (th.rk 0).weight = birthWeight n ∧ th.aspace = r.aspace ∧ th.ver = r.enc ∧ th.utvec = r.utvec ∧
              th.cland = r.cland ∧ th.seedkey = r.seedkey ∧ th.waittmo = 0 ∧ th.stream = 0 ∧
              th.prio = x.prio ∧ th.slice = r.slice ∧ th.latlim = r.latlim ∧ th.cmd = s.nextCmd) ∧
          (∀ k, k ∉ ks → s'.thread? k = s.thread? k) ∧
          s'.returns = s.returns ++ [⟨c.root, kilnHandle born.length, .member, s.kilnDie⟩] ∧
          (∀ l, l ∉ ts → s'.tile l = s1.tile l) ∧
          (∀ l ∈ ts, (s'.tile l).resv = (if r.localmem = 0 ∧ r.cbufs = [] then (s.tile l).resv else some s.nextCmd) ∧
            (∀ b : Fin 16, b.val ∉ r.cbufs.map (·.1) → (s'.tile l).cbs[b] = (s.tile l).cbs[b]) ∧
            ((r.cbufs.map (·.1)).Nodup → ∀ p ∈ r.cbufs, ∀ h : p.1 < 16, (s'.tile l).cbs[p.1] =
              ⟨p.2 / 2 ^ 32 % 2 ^ 9, p.2 / 2 ^ 21 % 2 ^ 11, p.2 / 2 ^ 6 % 2 ^ 13 * 64, 0, 0, p.2 / 2 ^ 32 % 2 ^ 9, 0, 0⟩))) ∧
      (s.writeSections r.aspace (ts.headD 0 / 256) r.image r.secs = none →
        ∃ s' : State, exec .launchPlace s = .next s' ∧ Takes s s' q x (takenCmd q x w .finished 5 4)))) ∧
  (∀ s q, s.input = .num q → s.lateNotify = [] → s.kilnTakes = true → s.kilnBusy = false →
    ((∀ x w, s.kilnChoice ≠ some (q, x, .unchecked w)) → exec .launch s = .next s) ∧
    (∀ x w, s.kilnChoice = some (q, x, .unchecked w) →
      (∀ r, s.checkLaunch (q / 16) (w.getD 1 0) = .ok r → exec .launch s = .next (s.setQueue q { x with head := some r })) ∧
      (∀ st v, s.checkLaunch (q / 16) (w.getD 1 0) = .error (st, v) →
        ∃ s' : State, exec .launch s = .next s' ∧ Takes s s' q x (takenCmd q x w .finished st v)))) ∧
  (∀ s q, s.input = .num q → s.memOk →
    let x := s.queue q
    let a := (if x.loc then locHost else 0) + x.cbase.toNat + 16 * (x.cwidx.toNat % 2 ^ x.log2n)
    let mine (id : Nat) : Prop := ∃ c, tfind s.cmds id = some c ∧ c.queue = q
    let shut := s.decides = false ∨ 2 ^ x.log2n ≤ (x.cwidx - x.chead).toNat ∨ s.homeOpen s.kilnDie a = false
    let writes (s' : State) (cookie status value : Nat) : Prop :=
      (s'.queue q).cwidx = x.cwidx + 1 ∧ (∀ r, r ≠ q → s'.queue r = s.queue r) ∧
        ∀ b, byteAt s' b = if (x.loc = true ∨ inMemory a 16 = true) ∧ a ≤ b ∧ b < a + 16 then
          BitVec.ofNat 8 (if b < a + 8 then cookie / 256 ^ (b - a) else (value % 2 ^ 32 * 2 ^ 32 + status) / 256 ^ (b - (a + 8)))
          else byteAt s b
    (shut → exec .completionPost s = .next s) ∧
    (∀ before id after c, ¬shut → s.donePosts = before ++ id :: after → (∀ j ∈ before, ¬mine j) →
      tfind s.cmds id = some c → c.queue = q →
      (c.root ≠ 0 → s.linkOpen s.kilnDie (c.root / 0x40000000) = false → exec .completionPost s = .next s) ∧
      (c.root = 0 ∨ s.linkOpen s.kilnDie (c.root / 0x40000000) = true → ∃ s' : State, exec .completionPost s = .next s' ∧
        writes s' c.cookie.toNat c.status c.value ∧ tfind s'.cmds id = none ∧ s'.donePosts = s.donePosts.filter (· != id) ∧
        (∀ f j, (tfind (s'.func f).tokens j).getD 0 = (tfind (s.func f).tokens j).getD 0 +
          (if c.post = true ∧ f = q / 16 ∧ j = c.token then 1 else 0)) ∧
        (c.irq = false ∨ s.hostLink s.kilnDie = true → s'.posts = s.posts ∧
          s'.sent = (if c.irq then [.msix (q / 16) x.vector] else []) ++ s.sent) ∧
        (c.irq = true → s.hostLink s.kilnDie = false →
          s'.posts = s.posts ++ [(s.kilnDie, .msix (q / 16) x.vector)] ∧ s'.sent = s.sent))) ∧
    (¬shut → (∀ j ∈ s.donePosts, ¬mine j) →
      let done_ := ∀ p ∈ s.cmds, p.2.queue = q → p.2.silent = true
      (x.errVal = none ∨ x.state ≠ .error ∨ ¬done_ → exec .completionPost s = .next s) ∧
      (∀ v, x.errVal = some v → x.state = .error → done_ → ∃ s' : State, exec .completionPost s = .next s' ∧
        writes s' 0 9 v ∧ (s'.queue q).errVal = none ∧ (s'.queue q).state = (if x.enable then .error else .disabled) ∧
        s'.cmds = s.cmds ∧ s'.sent = s.sent)))

/-- R303 to R305, R313 to R315, R330, R332, R378, R379: KILL cancels a running command, and kills it for good the
second time; WAIT_TOKEN ends when its counter has come; heaps and streams are created and destroyed, or refused: a
destroyed stream's list is trimmed, its SHARED pages stay with the table, and the others are wiped before they return.
CREATE_STREAM reads the parts of its area that a peer holds first. Which
pages are taken, some statuses of refusals, the refusal of a heap whose last page would reach a hole, that a KILL waits
for stalled links, and what a part that the peer does not send comes to are the model's choice (logs 11, 43, 47, 48,
53). -/
def Obligations.KilnCommandsKillHeapsAndStreams : Prop :=
  ∀ s id c w,
    (Carries s id c 2 w →
      let hit (p : Nat × Command) : Bool := p.2.queue == w 1 / 2 ^ 32 % 2 ^ 16 && p.2.index == w 1 % 2 ^ 32 && s.rootLive p.2
      (s.cmds.find? hit = none → exec .kill s = .next (cmdOver s id c 8 0)) ∧
      (∀ k x r, s.cmds.find? hit = some (k, x) → s.scope? x.root = some r →
        (s.killHeld k x.root = true → exec .kill s = .next s) ∧
        (s.killHeld k x.root = false → r.cancelled = false →
          exec .kill s = .next (cmdOver (s.cancelTree x.root) id c 0 0)) ∧
        (s.killHeld k x.root = false → r.cancelled = true →
          exec .kill s = .next ((cmdOver s id c 0 0).hardKill k x.root 54)))) ∧
    (Carries s id c 3 w →
      let n : BitVec 32 := (tfind (s.func (c.queue / 16)).tokens c.token).getD 0
      let met := 0 ≤ (n - (c.words.getD 1 0).setWidth 32).toInt
      (met → exec .waitToken s = .next (cmdOver (s.setQueue c.queue { s.queue c.queue with
        hold := if (s.queue c.queue).hold = some id then none else (s.queue c.queue).hold }) id c 0 0)) ∧
      (¬met → exec .waitToken s = .next s)) ∧
    (Carries s id c 4 w →
      let bytes := 32 * w 3
      let bad := (tfind s.heaps (w 1)).isSome = true ∨ w 2 % 65536 ≠ 0 ∨
        inMemory (w 2) (65536 * ((bytes + 65535) / 65536)) = false
      let mapped := (List.range ((bytes + 65535) / 65536)).foldl (fun (m : Option State) j =>
        m.bind (fun m => m.mapPage (w 4) (w 2 / 0x3000000000) (w 5 + 65536 * j) (w 2 + 65536 * j + 7))) (some (s.wipe (w 2) bytes))
      (bad ∨ mapped = none → exec .createHeap s = .next (cmdOver s id c 6 0)) ∧
      (∀ m, ¬bad → mapped = some m → exec .createHeap s =
        .next (cmdOver { (m.dropTlb (w 4) (w 5) bytes) with heaps := tset m.heaps (w 1) ⟨w 2, w 3, w 5⟩ } id c 0 0))) ∧
    (Carries s id c 5 w →
      (∀ h, tfind s.heaps (w 1) = some h →
        (s.heapIdle (w 1) h = true → exec .destroyHeap s = .next (cmdOver { s with heaps := tdel s.heaps (w 1) } id c 0 0)) ∧
        (s.heapIdle (w 1) h = false → exec .destroyHeap s = .next (cmdOver s id c 6 0))) ∧
      (tfind s.heaps (w 1) = none → exec .destroyHeap s = .next (cmdOver s id c 6 0))) ∧
    (Carries s id c 6 w →
      let rsize := w 5 % 2 ^ 17; let space := w 5 / 2 ^ 48 % 2 ^ 16
      let bad := w 6 % 2 ^ 32 ≠ 0 ∨ translated (w 6) = false ∨ s.kvFree space (w 6) = false ∨ rsize % 64 ≠ 0 ∨ 65536 < rsize ∨
        (s.die (w 1)).kvPool.length < w 3
      (bad ∨ s.freeStream (w 1) = none ∨ s.allocRun (w 1) (slotPages rsize) = none →
        exec .createStream s = .next (cmdOver s id c 7 0)) ∧
      (∀ rec reuse slots s1, ¬bad → s.freeStream (w 1) = some (rec, reuse) → s.allocRun (w 1) (slotPages rsize) = some (slots, s1) →
        let l := 256 * w 1
        let st := streamFor c 0 0 []
        let segs := s.areaSegs l (rec * 65536 + reuse) st
        let part := missingPart c.got (State.areaPeers st segs)
        (∀ r, part = some (true, r) → exec .createStream s = .next (cmdOver s id c 7 0)) ∧
        (∀ r, part = some (false, r) →
          ((∃ k ∈ s.remotes, k.kind = .cmdRead id) ∨ s.fabricOpen (w 1) = false → exec .createStream s = .next s) ∧
          ((∀ k ∈ s.remotes, k.kind ≠ .cmdRead id) → s.fabricOpen (w 1) = true → exec .createStream s = .next { s with
            remotes := s.remotes ++ [⟨s.nextOp, l, 0x100000, 0, r.2.1.getD 0, r.2.2.1, r.1, r.2.2.2, .cmdRead id, 0, 0, s.time, false⟩]
            nextOp := s.nextOp + 1, sent := .remote s.nextOp (r.2.1.getD 0) r.2.2.1 r.2.2.2 (.cmdRead id) :: s.sent })) ∧
        (part = none → ∃ s' : State, exec .createStream s = .next s' ∧ tfind s'.cmds id = some { c with phase := .finished, status := 0, value := rec * 65536 + reuse } ∧
          tfind s'.streams rec = some ⟨reuse, true, 0, 0, 0, 0, 0, w 2, [], (s1.die (w 1)).kvPool.take (w 3), w 6, w 4, rsize,
            [(0, 0)], slots, false, 0, space⟩ ∧ (s'.die (w 1)).kvPool = (s1.die (w 1)).kvPool.drop (w 3)))) ∧
    (Carries s id c 7 w →
      (s.stream? (w 1) = none ∨ (∃ p ∈ s.threads, p.2.stream.toNat = w 1) → exec .destroyStream s = .next (cmdOver s id c 7 0)) ∧
      (∀ st, s.stream? (w 1) = some st → (∀ p ∈ s.threads, p.2.stream.toNat ≠ w 1) →
        let r := s.truncate st 0
        let back := st.pool ++ ((st.pages.filter (fun k => !k.shared)).reverse.map (·.pa))
        let slots := (List.range ((64 * st.rsize + 65535) / 65536)).map (fun j => st.slots + 65536 * j)
        ∃ s' : State, exec .destroyStream s = .next s' ∧ s'.stream? (w 1) = none ∧
          tfind s'.cmds id = some { c with phase := .finished, status := 0, value := 0 } ∧ s'.pfx = s.pfx ∧
          (s'.die (w 1 / 2 ^ 30)).kvPool = (s.die (w 1 / 2 ^ 30)).kvPool ++ back ∧
          (∀ e, e ≠ w 1 / 2 ^ 30 → (s'.die e).kvPool = (s.die e).kvPool) ∧
          (∀ e, (s'.die e).freePages = (s.die e).freePages ++ slots.filter (fun p => p / 0x3000000000 == e)) ∧
          (s.memOk → s'.memOk ∧ (∀ p ∈ back ++ slots, ∀ a, p ≤ a → a < p + 65536 → byteAt s' a = 0) ∧
            ∀ a, (∀ p ∈ back ++ slots, a < p ∨ p + 65536 ≤ a) → byteAt s' a = byteAt r.2 a)))

namespace Sys2Proof.Machine

/-- An address space is removed: the pages that the Kiln allocated for it return to their dies (R293, R330). -/
def Removed (s s' : State) (as : Nat) (a : Aspace) : Prop :=
  s' = { s with aspaces := tset s.aspaces as { a with pages := [] }, dies := s'.dies } ∧
    ∀ e, s'.die e = { s.die e with
      freePages := (s.die e).freePages ++ (a.pages.map (·.2)).filter (fun p => p / 0x3000000000 == e) }
/-- A cancellation of group g is sent to every other device of its bitmap, unless it was already (R337). -/
def CarriesGroup (s s' : State) (g : Nat) : Prop :=
  (g = 0 ∨ g ∈ s.groupsSent ∨ tfind s.groups g = none → s' = s) ∧
  (∀ m, g ≠ 0 → g ∉ s.groupsSent → tfind s.groups g = some m → ∃ ms : List Sent,
    s' = { s with groupsSent := g :: s.groupsSent, sent := ms ++ s.sent } ∧ ms.Nodup ∧
      ∀ x, x ∈ ms ↔ ∃ d, d < 768 ∧ m.testBit d = true ∧ d ≠ s.devNum ∧ x = .groupCancel g d)

end Sys2Proof.Machine

/-- R13, R57, R303, R330, R337, R342, R385: ASPACE_SET and ASPACE_INVAL drop translations at every tile and wait for
the copies that used them; thresholds are registered and signal a task when a sample crosses; SET_CLOCK steps a
die's clock at its next cycle boundary with a link stall of 2,000 ticks, and completes once the step is made or another
replaces it; ASPACE_SET of no table removes a space, whose pages return; GROUP_SET keeps a bitmap, and carries the
cancellation of a group that was cancelled before; a cancelled root sends its group's cancellation, once, and a
received one marks a group's roots. That a threshold crosses only
against an earlier sample, that SET_CLOCK ends firmware's steps, and that a received cancellation, a threshold's sample
and the Kiln's commands wait for stalled links are the model's readings (logs 29, 40, 47). -/
def Obligations.SpacesThresholdsClocksAndGroups : Prop :=
  (∀ s id c w, Carries s id c 8 w →
    let a := (tfind s.aspaces (w 1)).getD ⟨0, none, []⟩
    let s1 : State := { s with aspaces := tset s.aspaces (w 1) { a with root := w 2 } }.dropTlb (w 1) 0 (2 ^ 64)
    (s.opsUsing (w 1) 0 (2 ^ 64) = [] → w 2 ≠ 0 → exec .aspaceSet s = .next (cmdOver s1 id c 0 0)) ∧
    (s.opsUsing (w 1) 0 (2 ^ 64) = [] → w 2 = 0 → ∃ s2 : State, exec .aspaceSet s = .next (cmdOver s2 id c 0 0) ∧
      Removed s1 s2 (w 1) { a with root := 0 }) ∧
    (s.opsDone (s.opsUsing (w 1) 0 (2 ^ 64)) = false → exec .aspaceSet s =
      .next { s1 with cmds := tset s.cmds id { c with phase := .draining (s.opsUsing (w 1) 0 (2 ^ 64)) } })) ∧
  (∀ s id c w, Carries s id c 9 w →
    let a := if w 3 = 0 then 0 else w 2
    let n := if w 3 = 0 then 2 ^ 64 else w 3
    let s1 := s.dropTlb (w 1) a n
    (s.opsUsing (w 1) a n = [] → exec .aspaceInval s = .next (cmdOver s1 id c 0 0)) ∧
    (s.opsDone (s.opsUsing (w 1) a n) = false → exec .aspaceInval s =
      .next { s1 with cmds := tset s.cmds id { c with phase := .draining (s.opsUsing (w 1) a n) } })) ∧
  (∀ s id c ops, s.input = .num id → tfind s.cmds id = some c → c.phase = .draining ops → s.cmdOpen c = true → c.silent = false →
    ∀ p ∈ [(Instr.aspaceSet, (8 : Nat)), (.aspaceInval, 9)], c.op = p.2 →
      (s.opsDone ops = false → exec p.1 s = .next s) ∧
      (s.opsDone ops = true → (p.2 = 8 → ∀ a, tfind s.aspaces (c.words.getD 1 0).toNat = some a → a.root ≠ 0) →
        exec p.1 s = .next (cmdOver s id c 0 0)) ∧
      (s.opsDone ops = true → p.2 = 8 → ∀ a, tfind s.aspaces (c.words.getD 1 0).toNat = some a → a.root = 0 →
        ∃ s2 : State, exec p.1 s = .next (cmdOver s2 id c 0 0) ∧ Removed s s2 (c.words.getD 1 0).toNat a)) ∧
  (∀ (s : State) as a n, ∀ p ∈ s.tiles, ∀ c ∈ p.2.copies, s.aspaceOf c.sid = some as →
    0 < n →
    (∃ g ∈ c.srcSegs ++ c.dstSegs, translated g.va = true ∧ 0 < g.page.2 ∧ g.page.1 < a + n ∧ a < g.page.1 + g.page.2) → c.id ∈ s.opsUsing as a n) ∧
  (∀ (s : State) as a n l, ∀ e ∈ ((s.dropTlb as a n).tile l).tlb, ¬(e.aspace = as ∧ e.base < a + n ∧ a < e.base + e.size)) ∧
  (∀ s id c w, Carries s id c 10 w →
    let src := w 2
    let e : Threshold := ⟨src % 2 ^ 8, src / 2 ^ 8 % 2 ^ 8, (c.words.getD 2 0).getLsbD 16, w 3, w 4, w 5, true, 0, 0, none⟩
    exec .threshold s = .next (cmdOver { s with thresholds := tset s.thresholds (w 1) e } id c 0 0)) ∧
  (∀ s k hbm e, s.input = .num2 k hbm → tfind s.thresholds k = some e →
    s.kilnTakes = false ∨ (∃ d ∈ s.thresholdDies e, s.linkOpen s.kilnDie d = false) → exec .thresholdSample s = .next s) ∧
  (∀ s k hbm e, s.input = .num2 k hbm → s.kilnTakes = true → tfind s.thresholds k = some e →
    (∀ d ∈ s.thresholdDies e, s.linkOpen s.kilnDie d = true) → e.owed = 0 ∨ s.signal e.task = .ok none →
    let v := s.sampleOf e hbm
    let put (s1 : State) (f : Threshold) : State := { s1 with thresholds := tset s1.thresholds k f }
    let crosses := ∃ p, e.prev = some p ∧ (if e.fall then e.level < p ∧ v ≤ e.level else p < e.level ∧ e.level ≤ v)
    (e.armed = false → ∃ b : Bool, (b = true ↔ (if e.fall then e.level < v ∧ e.level + e.hyst ≤ v else v < e.level ∧ v + e.hyst ≤ e.level)) ∧
      exec .thresholdSample s = .next (put s { e with armed := b, prev := some v })) ∧
    (e.armed = true → ¬crosses → exec .thresholdSample s = .next (put s { e with prev := some v })) ∧
    (e.armed = true → crosses →
      let s0 := s.journalAdd (.fire k)
      (s0.signal e.task = .ok none → exec .thresholdSample s = .next (put s0 { e with armed := false, prev := some v, owed := e.owed + 1 })) ∧
      (∀ s1, s0.signal e.task = .ok (some s1) → exec .thresholdSample s = .next (put s1 { e with armed := false, prev := some v })) ∧
      (∀ n, s0.signal e.task = .error n → exec .thresholdSample s =
        .next (put s0 { e with armed := false, prev := some v, drops := e.drops + 1 })))) ∧
  (∀ s k hbm e, s.input = .num2 k hbm → s.kilnTakes = true → tfind s.thresholds k = some e →
    (∀ d ∈ s.thresholdDies e, s.linkOpen s.kilnDie d = true) → 0 < e.owed → e.armed = true →
    ∀ s1, s.signal e.task = .ok (some s1) → let v := s1.sampleOf e hbm
      (∀ p, e.prev = some p → ¬(if e.fall then e.level < p ∧ v ≤ e.level else p < e.level ∧ e.level ≤ v)) →
      exec .thresholdSample s = .next { s1 with thresholds := tset s1.thresholds k { e with owed := e.owed - 1, prev := some v } }) ∧
  (∀ s id c w, Carries s id c 11 w →
    let x := s.die (w 1)
    let waits (s1 : State) := Host.Outcome.next { s1 with cmds := tset s1.cmds id { c with phase := .draining [] } }
    let ends (s1 : State) := Host.Outcome.next (cmdOver s1 id c 0 0)
    (s.tripped = true → exec .setClock s = if x.nextMhz = some (w 2) then waits s else ends s) ∧
    (s.tripped = false →
      (x.nextMhz = some (w 2) → exec .setClock s = waits s) ∧
      (x.nextMhz = none → x.mhz = w 2 → exec .setClock s = ends s) ∧
      (∀ m, x.nextMhz = some m → m ≠ w 2 → x.mhz = w 2 →
        exec .setClock s = ends (s.setDie (w 1) { x with nextMhz := none, stepped := 0 })) ∧
      (x.nextMhz ≠ some (w 2) → x.mhz ≠ w 2 →
        (x.phase = 0 → exec .setClock s = ends (s.setDie (w 1) { x with
          mhz := w 2, nextMhz := none, stallUntil := max x.stallUntil (s.time + 2000), stepped := 0 })) ∧
        (x.phase ≠ 0 → exec .setClock s = waits (s.setDie (w 1) { x with nextMhz := some (w 2), stepped := 0 }))))) ∧
  (∀ s id c ops, s.input = .num id → tfind s.cmds id = some c → c.op = 11 → c.phase = .draining ops → s.cmdOpen c = true →
    c.silent = false → let mhz := (c.words.getD 2 0).toNat
      ((s.die (c.words.getD 1 0).toNat).nextMhz = some mhz →
        exec .setClock s = .next { s with cmds := tset s.cmds id { c with phase := .draining [] } }) ∧
      ((s.die (c.words.getD 1 0).toNat).nextMhz ≠ some mhz → exec .setClock s = .next (cmdOver s id c 0 0))) ∧
  (∀ (x : Die) time n m, x.nextMhz = some m →
    (18 * n < State.cycleLen x.mhz - x.phase → (State.ageDie time n x).mhz = x.mhz ∧ (State.ageDie time n x).nextMhz = some m) ∧
    (State.cycleLen x.mhz - x.phase ≤ 18 * n → (State.ageDie time n x).mhz = m ∧ (State.ageDie time n x).nextMhz = none ∧
      (State.ageDie time n x).stallUntil = max x.stallUntil (time + (State.cycleLen x.mhz - x.phase + 17) / 18 + 2000))) ∧
  (∀ s d, s.input = .num d →
    let x := s.die d
    exec .clockStallEnd s = .next (if x.stallUntil ≠ 0 ∧ x.stallUntil ≤ s.time then s.setDie d { x with stallUntil := 0 } else s)) ∧
  (∀ s id c w, Carries s id c 12 w → (∀ p ∈ s.scopes, p.2.group = w 1 → p.2.cancelled = false) →
    exec .groupSet s = .next (cmdOver { s with groups := tset s.groups (w 1) (leAt s (w 2) 96) } id c 0 0)) ∧
  (∀ s id c w, Carries s id c 12 w → ∀ p ∈ s.scopes, p.2.depth = 1 → p.2.group = w 1 → w 1 ≠ 0 →
    p.2.state = .opened ∨ p.2.state = .closing → p.2.cancelled = true →
    ∃ s2 : State, exec .groupSet s = .next (cmdOver s2 id c 0 0) ∧
      CarriesGroup { s with groups := tset s.groups (w 1) (leAt s (w 2) 96) } s2 (w 1)) ∧
  (∀ s g, CarriesGroup s (s.cancelGroup g) g) ∧
  (∀ (s : State) k (o : Scope), tfind s.scopes k = some o → o.depth = 1 → o.group ≠ 0 → o.state = .opened ∨ o.state = .closing →
    (tfind s.groups o.group).isSome = true → o.group ∈ (s.cancelTree (k * 16384 + o.reuse)).groupsSent) ∧
  (∀ s g, s.input = .num g →
    (s.groupRoots g = [] ∨ s.portOpen = false → exec .groupCancelReceive s = .next s) ∧
    (∀ k o, s.portOpen = true → s.groupRoots g = [(k, o)] → o.cancelled = false →
      (s.fabricOpen (k / 65536) = false ∨ s.treeHeld (k / 65536) (k * 16384 + o.reuse) = true →
        exec .groupCancelReceive s = .next s) ∧
      (s.fabricOpen (k / 65536) = true → s.treeHeld (k / 65536) (k * 16384 + o.reuse) = false →
        exec .groupCancelReceive s = .next (s.cancelTree (k * 16384 + o.reuse)))) ∧
    (s.portOpen = true → (∀ p ∈ s.groupRoots g, p.2.cancelled = false →
        s.fabricOpen (p.1 / 65536) = true ∧ s.treeHeld (p.1 / 65536) (p.1 * 16384 + p.2.reuse) = false) →
      ∃ s' : State, exec .groupCancelReceive s = .next s' ∧
        ∀ k o, (k, o) ∈ s.groupRoots g → tfind s.scopes k = some o → ∃ o', tfind s'.scopes k = some o' ∧ o'.cancelled = true))

namespace Sys2Proof.Machine

/-- A queue wiped and DISABLED; one that was not empty was non-empty until now (R303, R333, R407). -/
def wipedQueue (s : State) (x : Queue) : Queue :=
  { Queue.idle with busySince := if x.notify = x.ridx then x.busySince else s.time }

end Sys2Proof.Machine

/-- R13, R328, R329, R332, R333, R339, R404, R405, R407, R409, R417: what the host's writes to queue and function
registers do; a stalled port or link does not take them yet, a device that did not boot ignores them, a function
locked under TDISP refuses and counts them, and NOTIFY writes in ERROR or during a function reset are discarded and
counted, or kept during a takeover. Events, interrupts and debug answers of a die reach the host in their order once
no clock step stalls their way (R13, R409), and a device that did not boot reads 0 (R417). R19, R295, R327, R328,
R330, R334, R336, R338, R419: what a write does to each register without behaviour of its own. R18, R388: CXL.mem. The
model's choice: the names of registers without an offset, ENABLE, the end of a function reset, writes of what does not
exist, IDE torn down under a lock, the addresses of CXL.mem and its answer for poison, and that the Kiln performs most
requests, over links that do not stall and with its standby in reach (logs 17, 18, 31, 32, 33, 39, 47). -/
def Obligations.HostRegisters : Prop :=
  (∀ s : State,
    (s.time < (s.die 0).stallUntil → ∀ i ∈ [Instr.notifyWrite, .cheadWrite, .queueEnable, .queueDisable, .tokenCounterWrite,
      .registerWrite, .deviceEventClear, .cxlMemAccess, .flr, .tdispLock, .stopInterface], exec i s = .next s) ∧
    (s.hostKiln = false → ∀ i ∈ [Instr.cheadWrite, .queueEnable, .queueDisable, .tokenCounterWrite, .registerWrite, .flr,
      .tdispLock, .stopInterface], exec i s = .next s) ∧
    (s.hostKiln = false → s.takeoverUntil ≤ s.time → exec .notifyWrite s = .next s) ∧
    (s.booted = false → ∀ i ∈ [Instr.notifyWrite, .cheadWrite, .queueEnable, .queueDisable, .tokenCounterWrite, .registerWrite,
      .deviceEventClear, .cxlMemAccess], exec i s = .next s)) ∧
  (∀ s q v, s.input = .num2 q v → s.hostOpen = true → s.booted = true →
    (1024 ≤ q → exec .notifyWrite s = .next s ∧ exec .cheadWrite s = .next s) ∧
    (q < 1024 → s.time < s.takeoverUntil →
      let resets (g : Nat) : Prop := (s.func g).flr = true ∧ s.silentLive g = true ∧ s.time < (s.func g).flrAt + 100000000
      (resets (q / 16) ∨ resets 0 → exec .notifyWrite s = .next (s.setFunc (q / 16) { s.func (q / 16) with
        dropNotify := min ((s.func (q / 16)).dropNotify + 1) (2 ^ 32 - 1) })) ∧
      (¬resets (q / 16) → ¬resets 0 →
        exec .notifyWrite s = .next { s with lateNotify := s.lateNotify ++ [(q, v)] }))) ∧
  (∀ (s : State) f off, s.booted = false → s.readReg f off = 0) ∧
  (∀ (s : State) f, s.booted = true →
    (∀ i, i < 256 → s.readReg f (0x2000 + 8 * i) = ((tfind (s.func f).tokens i).getD 0).setWidth 64) ∧
    s.readReg 0 0x0900 = BitVec.ofNat 64 s.time ∧ s.readReg 0 0x0C00 = s.devEvents.setWidth 64 ∧
    (∀ d, d < 4 → s.readReg 0 (0x0A00 + 8 * d) = BitVec.ofNat 64 (s.die d).kvdrop)) ∧
  (∀ (s : State) d, (∀ p, s.toHost d p = posted s d p (s.deliver p)) ∧
    (∀ f v, s.deliver (.msix f v) = { s with sent := .msix f v :: s.sent }) ∧
    (∀ b, s.deliver (.event b) =
      { s with devEvents := s.devEvents ||| BitVec.ofNat 8 (2 ^ b), sent := .msix 0 0 :: s.sent }) ∧
    (∀ f tid why, s.hostLink d = true → s.deliver (.halted f tid why) = halts s d f tid why) ∧
    (∀ f ws, s.deliver (.answer f ws) = s.setFunc f { s.func f with dbgOut := (s.func f).dbgOut ++ ws }) ∧
    (s.hostLink d = true ↔ s.hostOpen = true ∧ s.linkOpen d 0 = true)) ∧
  (∀ s : State, s.drainPosts = ((s.posts.filter (fun p => s.hostLink p.1)).map (·.2)).foldl State.deliver
    { s with posts := s.posts.filter (fun p => !s.hostLink p.1) }) ∧
  (∀ s, s.hostKiln = true → s.booted = true → s.lateNotify = [] →
    (∀ q v, s.input = .num2 q v → q < 1024 →
      let x := s.queue q
      let w := BitVec.ofNat 32 v
      let f := q / 16
      let resets (g : Nat) : Prop := (s.func g).flr = true ∧ s.silentLive g = true ∧ s.time < (s.func g).flrAt + 100000000
      let dropped := Host.Outcome.next (s.setFunc f { s.func f with dropNotify := min ((s.func f).dropNotify + 1) (2 ^ 32 - 1) })
      exec .cheadWrite s = .next (s.setQueue q { x with chead := w }) ∧
      (s.takeoverUntil ≤ s.time →
        (resets f ∨ resets 0 ∨ x.state = .error → exec .notifyWrite s = dropped) ∧
        (¬resets f → ¬resets 0 → x.state ≠ .error →
          let y : Queue := { x with notify := w, busySince := if x.notify ≠ x.ridx ∧ w = x.ridx then s.time else x.busySince }
          (x.state = .disabled ∨ (w - x.ridx).toNat ≤ 2 ^ x.log2n → exec .notifyWrite s = .next (s.setQueue q y)) ∧
          (x.state = .active → 2 ^ x.log2n < (w - x.ridx).toNat → ∃ s' : State, exec .notifyWrite s = .next s' ∧
            s'.queue q = { y with state := .error, errVal := some w.toNat, head := none } ∧ ∀ r, r ≠ q → s'.queue r = s.queue r)))) ∧
    (s.journalOpen = true ↔ (s.standby = true → s.linkOpen 0 2 = true)) ∧
    (s.journalOpen = false → ∀ i ∈ [Instr.queueEnable, .tokenCounterWrite, .stopInterface], exec i s = .next s) ∧
    (∀ q, s.input = .num q → q < 1024 → s.locked (q / 16) = false →
      let x := s.queue q
      (s.journalOpen = true → x.state = .disabled → exec .queueEnable s = .next ((s.setQueue q { x with
        enable := true, state := .active, ridx := 0, notify := 0, cwidx := 0, chead := 0, errVal := none, head := none, hold := none
        busySince := if x.notify = x.ridx then x.busySince else s.time }).journalAdd (.enable q))) ∧
      (x.state ≠ .disabled → exec .queueEnable s = .next s) ∧
      (∃ s' : State, exec .queueDisable s = .next s' ∧ (s'.queue q).enable = false ∧ (s'.queue q).ridx = x.ridx ∧
        ((∀ p ∈ s.cmds, p.2.queue ≠ q) → x.errVal = none → (s'.queue q).state = .disabled) ∧
        ((∃ p ∈ s.cmds, p.2.queue = q ∧ p.2.silent = false) → (s'.queue q).state = x.state))) ∧
    (∀ f n v, s.input = .num3 f n v → f < 64 → s.locked f = false →
      (256 ≤ n → exec .tokenCounterWrite s = .next s) ∧
      (n < 256 → s.journalOpen = true → exec .tokenCounterWrite s =
        .next ((s.setFunc f { s.func f with tokens := tset (s.func f).tokens n (BitVec.ofNat 32 v) }).journalAdd
          (.token f n (BitVec.ofNat 32 v))))) ∧
    (∀ f, s.locked f = true → f < 64 →
      let refused := Host.Outcome.next (s.setFunc f { s.func f with refused := min ((s.func f).refused + 1) (2 ^ 32 - 1) })
      (∀ n v, s.input = .num3 f n v → s.journalOpen = true → exec .tokenCounterWrite s = refused) ∧
      (∀ q, s.input = .num q → q / 16 = f →
        (s.journalOpen = true → exec .queueEnable s = refused) ∧ exec .queueDisable s = refused) ∧
      (∀ r v, s.input = .reg r v → s.regOwner r = f → exec .registerWrite s = refused) ∧
      (∀ as v, s.input = .reg (.grant as) v → v.toNat % 64 = f → s.locked (s.regOwner (.grant as)) = false →
        s.regOwner (.grant as) < 64 → exec .registerWrite s = refused)) ∧
    (∀ r v, s.input = .reg r v → s.regOwner r < 64 → s.locked (s.regOwner r) = false →
      (∀ as, r = .grant as → s.locked (v.toNat % 64) = false) → exec .registerWrite s = .next (s.writeReg r v))) ∧
  (∀ s, s.hostOpen = true → s.booted = true →
    (∀ m, s.input = .num m →
      let e := s.devEvents &&& ~~~(BitVec.ofNat 8 m &&& 0x7F#8)
      exec .deviceEventClear s = .next { s with devEvents := e, sent := if e = 0 then s.sent else .msix 0 0 :: s.sent }) ∧
    (∀ f addr n data, s.input = .cxl f addr n data → f ≠ 0 → s.walkFar 0 (addr / 2 ^ 56) (addr % 2 ^ 56) = true →
      exec .cxlMemAccess s = .next s) ∧
    (∀ f addr n, s.input = .cxl f addr n none → f = 0 ∨ s.walkFar 0 (addr / 2 ^ 56) (addr % 2 ^ 56) = false →
      (s.cxlLoc f addr n = none → exec .cxlMemAccess s = .next { s with sent := .cxlData [] :: s.sent }) ∧
      (∀ a, s.cxlLoc f addr n = some a →
        (s.homeOpen 0 a = true → exec .cxlMemAccess s = .next { s with
          sent := (if s.poisonIn a n = none then Sent.cxlData (s.bytesAt a n) else .cxlPoison) :: s.sent }) ∧
        (s.homeOpen 0 a = false → exec .cxlMemAccess s = .next s))) ∧
    (∀ f addr n bs, s.input = .cxl f addr n (some bs) → f = 0 ∨ s.walkFar 0 (addr / 2 ^ 56) (addr % 2 ^ 56) = false →
      (s.cxlLoc f addr bs.length = none → exec .cxlMemAccess s = .next s) ∧
      (∀ a, s.cxlLoc f addr bs.length = some a →
        (s.homeOpen 0 a = true → exec .cxlMemAccess s = .next (s.putBytes a bs)) ∧
        (s.homeOpen 0 a = false → exec .cxlMemAccess s = .next s))) ∧
    (∀ addr n, s.cxlLoc 0 addr n = if inMemory addr n then some addr else none)) ∧
  (∀ (s : State) (v : Word),
    (∀ q, q < 1024 → let x := s.queue q
      s.writeReg (.qbase q) v = (if x.enable then s else s.setQueue q { x with qbase := v &&& ~~~63#64, loc := v.getLsbD 0 }) ∧
      s.writeReg (.cbase q) v = (if x.enable then s else s.setQueue q { x with cbase := v &&& ~~~63#64 }) ∧
      (let n := v.toNat % 32
       (s.journalOpen = false → s.writeReg (.control q) v = s) ∧
       (s.journalOpen = true → s.writeReg (.control q) v = (s.setQueue q { x with
         vector := v.toNat / 2 ^ 24 % 2 ^ 8, prio := v.toNat / 2 ^ 8 % 2 ^ 3
         log2n := if x.enable = true ∨ n < 3 ∨ 16 < n then x.log2n else n }).journalAdd (.prio q (v.toNat / 2 ^ 8 % 2 ^ 3))))) ∧
    (∀ q, 1024 ≤ q → ∀ r ∈ [HostReg.qbase q, .cbase q, .control q], s.writeReg r v = s) ∧
    s.writeReg .devNum v = (if v.toNat < 768 then { s with devNum := v.toNat } else s) ∧
    s.writeReg .timeMaster v = { s with timeMaster := v.getLsbD 0 } ∧
    (∀ f, f < 64 → let x := s.func f
      s.writeReg (.logBase f) v = s.setFunc f { x with logBase := v.toNat } ∧
      s.writeReg (.logHead f) v = s.setFunc f { x with logHead := v.toNat } ∧
      s.writeReg (.dbgen f) v = s.setFunc f { x with dbgen := v.getLsbD 0 } ∧
      (v = 0 → s.writeReg (.logSize f) v = s.setFunc f { x with logSize := none }) ∧
      (6 ≤ v.toNat → v.toNat ≤ 20 → s.writeReg (.logSize f) v =
        s.setFunc f { x with logSize := some v.toNat, logHead := 0, logTail := 0 }) ∧
      (v ≠ 0 → v.toNat < 6 ∨ 20 < v.toNat → s.writeReg (.logSize f) v = s) ∧
      (∀ n, s.writeReg (.msix f n) v = if n < 64 then s.setFunc f { x with msix := tset x.msix n v } else s) ∧
      (v.getLsbD 0 = true ∨ (x.tdisp ≠ .run ∧ x.tdisp ≠ .locked) →
        s.writeReg (.ide f) v = s.setFunc f { x with ide := v.getLsbD 0 }) ∧
      (v.getLsbD 0 = false → x.tdisp = .locked → s.writeReg (.ide f) v = s) ∧
      (v.getLsbD 0 = false → x.tdisp = .run →
        (s.silenceHeld f = true → s.writeReg (.ide f) v = s) ∧
        (s.silenceHeld f = false → f ≠ 0 → (∀ p ∈ s.cmds, p.2.queue / 16 ≠ f) → s.writeReg (.ide f) v =
          (s.setFunc f { x with ide := false, tdisp := .error }).journalAdd (.silence f)))) ∧
    (∀ f n, 64 ≤ f → ∀ r ∈ [HostReg.logBase f, .logSize f, .logHead f, .dbgen f, .msix f n, .ide f], s.writeReg r v = s) ∧
    (∀ as, let a := (tfind s.aspaces as).getD ⟨0, none, []⟩
      let b : Aspace := { a with grant := if v = 0 then none else some (v.toNat % 64) }
      s.writeReg (.grant as) v = { s with aspaces := tset s.aspaces as b }))

namespace Sys2Proof.Machine

/-- A scope is the scope `sid`, or below it through live scopes alone (R34). -/
def Below (s : State) (sid : Nat) : Nat → Nat → Prop
  | 0, x => x = sid
  | n + 1, x => x = sid ∨ ∃ c, s.scope? x = some c ∧ (c.state = .opened ∨ c.state = .closing) ∧ c.parent ≠ 0 ∧
      Below s sid n c.parent
/-- A scope is faulted, with the cause of its first fault, and it and what is below it are cancelled (R364). -/
def Blamed (s s' : State) (sid cause : Nat) : Prop :=
  ∀ r, s.scope? sid = some r → r.state = .opened ∨ r.state = .closing →
    (∃ r', s'.scope? sid = some r' ∧ r'.faulted = true ∧ r'.cancelled = true ∧
      r'.cause = (if r.faulted then r.cause else cause)) ∧
    (∀ k o, tfind s.scopes k = some o → o.state ≠ .free → o.state ≠ .joined →
      Below s sid 256 (k * 16384 + o.reuse) → ∃ o', tfind s'.scopes k = some o' ∧ o'.cancelled = true) ∧
    ∀ u x x', s.thread? u = some x → Below s sid 256 x.sid0 → s'.thread? u = some x' → x'.cancel = true
/-- A command is cancelled and hard-killed: its root is blamed, and every thread of it ends (R378, R379, R407). -/
def KilledHard (s s' : State) (id root cause : Nat) : Prop :=
  Blamed s s' root cause ∧ ∀ u x x', s.thread? u = some x → x.cmd = id → s'.thread? u = some x' → x'.ending = true
/-- The commands of function f, or of every function, end without a completion: those whose root is live are killed, and
kept until it joins; a command on an address space is kept while it drains; the others are dropped (R407, R408). -/
def Silenced (s s' : State) (f : Nat) : Prop :=
  ∀ id c, tfind s.cmds id = some c →
    (f ≠ 0 ∧ c.queue / 16 ≠ f → tfind s'.cmds id = some c) ∧
    (f = 0 ∨ c.queue / 16 = f → id ∉ s'.donePosts ∧
      (s.rootLive c = true → tfind s'.cmds id = some { c with silent := true } ∧ KilledHard s s' id c.root 54) ∧
      (s.rootLive c = false →
        ((∃ ops, c.phase = .draining ops) → tfind s'.cmds id = some { c with silent := true }) ∧
        ((∀ ops, c.phase ≠ .draining ops) → tfind s'.cmds id = none)))
/-- A page of a stream's list below its G (R396). -/
def CommittedIn (st : Stream) (pa : Nat) : Prop := ∃ j, 16 * j < st.g ∧ (st.pages[j]?).map (·.pa) = some pa
/-- A stream is DAMAGED, and its OWNER is blamed with cause 30 (R396). -/
def DamagedIn (s s' : State) (k : Nat) (st : Stream) : Prop :=
  tfind s'.streams k = some { st with damaged := true } ∧ Blamed s s' st.owner 30
/-- The entry at a is dropped, and counted by die d (R396). -/
def DroppedAt (s s' : State) (d a : Nat) : Prop :=
  s' = { s with poison := s'.poison, dies := s'.dies } ∧
    (∀ n, n ∈ s'.poison ↔ n ∈ s.poison ∨ n = a / 64 ∨ n / 64 = a / 4096) ∧
    s'.die d = { s.die d with kvdrop := ((s.die d).kvdrop + 1) % 2 ^ 64 } ∧ ∀ e, e ≠ d → s'.die e = s.die e
/-- An error at a in a page of the key-value memory is classified (R396): in a page that the prefix table owns, in an
entry of a stream's own page below its G, beyond it, or in a page of a pool. -/
def Classified (s s' : State) (a : Nat) : Prop :=
  let pa := a / 65536 * 65536
  let owned := ∃ p ∈ s.pfx, p.2.page = pa
  let lists (st : Stream) : Prop := st.live = true ∧ ∃ k ∈ st.pages, k.pa = pa
  let listed := ∃ p ∈ s.streams, lists p.2
  let pooled := ∃ p ∈ s.streams, p.2.live = true ∧ pa ∈ p.2.pool
  (∀ e x, tfind s.pfx e = some x → x.page = pa → (∀ p ∈ s.pfx, p.2.page = pa → p.1 = e) →
    tfind s'.pfx e = some { x with damaged := true } ∧ (∀ f, f ≠ e → tfind s'.pfx f = tfind s.pfx f) ∧
    (∀ k st, tfind s.streams k = some st → st.live = true →
      (CommittedIn st pa → DamagedIn s s' k st) ∧ (¬CommittedIn st pa → tfind s'.streams k = some st)) ∧
    (∀ d, (s'.die d).kvdrop = (s.die d).kvdrop) ∧ (∀ n, n ∈ s'.poison ↔ n ∈ s.poison ∨ n = a / 64)) ∧
  (∀ k st j, tfind s.streams k = some st → st.live = true → (st.pages[j]?).map (·.pa) = some pa →
    (∀ i, i < j → (st.pages[i]?).map (·.pa) ≠ some pa) → ¬owned → (∀ p ∈ s.streams, lists p.2 → p.1 = k) →
    (16 * j + a % 65536 / 4096 < st.g → DamagedIn s s' k st ∧ (∀ i, i ≠ k → tfind s'.streams i = tfind s.streams i) ∧
      (∀ d, (s'.die d).kvdrop = (s.die d).kvdrop) ∧ (∀ n, n ∈ s'.poison ↔ n ∈ s.poison ∨ n = a / 64)) ∧
    (st.g ≤ 16 * j + a % 65536 / 4096 → DroppedAt s s' (k / 16384) a)) ∧
  (∀ k st, (k, st) ∈ s.streams → st.live = true → pa ∈ st.pool → ¬owned → ¬listed →
    (∀ p ∈ s.streams, p.2.live = true → pa ∈ p.2.pool → p.1 = k) → DroppedAt s s' (k / 16384) a) ∧
  (¬owned → ¬listed → ¬pooled → pa ∈ (s.die (a / 0x3000000000)).kvPool → DroppedAt s s' (a / 0x3000000000) a) ∧
  (¬owned → ¬listed → ¬pooled → pa ∉ (s.die (a / 0x3000000000)).kvPool →
    s' = { s with poison := s'.poison } ∧ ∀ n, n ∈ s'.poison ↔ n ∈ s.poison ∨ n = a / 64)

end Sys2Proof.Machine

/-- R333, R339 to R341, R388, R396, R407, R408, R410, R413, R417: function resets, TDISP, life-cycle changes, device
reset, SPDM requests, and failures of Kilns, tiles and memory: what an FLR, a failed IDE stream and a trip end of the
commands that are live, what a map-out ends on its tile, and what an error in a key-value page damages or drops. R342,
R343, R416: a die at its limit steps its clock down at its next cycle boundary, at most once in 100 µs; after 1 ms of
rest a step is taken back, and the arrays' full rate; 1 ms at the limit at 900 MHz halves that rate; at 105 °C, or
when the coolant fails, the device trips. The SPDM answers, the length of a takeover, what the standby's own state
holds, STOP_INTERFACE, what a reset keeps and the form of a sample are the model's choice (logs 15, 18, 32, 45, 46);
that an FLR without live roots is over at once (log 39), that TDISP_LOCK without IDE on the function changes nothing,
read from R327 (log 32), and that what cancels or ends something waits for the links to it (log 47) are its readings.
-/
def Obligations.ResetsFailuresAndThermalSteps : Prop :=
  ((∀ s f, s.input = .num f → s.hostKiln = true → f < 64 → s.lateNotify = [] → (∀ p ∈ s.cmds, f ≠ 0 ∧ p.2.queue / 16 ≠ f) →
    let hit (g : Nat) : Prop := g < 64 ∧ (f = 0 ∨ g = f)
    s.journalOpen = true → (∀ g, hit g → s.unsetFar g = false) →
    ∃ s' : State, exec .flr s = .next s' ∧ (s'.func f).flr = false ∧ (s'.func f).flrAt = s.time ∧
      (∀ g, hit g → (s'.func g).session = none ∧ ((tfind s.funcs g).isSome = true → (s'.func g).tdisp = .unlocked ∧
        (s'.func g).ide = false ∧ (s'.func g).tokens = [] ∧ (s'.func g).msix = [] ∧ (s'.func g).doe = [] ∧ (s'.func g).dbgOut = [])) ∧
      (∀ g, ¬hit g → s'.func g = s.func g) ∧
      (∀ q, hit (q / 16) → s'.queue q = wipedQueue s (s.queue q)) ∧ (∀ q, ¬hit (q / 16) → s'.queue q = s.queue q) ∧
      s'.cmds = s.cmds ∧ s'.mem = s.mem ∧
      (∀ e, e ∈ s'.dbgScopes ↔ e ∈ s.dbgScopes ∧ ¬(hit e.1 ∧ (s.func e.1).session.isSome = true)) ∧
      (∀ p, p ∈ s'.posts ↔ p ∈ s.posts ∧ match p.2 with
        | .answer g _ => ¬hit g
        | .halted g _ _ => ¬(hit g ∧ (s.func g).session.isSome = true)
        | _ => True)) ∧
  (∀ s f, s.input = .num f → s.hostKiln = true → f < 64 → s.lateNotify = [] → s.silenceHeld f = false →
    (s.cmds.map (·.1)).Nodup → (∀ g, g < 64 ∧ (f = 0 ∨ g = f) → s.unsetFar g = false) →
    ∃ s' : State, exec .flr s = .next s' ∧ Silenced s s' f ∧ (s'.func f).flrAt = s.time ∧
      ((s'.func f).flr = true ↔ ∃ p ∈ s'.cmds, p.2.silent = true ∧ p.2.root ≠ 0 ∧ (f = 0 ∨ p.2.queue / 16 = f)) ∧
      (∀ q, q < 1024 → f = 0 ∨ q / 16 = f → s'.queue q = wipedQueue s (s.queue q))) ∧
  (∀ s f, s.input = .num f → f < 64 → (s.silenceHeld f = true ∨ ∃ g, g < 64 ∧ (f = 0 ∨ g = f) ∧ s.unsetFar g = true) →
    exec .flr s = .next s) ∧
  (∀ s f run, s.input = .numFlag f run → s.hostKiln = true →
    let x := s.func f
    exec .tdispLock s = .next (if f = 0 ∨ 63 < f ∨ x.ide = false then s
      else if run = true ∧ x.tdisp = .locked then s.setFunc f { x with tdisp := .run }
      else if run = false ∧ x.tdisp = .unlocked then s.setFunc f { x with tdisp := .locked } else s)) ∧
  (∀ s f, s.input = .num f → s.hostKiln = true →
    ((s.func f).tdisp = .unlocked → exec .stopInterface s = .next s) ∧
    ((s.func f).tdisp ≠ .unlocked → s.journalOpen = true → ∃ s' : State, exec .stopInterface s = .next s' ∧
      s'.func f = { s.func f with tdisp := .unlocked } ∧ (∀ q, q / 16 = f → s'.queue q = wipedQueue s (s.queue q)) ∧
      (∀ q, q / 16 ≠ f → s'.queue q = s.queue q) ∧
      (∀ p ∈ s'.cmds, p.2.queue / 16 = f → p.2.silent = true ∧ p.2.phase ≠ .finished ∧ ¬(p.2.phase = .taken ∧ p.2.op = 3)) ∧
      (∀ p ∈ s.cmds, p.2.queue / 16 ≠ f → p ∈ s'.cmds) ∧ s'.threads = s.threads ∧ s'.mem = s.mem)) ∧
  (∀ s f, s.input = .num f →
    ((s.func f).tdisp ≠ .run → exec .ideFailure s = .next s) ∧
    ((s.func f).tdisp = .run →
      (s.silenceHeld f = true → exec .ideFailure s = .next s) ∧
      (s.silenceHeld f = false → f ≠ 0 → (∀ p ∈ s.cmds, p.2.queue / 16 ≠ f) → exec .ideFailure s =
        .next ((s.setFunc f { s.func f with tdisp := .error }).journalAdd (.silence f))) ∧
      (s.silenceHeld f = false → f ≠ 0 → (s.cmds.map (·.1)).Nodup → ∃ s' : State, exec .ideFailure s = .next s' ∧
        (s'.func f).tdisp = .error ∧ Silenced s s' f ∧ s'.queues = s.queues))) ∧
  (∀ s, ∀ p ∈ [(Instr.lifecycleProvision, Life.blank, Life.provisioned), (.lifecycleDeploy, .provisioned, .deployed),
      (.lifecycleReturn, .deployed, .returned), (.lifecycleReprovision, .returned, .provisioned)],
    (s.life ≠ p.2.1 → exec p.1 s = .next s) ∧
    (s.life = p.2.1 → s.memOk → ∃ s' : State, exec p.1 s = .next s' ∧ s' = { s with life := p.2.2, mem := s'.mem, poison := s'.poison } ∧
      (∀ a, a < locSram → byteAt s' a = 0) ∧ (∀ a, locSram ≤ a → byteAt s' a = byteAt s a))) ∧
  (∀ s vs out lost ch bytes, s.input = .boot vs out lost ch bytes → s.memOk → ∃ s' : State, exec .deviceReset s = .next s' ∧
    s'.threads = [] ∧ s'.scopes = [] ∧ s'.tasks = [] ∧ s'.queues = [] ∧ s'.streams = [] ∧ s'.cmds = [] ∧ s'.life = s.life ∧
    s'.devEvents = 0 ∧ (s'.booted = true ↔ vs = [true, true, true, true]) ∧
    (∀ l, (s'.tile l).outOfService = true ↔ l ∈ out) ∧
    (∀ i, i < 4 → tfind s'.measured (i + 1) = if i < vs.length ∧ ∀ j, j < i → vs.getD j false = true then
      some (Config.imageDigest (i + 1) (vs.getD i false)).toList else none) ∧
    (∀ a, locSram ≤ a → a < locHost → byteAt s' a = 0) ∧ (∀ a, locHost ≤ a → byteAt s' a = byteAt s a) ∧
    (∀ d, d < 4 → (s'.die d).mhz = 1800 ∧ (s'.die d).cycle = 0)) ∧
  (∀ s f bs, s.input = .bytes f bs → s.hostOpen = true → f < 64 → (s.booted = true ∨ f = 0) →
    ∀ p ∈ [(Instr.spdmVersion, (0x84 : Nat)), (.spdmCapabilities, 0xE1), (.spdmAlgorithms, 0xE3), (.spdmDigests, 0x81),
        (.spdmCertificate, 0x82), (.spdmChallenge, 0x83), (.spdmMeasurements, 0xE0), (.spdmKeyExchange, 0xE4)],
      exec p.1 s = .next (s.setFunc f { s.func f with doe := Config.spdmBody p.2 bs s.measured6 })) ∧
  (∀ s, s.kilnFailed = true → exec .kilnTakeover s = .next s ∧ exec .kilnReload s = .next s) ∧
  (∀ s, s.kilnFailed = false →
    let fails := Host.Outcome.next (if s.standby then raises { s.adopt with
        kilnDie := 2 - s.kilnDie, standby := false, takeovers := s.takeovers + 1
        takeoverUntil := s.time + s.takeoverLen } (2 - s.kilnDie) 1
      else raises { s with kilnFailed := true } s.kilnDie 7)
    s.takeoverLen ≤ 40000 ∧
    (∀ n, s.input = .num n → (10000 ≤ n → exec .kilnTakeover s = fails) ∧ (n < 10000 → exec .kilnTakeover s = .next s)) ∧
    (∀ d, s.input = .numFlag d true →
      (d = s.kilnDie → exec .kilnScrub s = fails) ∧
      (d ≠ s.kilnDie → d = 2 - s.kilnDie → exec .kilnScrub s = .next { s with standby := false })) ∧
    (∀ d, s.input = .numFlag d false → exec .kilnScrub s = .next s) ∧
    (∀ ok, s.input = .flag ok → s.standby = true → exec .kilnReload s = .next s) ∧
    (∀ ok, s.input = .flag ok → s.standby = false → exec .kilnReload s = .next (if ok
      then { s with takeovers := s.takeovers + 1, standby := true, replica := s.journal, shadow := s.sched }
      else raises { s with takeovers := s.takeovers + 1 } (2 - s.kilnDie) 6))) ∧
  (∀ s : State, ∃ t : State, s.adopt = t ∧ t = { s with queues := t.queues, funcs := t.funcs, journal := s.replica } ∧
    (∀ p ∈ s.queues, ∀ x, tfind t.queues p.1 = some x → x.ridx = (tfind s.shadow.ridx p.1).getD 0 ∧
      x.cwidx = (tfind s.shadow.cwidx p.1).getD 0 ∧ x.prio = (tfind s.shadow.prio p.1).getD 0 ∧
      ∀ y, tfind s.queues p.1 = some y → x = { y with ridx := x.ridx, cwidx := x.cwidx, prio := x.prio }) ∧
    (∀ f n x, n < 256 → tfind t.funcs f = some x → tfind x.tokens n = tfind s.shadow.tokens (256 * f + n))) ∧
  (∀ s : State, s.kilnFailed = false → s.standby = true → s.shadow = s.sched → s.replica = s.journal →
    (∀ p ∈ s.funcs, ∀ k ∈ p.2.tokens, k.1 < 256) → (s.funcs.map (·.1)).Nodup → (s.queues.map (·.1)).Nodup → s.adopt = s) ∧
  (∀ s l, s.input = .num l →
    (s.mapHeld l = true → exec .tileMapout s = .next s) ∧
    (s.inService l = false → exec .tileMapout s = .next s) ∧
    (s.mapHeld l = false → s.inService l = true → s.memOk → ∃ t : State,
      exec .tileMapout s = .next (raises t (l / 256) 2) ∧ t.devEvents = s.devEvents ∧
      (∀ u x, s.thread? u = some x → x.tile = l →
        (x.loc = .queued → ∃ i ∈ (s.cluster (l / 16)).ready, i.isTask = false ∧ i.record = u ∧ i.place = some l) →
        Blamed s t x.sid0 55 ∧ ∀ y, t.thread? u = some y → y.ending = true) ∧
      t.tile l = { Tile.idle with
        outOfService := true, tracker := (t.tile l).tracker
        copies := ((s.tile l).copies.filter (fun c => s.copyWaits l c.id false)).map (fun c => { c with cancelled := true }) } ∧
      (s.tile l).tracker <+: (t.tile l).tracker ∧
      (∀ c ∈ (s.tile l).copies, s.copyWaits l c.id false = false → c.weight ≠ 0 →
        ⟨c.sid, c.weight, .member, l / 256⟩ ∈ t.returns) ∧
      (∀ a, byteAt t a = if tlLoc l 0 ≤ a ∧ a < tlLoc l 0x60000 then 0 else byteAt s a)) ∧
    (s.inService l = true → (∀ p ∈ s.threads, p.2.tile ≠ l) → (s.tile l).copies = [] → s.memOk → ∃ s' : State,
      exec .tileMapout s = .next (raises s' (l / 256) 2) ∧
      s'.tile l = { Tile.idle with outOfService := true, tracker := (s.tile l).tracker } ∧ s'.devEvents = s.devEvents ∧
      (∀ k, k ≠ l → s'.tile k = s.tile k) ∧ s'.threads = s.threads ∧
      (∀ a, tlLoc l 0 ≤ a → a < tlLoc l 0x60000 → byteAt s' a = 0) ∧
      (∀ a, a < tlLoc l 0 ∨ tlLoc l 0x60000 ≤ a → byteAt s' a = byteAt s a) ∧
      (∀ k o, tfind (s.cluster (l / 16)).owns k = some o → tfind (s'.cluster (l / 16)).owns k =
        some (if o.state = .held ∧ o.holder = l % 16 then { o with state := .free } else o)))) ∧
  (∀ s u, s.input = .num u → s.damageHeld (64 * u / 65536 * 65536) = true → exec .patrolScrub s = .next s) ∧
  (∀ s u, s.input = .num u → s.damageHeld (64 * u / 65536 * 65536) = false →
    ∃ s' : State, exec .patrolScrub s = .next s' ∧ s'.mem = s.mem ∧ Classified s s' (64 * u)) ∧
  (∀ s l k, s.input = .num2 l k → k < 4096 → ∃ s' : State, exec .patrolScrub s = .next s' ∧
    ∀ acc row, (s'.tile l).rowPoisoned acc row = ((s.tile l).rowPoisoned acc row || decide (k / 8 = acc * 128 + row)))) ∧
  ((∀ s d temp power limit, s.input = .sample d temp power limit → d < 4 →
    let x := s.die d
    let hot := 760 ≤ temp ∨ limit = true
    let rested := ∀ t, x.lastStep = some t → 100000 ≤ s.time - t
    let c := x.nextMhz.getD x.mhz
    let down := if c = 1800 then 1500 else if c = 1500 then 1200 else 900
    let cool := if temp ≤ 720 ∧ limit = false then some (x.coolSince.getD s.time) else none
    ∃ (s' : State) (y : Die), exec .tempPowerSample s = .next s' ∧ s' = { s with dies := s'.dies } ∧ s'.die d = y ∧
      y.coolSince = cool ∧ y.limitSince = (if hot ∧ x.mhz = 900 then some (x.limitSince.getD s.time) else none) ∧
      (y.halved = true ↔ x.halved = true ∧ ∀ t, cool = some t → s.time - t < 1000000) ∧
      (∀ e, e ≠ d → s'.die e = s.die e) ∧ y.temp = temp ∧ y.power = power ∧ (y.atLimit = true ↔ hot) ∧
      (hot → rested → c ≠ 900 → y.stepped = x.stepped + 1 ∧ y.lastStep = some s.time ∧
        (x.phase = 0 → y.mhz = down ∧ y.nextMhz = none ∧ y.stallUntil = max x.stallUntil (s.time + 2000)) ∧
        (x.phase ≠ 0 → y.mhz = x.mhz ∧ y.nextMhz = some down ∧ y.stallUntil = x.stallUntil)) ∧
      (¬(hot ∧ rested ∧ c ≠ 900) → y.mhz = x.mhz ∧ y.nextMhz = x.nextMhz ∧ y.stepped = x.stepped ∧
        y.lastStep = x.lastStep ∧ y.stallUntil = x.stallUntil)) ∧
  (∀ s d, s.input = .num d →
    let x := s.die d
    let c := x.nextMhz.getD x.mhz
    let up := if c = 900 then 1200 else if c = 1200 then 1500 else 1800
    (∀ t, x.coolSince = some t → 1000000 ≤ s.time - t → 0 < x.stepped → c ≠ 1800 → s.tripped = false →
      ∃ (s' : State) (y : Die), exec .thermalStepUp s = .next s' ∧ s'.die d = y ∧ (∀ e, e ≠ d → s'.die e = s.die e) ∧
        (x.phase = 0 → y.mhz = up ∧ y.nextMhz = none ∧ y.stallUntil = max x.stallUntil (s.time + 2000)) ∧
        (x.phase ≠ 0 → y.mhz = x.mhz ∧ y.nextMhz = some up) ∧
        y.stepped = x.stepped - 1 ∧ y.lastStep = x.lastStep ∧ y.coolSince = some s.time ∧ y.halved = false) ∧
    ((x.coolSince = none ∨ (∃ t, x.coolSince = some t ∧ s.time - t < 1000000) ∨ x.stepped = 0 ∨ c = 1800 ∨ s.tripped = true) →
      exec .thermalStepUp s = .next s) ∧
    (∀ t, x.limitSince = some t → 1000000 ≤ s.time - t → x.mhz = 900 → x.halved = false → exec .thermal s =
      .next (raises (s.setDie d { x with halved := true }) d 4)) ∧
    (x.limitSince = none ∨ x.mhz ≠ 900 ∨ x.halved = true → exec .thermal s = .next s) ∧
    (x.temp < 840 → exec .trip s = .next s)) ∧
  (∀ s, ((∃ d, s.input = .num d ∧ 840 ≤ (s.die d).temp) ∨ s.input = .flag true) →
    let s1 := raises (raises { s with tripped := true } s.kilnDie 5) s.kilnDie 7
    (s.tripped = true ∨ s.tripHeld = true → exec .trip s = .next s) ∧
    (s.tripped = false → s.tripHeld = false → ∃ s' : State, exec .trip s = .next s' ∧ s'.tripped = true ∧
      s'.devEvents = s1.devEvents ∧ s1.posts <+: s'.posts ∧ s'.cmds = s.cmds ∧ s'.mem = s.mem ∧
      (∀ d, d < 4 → (s'.die d).nextMhz.getD (s'.die d).mhz = 900) ∧
      ∀ p ∈ s.cmds, s.rootLive p.2 = true → KilledHard s s' p.1 p.2.root 55) ∧
    (s.tripped = false → (∀ p ∈ s.cmds, s.rootLive p.2 = false) → ∃ s' : State, exec .trip s = .next s' ∧ s'.tripped = true ∧
      s'.devEvents = s1.devEvents ∧ s'.posts = s1.posts ∧ s'.sent = s1.sent ∧ (∀ d, d < 4 → (s'.die d).nextMhz.getD (s'.die d).mhz = 900) ∧ s'.mem = s.mem ∧ s'.threads = s.threads)))

namespace Sys2Proof.Machine

/-! ### Debug requests -/

/-- A debug request reaches function f's mailbox, with the code `op` in bits 7:0 of its header (R418). -/
def Asks (s : State) (f : Nat) (r : DbgReq) (op : Nat) : Prop :=
  s.input = .dbg f r ∧ f < 64 ∧ s.hostOpen = true ∧ r.hdr.toNat % 2 ^ 8 = op
/-- One that is in a session, has no reserved bit, and names a scope or a thread as `scope` says. -/
def AsksOf (s : State) (f : Nat) (r : DbgReq) (op : Nat) (scope : Bool) : Prop :=
  Asks s f r op ∧ (s.func f).session.isSome = true ∧ r.hdr.toNat / 2 ^ 17 % 2 ^ 15 = 0 ∧ r.hdr.getLsbD 16 = scope
/-- The answer to a request: one word with the result and the status, then the block (R418). -/
def answered (s : State) (f status result : Nat) (block : List Word) : State :=
  s.setFunc f { s.func f with dbgOut := (s.func f).dbgOut ++ BitVec.ofNat 64 (result * 2 ^ 32 + status) :: block }
/-- A live thread that the request names and its session may name, over a link that does not stall (R13, R419). -/
def Names (s : State) (f : Nat) (r : DbgReq) (k : Nat) (th : Thread) : Prop :=
  r.hdr.toNat / 2 ^ 32 = k * 256 + th.reuse ∧ th.reuse < 256 ∧ s.thread? k = some th ∧ th.ending = false ∧
    s.mayName f th.cmd = true ∧ s.linkOpen 0 (tileDie th.tile) = true
/-- A live scope that it names, likewise. -/
def NamesScope (s : State) (f : Nat) (r : DbgReq) (c : Scope) : Prop :=
  s.scope? (r.hdr.toNat / 2 ^ 32) = some c ∧ s.mayName f c.cmd = true ∧
    s.linkOpen 0 (r.hdr.toNat / 2 ^ 32 / 0x40000000) = true
/-- The request's response is still to come (R418). -/
def awaits (s : State) (f : Nat) (k : DbgWait) : State :=
  s.setFunc f { s.func f with dbgWait := (s.func f).dbgWait ++ [k] }
/-- A STEP of the thread that a halt overtook is answered BLOCKED before the next one (R418, log 34). -/
def stepAnew (s : State) (f tid : Nat) : State :=
  if DbgWait.step tid ∈ (s.func f).dbgWait then s.setFunc f { s.func f with
    dbgWait := (s.func f).dbgWait.filter (fun k => k != .step tid), dbgOut := (s.func f).dbgOut ++ [4] } else s
/-- Every thread born in a scope or below it, changed by g (R421, R424). -/
def treeThreads (s : State) (sid : Nat) (g : Thread → Thread) : List (Nat × Thread) :=
  s.threads.map (fun p => if s.under sid 256 p.2.sid0 then (p.1, g p.2) else p)

end Sys2Proof.Machine

/-- R418 to R425: what a request answers when it may not be served, sessions, halts, resumes and steps. R421, R428,
R429: breakpoints and watchpoints, the blocks a READ returns, what a WRITE changes, and MEM. A HALT of a thread
with operations at a peer, a STEP and a MEM answer when they come to their end. A write of the pc, a STEP that a halt
overtook, the layouts of the answers and the answer to a code that R420 does not list are the model's choice (logs 34,
41); that a HALT drops a thief's RSTEAL, to be asked anew, is read from R44, R187 and R424 (log 20); requests wait for
stalled links (log 47). R421: of the entries that sessions hold for a scope tree, a thread born into it takes for each
number the one written last. -/
def Obligations.DebugRequests : Prop :=
  ((∀ (s : State) (f : Nat) (r : DbgReq), ∀ p ∈ [(Instr.detach, (0x02 : Nat)), (.halt, 0x10), (.resume, 0x11), (.step, 0x12), (.setbp, 0x20), (.setwp, 0x21),
      (.read, 0x30), (.write, 0x31), (.scope, 0x32), (.mem, 0x33), (.events, 0x40)],
    Asks s f r p.2 →
      ((s.func f).session = none → exec p.1 s = .next (answered s f 1 0 [])) ∧
      ((s.func f).session.isSome = true → r.hdr.toNat / 2 ^ 17 % 2 ^ 15 ≠ 0 → exec p.1 s = .next (answered s f 7 0 []))) ∧
  (∀ (s : State) (f : Nat) (r : DbgReq), ∀ p ∈ [(Instr.halt, (0x10 : Nat)), (.resume, 0x11), (.step, 0x12), (.read, 0x30), (.write, 0x31), (.mem, 0x33)],
    AsksOf s f r p.2 false →
      let tid : Nat := r.hdr.toNat / 2 ^ 32
      ((∀ th : Thread, s.thread? (tid / 256) = some th → th.reuse = tid % 256 →
          th.ending = true ∧ s.linkOpen 0 (tileDie th.tile) = true) → exec p.1 s = .next (answered s f 3 0 [])) ∧
      (∀ th : Thread, s.thread? (tid / 256) = some th → th.reuse = tid % 256 → s.linkOpen 0 (tileDie th.tile) = false →
        exec p.1 s = .next s) ∧
      (∀ th : Thread, s.thread? (tid / 256) = some th → th.reuse = tid % 256 → th.ending = false →
        s.linkOpen 0 (tileDie th.tile) = true → (if f = 0 then s.locked (s.ownerOf th.cmd) = true else s.ownerOf th.cmd ≠ f) →
        exec p.1 s = .next (answered s f 1 0 []))) ∧
  (∀ (s : State) (f : Nat) (r : DbgReq) (op : Nat), Asks s f r op →
    ∀ p ∈ [(Instr.attach, (0x01 : Nat)), (.detach, 0x02), (.halt, 0x10), (.resume, 0x11), (.step, 0x12), (.setbp, 0x20),
      (.setwp, 0x21), (.read, 0x30), (.write, 0x31), (.scope, 0x32), (.mem, 0x33), (.events, 0x40)], op ≠ p.2 →
      let listed := op ∈ [0x01, 0x02, 0x10, 0x11, 0x12, 0x20, 0x21, 0x30, 0x31, 0x32, 0x33, 0x40]
      (listed → exec p.1 s = .next s) ∧
      (¬listed → exec p.1 s = .next (answered s f (if (s.func f).session = none then 1 else 7) 0 []))) ∧
  (∀ (s : State) (f : Nat) (r : DbgReq), ∀ p ∈ [(Instr.halt, (0x10 : Nat)), (.resume, 0x11), (.scope, 0x32)], AsksOf s f r p.2 true →
    let sid : Nat := r.hdr.toNat / 2 ^ 32
    (s.scope? sid = none → exec p.1 s = .next (answered s f 3 0 [])) ∧
    (∀ c, s.scope? sid = some c → s.linkOpen 0 (sid / 0x40000000) = false → exec p.1 s = .next s) ∧
    (∀ c, s.scope? sid = some c → s.linkOpen 0 (sid / 0x40000000) = true → s.mayName f c.cmd = false →
      exec p.1 s = .next (answered s f 1 0 [])) ∧
    (∀ c, NamesScope s f r c → s.haltFar 0 sid = true → p.2 ≠ 0x32 → exec p.1 s = .next s)) ∧
  (∀ (s : State) (f : Nat) (r : DbgReq) (k : Nat) (th : Thread), ∀ p ∈ [(Instr.step, (0x12 : Nat)), (.read, 0x30), (.write, 0x31)], AsksOf s f r p.2 false → Names s f r k th →
    th.halted = none → exec p.1 s = .next (answered s f 2 0 [])) ∧
  (∀ (s : State) (f : Nat) (r : DbgReq), Asks s f r 0x01 →
    let w : Nat := (r.ws.getD 0 0).toNat
    ((s.func f).session.isSome = true ∨ (f ≠ 0 ∧ (s.func f).dbgen = false) → exec .attach s = .next (answered s f 1 0 [])) ∧
    ((s.func f).session = none → (f = 0 ∨ (s.func f).dbgen = true) → r.hdr.toNat / 2 ^ 17 % 2 ^ 15 = 0 → w < 2 ^ 8 →
      exec .attach s = .next (answered (s.setFunc f { s.func f with session := some ⟨w, []⟩ }) f 0 0 []))) ∧
  (∀ (s : State) (f : Nat) (r : DbgReq) (b : Bool), AsksOf s f r 0x02 b → s.unsetFar f = true → exec .detach s = .next s) ∧
  (∀ (s : State) (f : Nat) (r : DbgReq) (b : Bool), AsksOf s f r 0x02 b → s.unsetFar f = false → ∃ s' : State, exec .detach s = .next s' ∧ (s'.func f).session = none ∧
    s'.dbgScopes = s.dbgScopes.filter (fun e => e.1 != f) ∧
    (∀ p, p ∈ s'.posts ↔ p ∈ s.posts ∧ ∀ tid why, p.2 ≠ .halted f tid why) ∧
    (∀ (k : Nat) (th : Thread), s.thread? k = some th → ∃ th' : Thread, s'.thread? k = some th' ∧
      (∀ (i : Nat) (h : i < 8), th'.bp[i] = if th.bpBy[i] = f then 0 else th.bp[i]) ∧
      (∀ (i : Nat) (h : i < 4), th'.wp[i] = if th.wpBy[i] = f then ⟨0, 0, 0⟩ else th.wp[i]) ∧
      th' = { th with bp := th'.bp, wp := th'.wp, halted := if th.haltedBy = f then none else th.halted
                      halting := th.halting && th.haltedBy != f, stepping := if th.stepping = some f then none else th.stepping })) ∧
  (∀ (s : State) (f : Nat) (r : DbgReq) (k : Nat) (th : Thread), AsksOf s f r 0x10 false → Names s f r k th →
    (th.halted.isSome = true → th.halting = false → exec .halt s = .next (answered s f 0 0 [])) ∧
    (th.halted = none → ∃ (s' : State) (th' : Thread), Halts f th th' ∧ exec .halt s = .next s' ∧ s'.thread? k = some th' ∧
      (∀ j, j ≠ k → s'.thread? j = s.thread? j) ∧ s'.mem = s.mem ∧
      (th'.halting = false → (s'.func f).dbgOut = (s.func f).dbgOut ++ [BitVec.ofNat 64 (2 ^ 32)] ∧ (s'.func f).dbgWait = (s.func f).dbgWait) ∧
      (th'.halting = true → (s'.func f).dbgOut = (s.func f).dbgOut ∧
        (s'.func f).dbgWait = (s.func f).dbgWait ++ [.halt [k * 256 + th.reuse] 1]))) ∧
  (∀ (s : State) (f : Nat) (r : DbgReq) (k : Nat) (th : Thread), AsksOf s f r 0x11 false → Names s f r k th → exec .resume s =
    .next (answered (s.setTh k (letGo th)) f 0 (if th.halted = none then 0 else 1) [])) ∧
  (∀ (s : State) (f : Nat) (r : DbgReq) (ss : Session) (c : Scope), (s.func f).session = some ss → NamesScope s f r c →
    let sid : Nat := r.hdr.toNat / 2 ^ 32
    s.haltFar 0 sid = false →
    let below := s.threads.filter (fun p => s.under sid 256 p.2.sid0 && !p.2.ending)
    let rest := s.dbgScopes.filter (fun e => !(e.1 == f && e.2.2 == .halt && s.under sid 256 e.2.1))
    (AsksOf s f r 0x10 true → (s.threads.map (·.1)).Nodup → ∃ s' : State, exec .halt s = .next s' ∧
      s'.dbgScopes = (f, sid, .halt) :: s.dbgScopes.filter (fun e => e != (f, sid, ScopeEntry.halt)) ∧
      (∀ k th, s.thread? k = some th → ∃ th', s'.thread? k = some th' ∧
        (if s.under sid 256 th.sid0 then Halts f th th' else th' = th)) ∧
      ((∀ p ∈ s.threads, p.2.halting = false ∧ (s.under sid 256 p.2.sid0 = true → p.2.remoteOut = none ∧ p.2.peer = [])) →
        (s'.func f).dbgOut = (s.func f).dbgOut ++ [BitVec.ofNat 64 ((below.filter (fun p => p.2.halted.isNone)).length * 2 ^ 32)])) ∧
    (AsksOf s f r 0x11 true → exec .resume s = .next (answered { s with
        threads := treeThreads s sid letGo, dbgScopes := rest } f 0 (below.filter (fun p => p.2.halted.isSome)).length []))) ∧
  (∀ (s : State) (th : Thread),
    let under (e : Nat × Nat × ScopeEntry) : Bool := s.under e.2.1 256 th.sid0
    let b := s.bornUnder th
    (∀ (i : Nat) (h : i < 8),
      match s.dbgScopes.find? (fun e => under e && (match e.2.2 with | .bp j _ => j == i | _ => false)) with
      | some (f, _, .bp _ w) => b.bp[i] = w ∧ b.bpBy[i] = f
      | _ => b.bp[i] = th.bp[i] ∧ b.bpBy[i] = th.bpBy[i]) ∧
    (∀ (i : Nat) (h : i < 4),
      match s.dbgScopes.find? (fun e => under e && (match e.2.2 with | .wp j _ => j == i | _ => false)) with
      | some (f, _, .wp _ w) => b.wp[i] = w ∧ b.wpBy[i] = f
      | _ => b.wp[i] = th.wp[i] ∧ b.wpBy[i] = th.wpBy[i]) ∧
    (match s.dbgScopes.find? (fun e => under e && e.2.2 == .halt) with
      | some (f, _, _) => b.halted = some .request ∧ b.haltedBy = f
      | none => b.halted = th.halted ∧ b.haltedBy = th.haltedBy)) ∧
  (∀ (s : State) (f : Nat) (r : DbgReq) (k : Nat) (th : Thread), AsksOf s f r 0x12 false → Names s f r k th → th.halted.isSome = true →
    let waits := awaits (stepAnew s f (k * 256 + th.reuse)) f (.step (k * 256 + th.reuse))
    (th.wait = none → exec .step s = .next (waits.setTh k { th with halted := none, skipCheck := true, stepping := some f })) ∧
    (∀ w : Wait, th.wait = some w → ∃ (s1 : State) (s' : State),
      s1 = waits.evalWait k { th with halted := none, stepping := some f } w ∧
      (HeldBack s s' k th → exec .step s = .next s) ∧ (¬HeldBack s s' k th → exec .step s = .next s') ∧ s'.mem = s1.mem ∧
      let answers (st : Nat) : Prop := (s'.func f).dbgOut = (s1.func f).dbgOut ++ [BitVec.ofNat 64 st] ∧
        DbgWait.step (k * 256 + th.reuse) ∉ (s'.func f).dbgWait
      (∀ x : Thread, s1.thread? k = some x → x.ending = false → x.stepping = some f → x.halting = false → x.halted = none →
        x.reuse = th.reuse → x.stalled = false → x.remoteOut = none → (∀ l rd t0, x.wait ≠ some ⟨.steal l, rd, t0⟩) →
        s'.thread? k = some { heldAs x .stepped f with
          loc := if x.loc = .parked ∧ x.wait = none then .queued else x.loc } ∧
        answers (if x.wait.isSome then 4 else if th.armed && !x.armed then 5 else 0)) ∧
      ((∀ x : Thread, s1.thread? k = some x → x.ending = true) → s'.thread? k = s1.thread? k ∧ answers 6))) ∧
  (∀ (s : State) (f : Nat) (r : DbgReq) (ss : Session) (b : Bool), AsksOf s f r 0x40 b → (s.func f).session = some ss → exec .events s =
    .next (answered (s.setFunc f { s.func f with session := some { ss with events := ss.events.drop 8 } }) f 0
      (min 8 ss.events.length) ((ss.events.take 8).map (fun e => wOf (e.1 * 2 ^ 32) ||| reasonWord (some e.2)))))) ∧
  ((∀ (s : State) (f : Nat) (r : DbgReq) (k : Nat) (th : Thread), Names s f r k th →
    let i : Nat := r.hdr.toNat / 2 ^ 8 % 2 ^ 8
    let w : Watch := ⟨r.ws.getD 0 0, r.ws.getD 1 0, r.ws.getD 2 0⟩
    (AsksOf s f r 0x20 false → ∀ h : i < 8,
      exec .setbp s = .next (answered (s.setTh k { th with bp := th.bp.set i (r.ws.getD 0 0) h, bpBy := th.bpBy.set i f h }) f 0 0 [])) ∧
    (AsksOf s f r 0x21 false → ∀ h : i < 4, w.ctl.toNat / 2 ^ 37 = 0 → (w.ctl.getLsbD 32 = true → w.ctl.toNat % 2 ^ 32 ≠ 0) →
      exec .setwp s = .next (answered (s.setTh k { th with wp := th.wp.set i w h, wpBy := th.wpBy.set i f h }) f 0 0 []))) ∧
  (∀ (s : State) (f : Nat) (r : DbgReq) (b : Bool), let i : Nat := r.hdr.toNat / 2 ^ 8 % 2 ^ 8
    (AsksOf s f r 0x20 b → 8 ≤ i → exec .setbp s = .next (answered s f 7 0 [])) ∧
    (AsksOf s f r 0x21 b → 4 ≤ i → exec .setwp s = .next (answered s f 7 0 []))) ∧
  (∀ (s : State) (f : Nat) (r : DbgReq) (c : Scope), AsksOf s f r 0x20 true → NamesScope s f r c →
    let sid : Nat := r.hdr.toNat / 2 ^ 32
    s.haltFar 0 sid = false →
    let i : Nat := r.hdr.toNat / 2 ^ 8 % 2 ^ 8
    i < 8 → ∃ s' : State, exec .setbp s = .next s' ∧
      s'.dbgScopes = (f, sid, .bp i (r.ws.getD 0 0)) :: s.dbgScopes.filter (fun e =>
        !(e.1 == f && e.2.1 == sid && (match e.2.2 with | .bp j _ => j == i | _ => false))) ∧
      s'.threads = treeThreads s sid (fun th => th.setBp f i (r.ws.getD 0 0))) ∧
  (∀ (s : State) (f : Nat) (r : DbgReq) (c : Scope), AsksOf s f r 0x21 true → NamesScope s f r c →
    let sid : Nat := r.hdr.toNat / 2 ^ 32
    s.haltFar 0 sid = false →
    let i : Nat := r.hdr.toNat / 2 ^ 8 % 2 ^ 8
    let w : Watch := ⟨r.ws.getD 0 0, r.ws.getD 1 0, r.ws.getD 2 0⟩
    i < 4 → w.ctl.toNat / 2 ^ 37 = 0 → (w.ctl.getLsbD 32 = true → w.ctl.toNat % 2 ^ 32 ≠ 0) →
      ∃ s' : State, exec .setwp s = .next s' ∧
        s'.dbgScopes = (f, sid, .wp i w) :: s.dbgScopes.filter (fun e =>
          !(e.1 == f && e.2.1 == sid && (match e.2.2 with | .wp j _ => j == i | _ => false))) ∧
        s'.threads = treeThreads s sid (fun th => th.setWp f i w)) ∧
  (∀ (s : State) (f : Nat) (r : DbgReq) (k : Nat) (th : Thread), AsksOf s f r 0x30 false → Names s f r k th → th.halted.isSome = true →
    let n : Nat := r.hdr.toNat / 2 ^ 8 % 2 ^ 8
    let ok (ws : List Word) : Prop := exec .read s = .next (answered s f 0 0 ws)
    let voids (w : Nat) (l : List (VWord w)) : Word := BitVec.ofNat 64 (l.foldr (fun v a => v.void.toNat + 2 * a) 0)
    let x := (List.range 32).map (fun i => th.rx (BitVec.ofNat 5 i))
    (n = 0 → ∃ ws : List Word, ok ws ∧ ws.take 3 = [th.pc, wOf (k * 256 + th.reuse), th.place s.devNum] ∧
      ((∀ c, th.loc ≠ .resident c) → ws[3]? = some 0) ∧
      (∀ c, th.loc = .resident c → s.inCtx th.tile th.cls c = some (k, th) →
        ws[3]? = some (if th.saving then 3 else if State.runnable th then 1 else 2)) ∧
      ws.drop 4 = [reasonWord th.halted, BitVec.ofNat 64 th.armed.toNat, BitVec.ofNat 64 th.cancel.toNat,
        th.shieldn.setWidth 64, wOf th.watch, wOf (match th.ver with | .v1 => 1 | .v2 => 2 | .v3 => 3)]) ∧
    (n = 1 → ok (x.map (·.val) ++ [voids 64 x])) ∧
    (n = 2 → ok (th.f.toList.map (fun v => v.val.setWidth 64) ++ [voids 32 th.f.toList])) ∧
    (n = 3 → ok ((List.range 8).map (fun i => th.rm (BitVec.ofNat 3 i)) ++ [th.vpred.setWidth 64])) ∧
    (n = 4 → ∃ ws : List Word, ok (th.q.toList ++ ws) ∧ ws.length = 24 ∧ ∀ i : Nat, i < 8 → ∀ v : Window, th.windows[i]? = some v →
      ws[3 * i]? = some v.ref ∧ ws[3 * i + 1]? = some (wOf v.base)) ∧
    (n = 5 → ok (th.k.toList.flatMap (fun h => [wOf h.kind.code, wOf h.sid, wOf h.weight]))) ∧
    (n = 6 → ∃ ws : List Word, ok ws ∧ ws.length = 21 ∧ ws[3]? = some (s.csrRead k th 0x800) ∧ ws[15]? = some (s.csrRead k th 0xC00)) ∧
    (n = 7 → ∃ ws : List Word, ok ((s.tile th.tile).tagMask th.cls :: ws) ∧ ws.length = 64 ∧ ∀ t : Nat, t < 64 → ∀ st bytes : Nat,
      tfind (s.tile th.tile).tags (tagKey th.cls t) = some (.set st bytes) → ws[t]? = some (tagWord t st bytes)) ∧
    (n = 8 → ok ((s.tile th.tile).cbs.toList.flatMap (fun c => [c.cfgWord, c.stateWord]))) ∧
    (n = 9 → (th.wait = none → ok [0, 0, 0]) ∧
      ∀ (a : Word) (g i : Nat) (rd : XReg) (t0 : Nat), th.wait = some ⟨.bar a g i, rd, t0⟩ → ok [a, wOf g, wOf i]) ∧
    (0x40 ≤ n → n ≤ 0x5F → th.cls = .compute → let v := (th.rv (BitVec.ofNat 5 (n - 0x40))).toList
      ok (v.map (fun v => v.val.setWidth 64) ++ [voids 32 v])) ∧
    (9 < n → (n < 0x40 ∨ 0x5F < n ∨ th.cls = .stage) → exec .read s = .next (answered s f 7 0 []))) ∧
  (∀ (s : State) (f : Nat) (r : DbgReq) (c : Scope), NamesScope s f r c → AsksOf s f r 0x32 true →
    ∃ ws : List Word, exec .scope s = .next (answered s f 0 0 ws) ∧ ws.drop 1 = [wOf c.parent, wOf c.depth, wOf c.o,
      BitVec.ofNat 64 c.cancelled.toNat, BitVec.ofNat 64 c.succeeded.toNat, wOf c.winner, BitVec.ofNat 64 c.faulted.toNat,
      wOf c.cause, wOf c.opener]) ∧
  (∀ (s : State) (f : Nat) (r : DbgReq) (k : Nat) (th : Thread), AsksOf s f r 0x31 false → Names s f r k th → th.halted.isSome = true →
    let n : Nat := r.hdr.toNat / 2 ^ 8 % 2 ^ 8
    let reg : Nat := (r.ws.getD 0 0).toNat
    let v := r.ws.getD 1 0
    let void := (r.ws.getD 2 0).getLsbD 0
    let x32 : VWord 32 := if void then .voidword else .of (v.setWidth 32)
    let becomes (th' : Thread) : Prop := exec .write s = .next (answered (s.setTh k th') f 0 0 [])
    ((r.ws.getD 2 0).toNat / 2 ≠ 0 → exec .write s = .next (answered s f 7 0 [])) ∧
    ((r.ws.getD 2 0).toNat / 2 = 0 → n = 0 → reg = 0 → v.toNat % 4 = 0 → void = false →
      let at_ (h : Thread) : Thread := { h with pc := v, wait := none, remoteOut := none, peer := [] }
      let moved (th' : Thread) : Prop := (th.loc ≠ .parked → becomes th') ∧
        (th.loc = .parked → ∃ s' : State, exec .write s = .next s' ∧ (s'.func f).dbgOut = (s.func f).dbgOut ++ [0] ∧
          s'.thread? k = some { th' with loc := .queued })
      (∀ j h rd t0, th.wait = some ⟨.join j h, rd, t0⟩ → moved (at_ (th.wk h ⟨.closed, j, 0⟩))) ∧
      ((∀ j h rd t0, th.wait ≠ some ⟨.join j h, rd, t0⟩) → moved (at_ th))) ∧
    ((r.ws.getD 2 0).toNat / 2 = 0 → th.loc ≠ .parked ∨ th.wait.isSome = true →
      (n = 1 → 1 ≤ reg → reg < 32 → becomes (th.wx (BitVec.ofNat 5 reg) (if void then .voidword else .of v))) ∧
      (n = 2 → reg < 32 → becomes (th.wf (BitVec.ofNat 5 reg) x32)) ∧
      (n = 3 → 1 ≤ reg → reg < 8 → becomes (th.wm (BitVec.ofNat 3 reg) v)) ∧
      (n = 6 → csrWritable reg = true → void = false →
        becomes { th.csrWrite reg v with armed := th.armed, service := th.service }) ∧
      (∀ h : reg < 64, 0x40 ≤ n → n ≤ 0x5F → th.cls = .compute →
        let rv := BitVec.ofNat 5 (n - 0x40)
        becomes (th.wv rv ((th.rv rv).set reg x32 h))) ∧
      ((n = 4 ∨ n = 5 ∨ 7 ≤ n ∧ n < 0x40 ∨ (n = 0 ∧ (reg ≠ 0 ∨ v.toNat % 4 ≠ 0)) ∨ (n = 1 ∧ reg = 0) ∨ (n = 3 ∧ reg = 0) ∨
          (n = 6 ∧ csrWritable reg = false)) → exec .write s = .next (answered s f 7 0 [])))) ∧
  (∀ c, csrWritable c = true ↔ 1 ≤ c ∧ c ≤ 3 ∨ 0x800 ≤ c ∧ c ≤ 0x807 ∨ c = 0x80B) ∧
  (∀ (s : State) (f : Nat) (r : DbgReq) (k : Nat) (th : Thread), AsksOf s f r 0x33 false → Names s f r k th →
    let a : Nat := (r.ws.getD 0 0).toNat
    let w : Nat := (r.ws.getD 1 0).toNat
    let n : Nat := w % 2 ^ 9
    (n = 0 ∨ 256 < n ∨ w / 2 ^ 9 % 2 ^ 54 ≠ 0 → exec .mem s = .next (answered s f 7 0 [])) ∧
    (1 ≤ n → n ≤ 256 → w / 2 ^ 9 % 2 ^ 54 = 0 → s.memOk → a + n ≤ 2 ^ 64 → (∀ d, s.stalledDie d = false) →
      (∀ j : Nat, j < n → translated (a + j) = false ∧ windowLoc th.tile (a + j) = windowLoc th.tile a + j ∧
        (windowEnd (a + j)).isSome = true) →
      let p : Nat := windowLoc th.tile a
      (w / 2 ^ 63 = 1 → 2 + (n + 7) / 8 ≤ r.ws.length → ∃ s' : State, exec .mem s = .next s' ∧ (s'.func f).dbgOut = (s.func f).dbgOut ++ [0] ∧
        ∀ b : Nat, byteAt s' b = if p ≤ b ∧ b < p + n then
          BitVec.ofNat 8 ((r.ws.getD (2 + (b - p) / 8) 0).toNat / 2 ^ (8 * ((b - p) % 8)) % 2 ^ 8) else byteAt s b) ∧
      (w / 2 ^ 63 = 0 → (∀ j : Nat, j < n → s.poisonIn (p + j) 1 = none) → ∃ (s' : State) (ws : List Word), exec .mem s = .next s' ∧ s'.mem = s.mem ∧
        s'.threads = s.threads ∧ (s'.func f).dbgOut = (s.func f).dbgOut ++ 0 :: ws ∧ ∀ j : Nat, j < n →
          BitVec.ofNat 8 ((ws.getD (j / 8) 0).toNat / 2 ^ (8 * (j % 8)) % 2 ^ 8) = byteAt s (p + j)))))
end

