-- ==== Sys2Proof/Laws/Memory.lean ====
section
/-! SUPPORT. What the list of cells says about one byte, and that every operation keeps its canonical form
(log 3). -/

namespace Sys2Proof.Machine

/-- The canonical form as a property: no cell holds what it would read unlisted, addresses rise. -/
def Memory.Ok (m : Memory) : Prop :=
  (∀ c ∈ m, c.2 ≠ Memory.unlisted) ∧ m.Pairwise (fun c d => c.1 < d.1)

theorem Memory.wf_iff (m : Memory) : Memory.wf m = true ↔ Memory.Ok m := by
  induction m with
  | nil => simp [Memory.wf, Memory.Ok]
  | cons c m ih =>
    cases m with
    | nil => simp [Memory.wf, Memory.Ok]
    | cons d m =>
      rw [Memory.wf, Bool.and_eq_true, Bool.and_eq_true, ih, bne_iff_ne, decide_eq_true_iff]
      constructor
      · rintro ⟨⟨hc, hd⟩, h1, h2⟩
        refine ⟨fun e he => (List.mem_cons.1 he).elim (fun h => h ▸ hc) (h1 e), List.pairwise_cons.2 ⟨?_, h2⟩⟩
        intro e he
        rcases List.mem_cons.1 he with rfl | he
        · exact hd
        · exact Nat.lt_trans hd ((List.pairwise_cons.1 h2).1 e he)
      · rintro ⟨h1, h2⟩
        have h3 := List.pairwise_cons.1 h2
        exact ⟨⟨h1 c (by simp), h3.1 d (by simp)⟩, fun e he => h1 e (by simp [he]), h3.2⟩

theorem Memory.below_sublist (m : Memory) (a : Nat) : List.Sublist (m.below a) m :=
  List.takeWhile_sublist _
theorem Memory.from_sublist (m : Memory) (a : Nat) : List.Sublist (m.from_ a) m :=
  List.dropWhile_sublist _

theorem Memory.Ok.sublist {m k : Memory} (h : m.Ok) (s : List.Sublist k m) : Memory.Ok k :=
  ⟨fun c hc => h.1 c (s.subset hc), h.2.sublist s⟩

theorem Memory.mem_below {m : Memory} {a : Nat} {c : Host.Cell} (h : c ∈ m.below a) : c.1 < a := by
  simpa using List.mem_takeWhile_imp h

theorem Memory.mem_from {m : Memory} (hm : m.Ok) {a : Nat} {c : Host.Cell} (h : c ∈ m.from_ a) : a ≤ c.1 := by
  induction m with
  | nil => simp [Memory.from_] at h
  | cons d m ih =>
    have hm' : Memory.Ok m := hm.sublist (List.sublist_cons_self d m)
    unfold Memory.from_ at h ih
    rw [List.dropWhile_cons] at h
    split at h
    · exact ih hm' h
    · rename_i hd
      have hd : a ≤ d.1 := by simpa using hd
      rcases List.mem_cons.1 h with rfl | h
      · exact hd
      · exact Nat.le_trans hd (Nat.le_of_lt ((List.pairwise_cons.1 hm.2).1 c h))

theorem Memory.mem_cells {a : Nat} {bs : List Byte} {c : Host.Cell} (h : c ∈ Memory.cells a bs) :
    a ≤ c.1 ∧ c.1 < a + bs.length ∧ c.2 ≠ Memory.unlisted := by
  induction bs generalizing a with
  | nil => simp [Memory.cells] at h
  | cons b bs ih =>
    rw [Memory.cells] at h
    split at h
    · obtain ⟨h1, h2, h3⟩ := ih h
      exact ⟨by omega, by simp only [List.length_cons]; omega, h3⟩
    · rename_i hb
      rcases List.mem_cons.1 h with rfl | h
      · exact ⟨Nat.le_refl _, by simp, hb⟩
      · obtain ⟨h1, h2, h3⟩ := ih h
        exact ⟨by omega, by simp only [List.length_cons]; omega, h3⟩

theorem Memory.cells_ok (a : Nat) (bs : List Byte) : Memory.Ok (Memory.cells a bs) := by
  refine ⟨fun c hc => (Memory.mem_cells hc).2.2, ?_⟩
  induction bs generalizing a with
  | nil => simp [Memory.cells]
  | cons b bs ih =>
    rw [Memory.cells]
    split
    · exact ih _
    · exact List.pairwise_cons.2 ⟨fun c hc => by have := (Memory.mem_cells hc).1; simp only; omega, ih _⟩

/-- Cells below an address, and cells at or above it, side by side. -/
theorem Memory.Ok.append {m k : Memory} (hm : m.Ok) (hk : k.Ok)
    (h : ∀ c ∈ m, ∀ d ∈ k, c.1 < d.1) : Memory.Ok (m ++ k) :=
  ⟨fun c hc => (List.mem_append.1 hc).elim (hm.1 c) (hk.1 c), List.pairwise_append.2 ⟨hm.2, hk.2, h⟩⟩

theorem Memory.write_ok {m : Memory} (hm : m.Ok) (a : Nat) (bs : List Byte) : Memory.Ok (m.write a bs) := by
  refine (hm.sublist (Memory.below_sublist _ _)).append
    ((Memory.cells_ok a bs).append (hm.sublist (Memory.from_sublist _ _)) ?_) ?_
  · intro c hc d hd
    exact Nat.lt_of_lt_of_le (Memory.mem_cells hc).2.1 (Memory.mem_from hm hd)
  · intro c hc d hd
    have h1 := Memory.mem_below hc
    rcases List.mem_append.1 hd with hd | hd
    · exact Nat.lt_of_lt_of_le h1 (Memory.mem_cells hd).1
    · have := Memory.mem_from hm hd; omega

/-- Writing keeps the canonical form. -/
theorem Memory.write_wf {m : Memory} (hm : Memory.wf m = true) (a : Nat) (bs : List Byte) :
    Memory.wf (m.write a bs) = true :=
  (Memory.wf_iff _).2 (Memory.write_ok ((Memory.wf_iff m).1 hm) a bs)

/-- Taking out a stretch of addresses keeps the canonical form. -/
theorem Memory.cut_wf {m : Memory} (hm : Memory.wf m = true) {a b : Nat} (h : a ≤ b) :
    Memory.wf (m.below a ++ m.from_ b) = true := by
  have hm := (Memory.wf_iff m).1 hm
  refine (Memory.wf_iff _).2 ((hm.sublist (Memory.below_sublist _ _)).append
    (hm.sublist (Memory.from_sublist _ _)) ?_)
  intro c hc d hd
  have := Memory.mem_below hc
  have := Memory.mem_from hm hd
  omega

/-! ### One byte -/

/-- The cell of an address is what it reads. -/
theorem Memory.read_of_mem {m : Memory} (hm : m.Ok) {c : Host.Cell} (hc : c ∈ m) : m.read c.1 = c.2 := by
  induction m with
  | nil => cases hc
  | cons d m ih =>
    rw [Memory.read]
    rcases List.mem_cons.1 hc with rfl | hc
    · simp
    · have h := (List.pairwise_cons.1 hm.2).1 c hc
      rw [if_neg (Nat.ne_of_lt h), if_neg (by omega)]
      exact ih (hm.sublist (List.sublist_cons_self d m)) hc

/-- An address without a cell reads what is unlisted. -/
theorem Memory.read_of_not_mem {m : Memory} {a : Nat} (h : ∀ c ∈ m, c.1 ≠ a) : m.read a = Memory.unlisted := by
  induction m with
  | nil => rfl
  | cons d m ih =>
    rw [Memory.read, if_neg (h d (by simp))]
    split
    · rfl
    · exact ih (fun c hc => h c (by simp [hc]))

theorem Memory.cells_read (a : Nat) (bs : List Byte) (i : Nat) (h : i < bs.length) :
    (Memory.cells a bs).read (a + i) = bs[i] := by
  induction bs generalizing a i with
  | nil => simp at h
  | cons b bs ih =>
    rw [Memory.cells]
    cases i with
    | zero =>
      split
      · rename_i hb
        rw [Memory.read_of_not_mem (fun c hc => by have := (Memory.mem_cells hc).1; omega)]
        simp [hb]
      · simp [Memory.read]
    | succ i =>
      have h' : i < bs.length := by simpa using h
      have := ih (a + 1) i h'
      rw [show a + 1 + i = a + (i + 1) by omega] at this
      split
      · simpa using this
      · rw [Memory.read, if_neg (by simp), if_neg (by simp)]; simpa using this

theorem Memory.mem_iff_below_from {m : Memory} (a : Nat) (c : Host.Cell) :
    c ∈ m ↔ c ∈ m.below a ∨ c ∈ m.from_ a := by
  rw [← List.mem_append]; unfold Memory.below Memory.from_; rw [List.takeWhile_append_dropWhile]

/-- A write puts its bytes at their addresses (the byte read back). -/
theorem Memory.read_write_in {m : Memory} (hm : m.Ok) (a : Nat) (bs : List Byte) (i : Nat)
    (h : i < bs.length) : (m.write a bs).read (a + i) = bs[i] := by
  have hw := Memory.write_ok hm a bs
  rw [← Memory.cells_read a bs i h]
  by_cases hc : ∃ c ∈ Memory.cells a bs, c.1 = a + i
  · obtain ⟨c, hc, e⟩ := hc
    rw [← e, Memory.read_of_mem (Memory.cells_ok a bs) hc,
      Memory.read_of_mem hw (by unfold Memory.write; simp [hc])]
  · have hc : ∀ c ∈ Memory.cells a bs, c.1 ≠ a + i := fun c h e => hc ⟨c, h, e⟩
    rw [Memory.read_of_not_mem hc, Memory.read_of_not_mem]
    intro c hm'
    unfold Memory.write at hm'
    rcases List.mem_append.1 hm' with h1 | h1
    · have := Memory.mem_below h1; omega
    · rcases List.mem_append.1 h1 with h1 | h1
      · exact hc c h1
      · have := Memory.mem_from hm h1; omega

/-- A write leaves every other address alone. -/
theorem Memory.read_write_out {m : Memory} (hm : m.Ok) (a : Nat) (bs : List Byte) (x : Nat)
    (h : x < a ∨ a + bs.length ≤ x) : (m.write a bs).read x = m.read x := by
  have hw := Memory.write_ok hm a bs
  by_cases hc : ∃ c ∈ m, c.1 = x
  · obtain ⟨c, hc, rfl⟩ := hc
    rw [Memory.read_of_mem hm hc]
    refine Memory.read_of_mem hw ?_
    unfold Memory.write
    rcases h with h | h
    · rcases (Memory.mem_iff_below_from a c).1 hc with h1 | h1
      · simp [h1]
      · have := Memory.mem_from hm h1; omega
    · rcases (Memory.mem_iff_below_from (a + bs.length) c).1 hc with h1 | h1
      · have := Memory.mem_below h1; omega
      · simp [h1]
  · have hc : ∀ c ∈ m, c.1 ≠ x := fun c h e => hc ⟨c, h, e⟩
    rw [Memory.read_of_not_mem hc, Memory.read_of_not_mem]
    intro c hm'
    unfold Memory.write at hm'
    rcases List.mem_append.1 hm' with h1 | h1
    · exact hc c ((Memory.below_sublist _ _).subset h1)
    · rcases List.mem_append.1 h1 with h1 | h1
      · have := Memory.mem_cells h1; omega
      · exact hc c ((Memory.from_sublist _ _).subset h1)

theorem Memory.run_eq {m : Memory} (hm : m.Ok) (a n : Nat) (h : ∀ c ∈ m, a ≤ c.1) :
    Memory.run m a n = (List.range n).map (fun i => m.read (a + i)) := by
  induction n generalizing m a with
  | zero => cases m <;> rfl
  | succ n ih =>
    rw [List.range_succ_eq_map, List.map_cons, List.map_map]
    cases m with
    | nil =>
      rw [Memory.run, ih hm (a + 1) (by simp)]
      simp [Memory.read, Function.comp_def]
    | cons c m =>
      have hm' : Memory.Ok m := hm.sublist (List.sublist_cons_self c m)
      have hc := h c (by simp)
      rw [Memory.run]
      split
      · rename_i e
        rw [ih hm' (a + 1) (fun d hd => by have := (List.pairwise_cons.1 hm.2).1 d hd; omega)]
        refine congr (congrArg _ (by simp [Memory.read, e])) (List.map_congr_left (fun i _ => ?_))
        simp only [Function.comp, Memory.read]
        rw [if_neg (by omega), if_neg (by omega)]
        congr 1; omega
      · rename_i e
        rw [ih hm (a + 1) (fun d hd => by
          rcases List.mem_cons.1 hd with rfl | hd
          · omega
          · have := (List.pairwise_cons.1 hm.2).1 d hd; omega)]
        refine congr (congrArg _ ?_) (List.map_congr_left (fun i _ => ?_))
        · rw [Nat.add_zero, Memory.read, if_neg e, if_pos (by omega)]
        · simp only [Function.comp]; congr 1; omega

theorem Memory.read_from {m : Memory} (hm : m.Ok) {a x : Nat} (h : a ≤ x) : (m.from_ a).read x = m.read x := by
  have hf : Memory.Ok (m.from_ a) := hm.sublist (Memory.from_sublist _ _)
  by_cases hc : ∃ c ∈ m.from_ a, c.1 = x
  · obtain ⟨c, hc, rfl⟩ := hc
    rw [Memory.read_of_mem hf hc, Memory.read_of_mem hm ((Memory.from_sublist _ _).subset hc)]
  · have hc : ∀ c ∈ m.from_ a, c.1 ≠ x := fun c h e => hc ⟨c, h, e⟩
    rw [Memory.read_of_not_mem hc, Memory.read_of_not_mem]
    intro c hc' e
    rcases (Memory.mem_iff_below_from a c).1 hc' with h1 | h1
    · have := Memory.mem_below h1; omega
    · exact hc c h1 e

/-- A run of bytes is the bytes of its addresses, one by one. -/
theorem Memory.reads_eq {m : Memory} (hm : m.Ok) (a n : Nat) :
    m.reads a n = (List.range n).map (fun i => m.read (a + i)) := by
  unfold Memory.reads
  rw [Memory.run_eq (hm.sublist (Memory.from_sublist _ _)) a n (fun c hc => Memory.mem_from hm hc)]
  exact List.map_congr_left (fun i _ => Memory.read_from hm (Nat.le_add_right _ _))

/-- What was written is what is read back. -/
theorem Memory.reads_write {m : Memory} (hm : m.Ok) (a : Nat) (bs : List Byte) :
    (m.write a bs).reads a bs.length = bs := by
  rw [Memory.reads_eq (Memory.write_ok hm a bs)]
  apply List.ext_getElem (by simp)
  intro i h1 h2
  simp only [List.getElem_map, List.getElem_range]
  exact Memory.read_write_in hm a bs i h2

end Sys2Proof.Machine
end

