-- ==== Sys2Proof/Laws/Exec.lean ====
section
/-! SUPPORT. What `exec` runs, constructor by constructor: true by rfl, so that no proof unfolds the whole
dispatcher. -/

namespace Sys2Proof.Machine

variable (s : State)

theorem exec_lui (rd imm) : exec (.lui rd imm) s = execLui rd imm s := rfl
theorem exec_auipc (rd imm) : exec (.auipc rd imm) s = execAuipc rd imm s := rfl
theorem exec_jal (rd imm) : exec (.jal rd imm) s = execJal rd imm s := rfl
theorem exec_jalr (rd rs1 imm) : exec (.jalr rd rs1 imm) s = execJalr rd rs1 imm s := rfl
theorem exec_beq (rs1 rs2 imm) : exec (.beq rs1 rs2 imm) s = execBeq rs1 rs2 imm s := rfl
theorem exec_bne (rs1 rs2 imm) : exec (.bne rs1 rs2 imm) s = execBne rs1 rs2 imm s := rfl
theorem exec_blt (rs1 rs2 imm) : exec (.blt rs1 rs2 imm) s = execBlt rs1 rs2 imm s := rfl
theorem exec_bge (rs1 rs2 imm) : exec (.bge rs1 rs2 imm) s = execBge rs1 rs2 imm s := rfl
theorem exec_bltu (rs1 rs2 imm) : exec (.bltu rs1 rs2 imm) s = execBltu rs1 rs2 imm s := rfl
theorem exec_bgeu (rs1 rs2 imm) : exec (.bgeu rs1 rs2 imm) s = execBgeu rs1 rs2 imm s := rfl
theorem exec_lb (rd rs1 imm) : exec (.lb rd rs1 imm) s = execLb rd rs1 imm s := rfl
theorem exec_lh (rd rs1 imm) : exec (.lh rd rs1 imm) s = execLh rd rs1 imm s := rfl
theorem exec_lw (rd rs1 imm) : exec (.lw rd rs1 imm) s = execLw rd rs1 imm s := rfl
theorem exec_ld (rd rs1 imm) : exec (.ld rd rs1 imm) s = execLd rd rs1 imm s := rfl
theorem exec_lbu (rd rs1 imm) : exec (.lbu rd rs1 imm) s = execLbu rd rs1 imm s := rfl
theorem exec_lhu (rd rs1 imm) : exec (.lhu rd rs1 imm) s = execLhu rd rs1 imm s := rfl
theorem exec_lwu (rd rs1 imm) : exec (.lwu rd rs1 imm) s = execLwu rd rs1 imm s := rfl
theorem exec_sb (rs1 rs2 imm) : exec (.sb rs1 rs2 imm) s = execSb rs1 rs2 imm s := rfl
theorem exec_sh (rs1 rs2 imm) : exec (.sh rs1 rs2 imm) s = execSh rs1 rs2 imm s := rfl
theorem exec_sw (rs1 rs2 imm) : exec (.sw rs1 rs2 imm) s = execSw rs1 rs2 imm s := rfl
theorem exec_sd (rs1 rs2 imm) : exec (.sd rs1 rs2 imm) s = execSd rs1 rs2 imm s := rfl
theorem exec_addi (rd rs1 imm) : exec (.addi rd rs1 imm) s = execAddi rd rs1 imm s := rfl
theorem exec_slti (rd rs1 imm) : exec (.slti rd rs1 imm) s = execSlti rd rs1 imm s := rfl
theorem exec_sltiu (rd rs1 imm) : exec (.sltiu rd rs1 imm) s = execSltiu rd rs1 imm s := rfl
theorem exec_xori (rd rs1 imm) : exec (.xori rd rs1 imm) s = execXori rd rs1 imm s := rfl
theorem exec_ori (rd rs1 imm) : exec (.ori rd rs1 imm) s = execOri rd rs1 imm s := rfl
theorem exec_andi (rd rs1 imm) : exec (.andi rd rs1 imm) s = execAndi rd rs1 imm s := rfl
theorem exec_slli (rd rs1 shamt) : exec (.slli rd rs1 shamt) s = execSlli rd rs1 shamt s := rfl
theorem exec_srli (rd rs1 shamt) : exec (.srli rd rs1 shamt) s = execSrli rd rs1 shamt s := rfl
theorem exec_srai (rd rs1 shamt) : exec (.srai rd rs1 shamt) s = execSrai rd rs1 shamt s := rfl
theorem exec_addiw (rd rs1 imm) : exec (.addiw rd rs1 imm) s = execAddiw rd rs1 imm s := rfl
theorem exec_slliw (rd rs1 shamt) : exec (.slliw rd rs1 shamt) s = execSlliw rd rs1 shamt s := rfl
theorem exec_srliw (rd rs1 shamt) : exec (.srliw rd rs1 shamt) s = execSrliw rd rs1 shamt s := rfl
theorem exec_sraiw (rd rs1 shamt) : exec (.sraiw rd rs1 shamt) s = execSraiw rd rs1 shamt s := rfl
theorem exec_add (rd rs1 rs2) : exec (.add rd rs1 rs2) s = execAdd rd rs1 rs2 s := rfl
theorem exec_sub (rd rs1 rs2) : exec (.sub rd rs1 rs2) s = execSub rd rs1 rs2 s := rfl
theorem exec_sll (rd rs1 rs2) : exec (.sll rd rs1 rs2) s = execSll rd rs1 rs2 s := rfl
theorem exec_slt (rd rs1 rs2) : exec (.slt rd rs1 rs2) s = execSlt rd rs1 rs2 s := rfl
theorem exec_sltu (rd rs1 rs2) : exec (.sltu rd rs1 rs2) s = execSltu rd rs1 rs2 s := rfl
theorem exec_xor (rd rs1 rs2) : exec (.xor rd rs1 rs2) s = execXor rd rs1 rs2 s := rfl
theorem exec_srl (rd rs1 rs2) : exec (.srl rd rs1 rs2) s = execSrl rd rs1 rs2 s := rfl
theorem exec_sra (rd rs1 rs2) : exec (.sra rd rs1 rs2) s = execSra rd rs1 rs2 s := rfl
theorem exec_or (rd rs1 rs2) : exec (.or rd rs1 rs2) s = execOr rd rs1 rs2 s := rfl
theorem exec_and (rd rs1 rs2) : exec (.and rd rs1 rs2) s = execAnd rd rs1 rs2 s := rfl
theorem exec_addw (rd rs1 rs2) : exec (.addw rd rs1 rs2) s = execAddw rd rs1 rs2 s := rfl
theorem exec_subw (rd rs1 rs2) : exec (.subw rd rs1 rs2) s = execSubw rd rs1 rs2 s := rfl
theorem exec_sllw (rd rs1 rs2) : exec (.sllw rd rs1 rs2) s = execSllw rd rs1 rs2 s := rfl
theorem exec_srlw (rd rs1 rs2) : exec (.srlw rd rs1 rs2) s = execSrlw rd rs1 rs2 s := rfl
theorem exec_sraw (rd rs1 rs2) : exec (.sraw rd rs1 rs2) s = execSraw rd rs1 rs2 s := rfl
theorem exec_mul (rd rs1 rs2) : exec (.mul rd rs1 rs2) s = execMul rd rs1 rs2 s := rfl
theorem exec_mulh (rd rs1 rs2) : exec (.mulh rd rs1 rs2) s = execMulh rd rs1 rs2 s := rfl
theorem exec_mulhsu (rd rs1 rs2) : exec (.mulhsu rd rs1 rs2) s = execMulhsu rd rs1 rs2 s := rfl
theorem exec_mulhu (rd rs1 rs2) : exec (.mulhu rd rs1 rs2) s = execMulhu rd rs1 rs2 s := rfl
theorem exec_div (rd rs1 rs2) : exec (.div rd rs1 rs2) s = execDiv rd rs1 rs2 s := rfl
theorem exec_divu (rd rs1 rs2) : exec (.divu rd rs1 rs2) s = execDivu rd rs1 rs2 s := rfl
theorem exec_rem (rd rs1 rs2) : exec (.rem rd rs1 rs2) s = execRem rd rs1 rs2 s := rfl
theorem exec_remu (rd rs1 rs2) : exec (.remu rd rs1 rs2) s = execRemu rd rs1 rs2 s := rfl
theorem exec_mulw (rd rs1 rs2) : exec (.mulw rd rs1 rs2) s = execMulw rd rs1 rs2 s := rfl
theorem exec_divw (rd rs1 rs2) : exec (.divw rd rs1 rs2) s = execDivw rd rs1 rs2 s := rfl
theorem exec_divuw (rd rs1 rs2) : exec (.divuw rd rs1 rs2) s = execDivuw rd rs1 rs2 s := rfl
theorem exec_remw (rd rs1 rs2) : exec (.remw rd rs1 rs2) s = execRemw rd rs1 rs2 s := rfl
theorem exec_remuw (rd rs1 rs2) : exec (.remuw rd rs1 rs2) s = execRemuw rd rs1 rs2 s := rfl
theorem exec_fence (fm pred succ rd rs1) : exec (.fence fm pred succ rd rs1) s = execFence fm pred succ rd rs1 s := rfl
theorem exec_csrrw (rd rs1 csr) : exec (.csrrw rd rs1 csr) s = execCsrrw rd rs1 csr s := rfl
theorem exec_csrrs (rd rs1 csr) : exec (.csrrs rd rs1 csr) s = execCsrrs rd rs1 csr s := rfl
theorem exec_csrrc (rd rs1 csr) : exec (.csrrc rd rs1 csr) s = execCsrrc rd rs1 csr s := rfl
theorem exec_csrrwi (rd imm csr) : exec (.csrrwi rd imm csr) s = execCsrrwi rd imm csr s := rfl
theorem exec_csrrsi (rd imm csr) : exec (.csrrsi rd imm csr) s = execCsrrsi rd imm csr s := rfl
theorem exec_csrrci (rd imm csr) : exec (.csrrci rd imm csr) s = execCsrrci rd imm csr s := rfl
theorem exec_flw (rd rs1 imm) : exec (.flw rd rs1 imm) s = execFlw rd rs1 imm s := rfl
theorem exec_fsw (rs1 rs2 imm) : exec (.fsw rs1 rs2 imm) s = execFsw rs1 rs2 imm s := rfl
theorem exec_fmaddS (rd rs1 rs2 rs3 rm) : exec (.fmaddS rd rs1 rs2 rs3 rm) s = execFmaddS rd rs1 rs2 rs3 rm s := rfl
theorem exec_fmsubS (rd rs1 rs2 rs3 rm) : exec (.fmsubS rd rs1 rs2 rs3 rm) s = execFmsubS rd rs1 rs2 rs3 rm s := rfl
theorem exec_fnmsubS (rd rs1 rs2 rs3 rm) : exec (.fnmsubS rd rs1 rs2 rs3 rm) s = execFnmsubS rd rs1 rs2 rs3 rm s := rfl
theorem exec_fnmaddS (rd rs1 rs2 rs3 rm) : exec (.fnmaddS rd rs1 rs2 rs3 rm) s = execFnmaddS rd rs1 rs2 rs3 rm s := rfl
theorem exec_faddS (rd rs1 rs2 rm) : exec (.faddS rd rs1 rs2 rm) s = execFaddS rd rs1 rs2 rm s := rfl
theorem exec_fsubS (rd rs1 rs2 rm) : exec (.fsubS rd rs1 rs2 rm) s = execFsubS rd rs1 rs2 rm s := rfl
theorem exec_fmulS (rd rs1 rs2 rm) : exec (.fmulS rd rs1 rs2 rm) s = execFmulS rd rs1 rs2 rm s := rfl
theorem exec_fdivS (rd rs1 rs2 rm) : exec (.fdivS rd rs1 rs2 rm) s = execFdivS rd rs1 rs2 rm s := rfl
theorem exec_fsqrtS (rd rs1 rm) : exec (.fsqrtS rd rs1 rm) s = execFsqrtS rd rs1 rm s := rfl
theorem exec_fsgnjS (rd rs1 rs2) : exec (.fsgnjS rd rs1 rs2) s = execFsgnjS rd rs1 rs2 s := rfl
theorem exec_fsgnjnS (rd rs1 rs2) : exec (.fsgnjnS rd rs1 rs2) s = execFsgnjnS rd rs1 rs2 s := rfl
theorem exec_fsgnjxS (rd rs1 rs2) : exec (.fsgnjxS rd rs1 rs2) s = execFsgnjxS rd rs1 rs2 s := rfl
theorem exec_fminS (rd rs1 rs2) : exec (.fminS rd rs1 rs2) s = execFminS rd rs1 rs2 s := rfl
theorem exec_fmaxS (rd rs1 rs2) : exec (.fmaxS rd rs1 rs2) s = execFmaxS rd rs1 rs2 s := rfl
theorem exec_feqS (rd rs1 rs2) : exec (.feqS rd rs1 rs2) s = execFeqS rd rs1 rs2 s := rfl
theorem exec_fltS (rd rs1 rs2) : exec (.fltS rd rs1 rs2) s = execFltS rd rs1 rs2 s := rfl
theorem exec_fleS (rd rs1 rs2) : exec (.fleS rd rs1 rs2) s = execFleS rd rs1 rs2 s := rfl
theorem exec_fclassS (rd rs1) : exec (.fclassS rd rs1) s = execFclassS rd rs1 s := rfl
theorem exec_fmvXW (rd rs1) : exec (.fmvXW rd rs1) s = execFmvXW rd rs1 s := rfl
theorem exec_fcvtWS (rd rs1 rm) : exec (.fcvtWS rd rs1 rm) s = execFcvtWS rd rs1 rm s := rfl
theorem exec_fcvtWuS (rd rs1 rm) : exec (.fcvtWuS rd rs1 rm) s = execFcvtWuS rd rs1 rm s := rfl
theorem exec_fcvtLS (rd rs1 rm) : exec (.fcvtLS rd rs1 rm) s = execFcvtLS rd rs1 rm s := rfl
theorem exec_fcvtLuS (rd rs1 rm) : exec (.fcvtLuS rd rs1 rm) s = execFcvtLuS rd rs1 rm s := rfl
theorem exec_fcvtSW (rd rs1 rm) : exec (.fcvtSW rd rs1 rm) s = execFcvtSW rd rs1 rm s := rfl
theorem exec_fcvtSWu (rd rs1 rm) : exec (.fcvtSWu rd rs1 rm) s = execFcvtSWu rd rs1 rm s := rfl
theorem exec_fcvtSL (rd rs1 rm) : exec (.fcvtSL rd rs1 rm) s = execFcvtSL rd rs1 rm s := rfl
theorem exec_fcvtSLu (rd rs1 rm) : exec (.fcvtSLu rd rs1 rm) s = execFcvtSLu rd rs1 rm s := rfl
theorem exec_fmvWX (rd rs1) : exec (.fmvWX rd rs1) s = execFmvWX rd rs1 s := rfl
theorem exec_sopen (rd rs1) : exec (.sopen rd rs1) s = execSopen rd rs1 s := rfl
theorem exec_sclose (rd rs1) : exec (.sclose rd rs1) s = execSclose rd rs1 s := rfl
theorem exec_sclosea (rs1) : exec (.sclosea rs1) s = execSclosea rs1 s := rfl
theorem exec_scloseaV2 (rs1) : exec (.scloseaV2 rs1) s = execScloseaV2 rs1 s := rfl
theorem exec_senter (rd rs1) : exec (.senter rd rs1) s = execSenter rd rs1 s := rfl
theorem exec_senterV2 (rd rs1) : exec (.senterV2 rd rs1) s = execSenterV2 rd rs1 s := rfl
theorem exec_scancel (rs1) : exec (.scancel rs1) s = execScancel rs1 s := rfl
theorem exec_scancelV1V2 (rs1) : exec (.scancelV1V2 rs1) s = execScancelV1V2 rs1 s := rfl
theorem exec_succeed (rd) : exec (.succeed rd) s = execSucceed rd s := rfl
theorem exec_succeedV1V2 (rd) : exec (.succeedV1V2 rd) s = execSucceedV1V2 rd s := rfl
theorem exec_sstat (rd rs1) : exec (.sstat rd rs1) s = execSstat rd rs1 s := rfl
theorem exec_sstatV1V2 (rd rs1) : exec (.sstatV1V2 rd rs1) s = execSstatV1V2 rd rs1 s := rfl
theorem exec_spawn (rd rs1 rs2 rs3) : exec (.spawn rd rs1 rs2 rs3) s = execSpawn rd rs1 rs2 rs3 s := rfl
theorem exec_spawnIn (rd rs1 rs2 rs3) : exec (.spawnIn rd rs1 rs2 rs3) s = execSpawnIn rd rs1 rs2 rs3 s := rfl
theorem exec_tsknew (rd rs1 rs2) : exec (.tsknew rd rs1 rs2) s = execTsknew rd rs1 rs2 s := rfl
theorem exec_tskpub (rs1) : exec (.tskpub rs1) s = execTskpub rs1 s := rfl
theorem exec_tsksig (rs1) : exec (.tsksig rs1) s = execTsksig rs1 s := rfl
theorem exec_tskstat (rd rs1) : exec (.tskstat rd rs1) s = execTskstat rd rs1 s := rfl
theorem exec_rnginit (rd rs1 rs2) : exec (.rnginit rd rs1 rs2) s = execRnginit rd rs1 rs2 s := rfl
theorem exec_rclaim (rd) : exec (.rclaim rd) s = execRclaim rd s := rfl
theorem exec_rsteal (rd rs1) : exec (.rsteal rd rs1) s = execRsteal rd rs1 s := rfl
theorem exec_msend (rs1 rs2) : exec (.msend rs1 rs2) s = execMsend rs1 rs2 s := rfl
theorem exec_msend4 (rs1 rs2) : exec (.msend4 rs1 rs2) s = execMsend4 rs1 rs2 s := rfl
theorem exec_mrecv (rd rs1) : exec (.mrecv rd rs1) s = execMrecv rd rs1 s := rfl
theorem exec_mrecv4 (rd rs1) : exec (.mrecv4 rd rs1) s = execMrecv4 rd rs1 s := rfl
theorem exec_mpeek (rd rs1) : exec (.mpeek rd rs1) s = execMpeek rd rs1 s := rfl
theorem exec_bar (rd rs1) : exec (.bar rd rs1) s = execBar rd rs1 s := rfl
theorem exec_waiteq (rd rs1 rs2) : exec (.waiteq rd rs1 rs2) s = execWaiteq rd rs1 rs2 s := rfl
theorem exec_waitne (rd rs1 rs2) : exec (.waitne rd rs1 rs2) s = execWaitne rd rs1 rs2 s := rfl
theorem exec_waitge (rd rs1 rs2) : exec (.waitge rd rs1 rs2) s = execWaitge rd rs1 rs2 s := rfl
theorem exec_void (rd) : exec (.void rd) s = execVoid rd s := rfl
theorem exec_vtest (rd rs1) : exec (.vtest rd rs1) s = execVtest rd rs1 s := rfl
theorem exec_bvoid (rs1 imm) : exec (.bvoid rs1 imm) s = execBvoid rs1 imm s := rfl
theorem exec_bnvoid (rs1 imm) : exec (.bnvoid rs1 imm) s = execBnvoid rs1 imm s := rfl
theorem exec_jtab (rs1 rs2 imm) : exec (.jtab rs1 rs2 imm) s = execJtab rs1 rs2 imm s := rfl
theorem exec_lda (r z rd rs1) : exec (.lda r z rd rs1) s = execLda r z rd rs1 s := rfl
theorem exec_stl (r z rs1 rs2) : exec (.stl r z rs1 rs2) s = execStl r z rs1 rs2 s := rfl
theorem exec_lds (z rd rs1) : exec (.lds z rd rs1) s = execLds z rd rs1 s := rfl
theorem exec_mcst (z rs1 rs2) : exec (.mcst z rs1 rs2) s = execMcst z rs1 rs2 s := rfl
theorem exec_amoadd (r wd rd rs1 rs2) : exec (.amoadd r wd rd rs1 rs2) s = execAmoadd r wd rd rs1 rs2 s := rfl
theorem exec_amoswp (r wd rd rs1 rs2) : exec (.amoswp r wd rd rs1 rs2) s = execAmoswp r wd rd rs1 rs2 s := rfl
theorem exec_amocas (r wd rd rs1 rs2) : exec (.amocas r wd rd rs1 rs2) s = execAmocas r wd rd rs1 rs2 s := rfl
theorem exec_amomax (r wd rd rs1 rs2) : exec (.amomax r wd rd rs1 rs2) s = execAmomax r wd rd rs1 rs2 s := rfl
theorem exec_amomin (r wd rd rs1 rs2) : exec (.amomin r wd rd rs1 rs2) s = execAmomin r wd rd rs1 rs2 s := rfl
theorem exec_amoand (r wd rd rs1 rs2) : exec (.amoand r wd rd rs1 rs2) s = execAmoand r wd rd rs1 rs2 s := rfl
theorem exec_amoor (r wd rd rs1 rs2) : exec (.amoor r wd rd rs1 rs2) s = execAmoor r wd rd rs1 rs2 s := rfl
theorem exec_amoxor (r wd rd rs1 rs2) : exec (.amoxor r wd rd rs1 rs2) s = execAmoxor r wd rd rs1 rs2 s := rfl
theorem exec_fenceReach (r pred succ) : exec (.fenceReach r pred succ) s = execFenceReach r pred succ s := rfl
theorem exec_cpy (tag rs1 rs2 rs3) : exec (.cpy tag rs1 rs2 rs3) s = execCpy tag rs1 rs2 rs3 s := rfl
theorem exec_cpymc (tag rs1 rs2 rs3) : exec (.cpymc tag rs1 rs2 rs3) s = execCpymc tag rs1 rs2 rs3 s := rfl
theorem exec_cpy2d (tag rs1 rs2 rs3) : exec (.cpy2d tag rs1 rs2 rs3) s = execCpy2d tag rs1 rs2 rs3 s := rfl
theorem exec_cbcfg (cb rs2) : exec (.cbcfg cb rs2) s = execCbcfg cb rs2 s := rfl
theorem exec_cbwaitf (rd cb rs2) : exec (.cbwaitf rd cb rs2) s = execCbwaitf rd cb rs2 s := rfl
theorem exec_cbwaite (rd cb rs2) : exec (.cbwaite rd cb rs2) s = execCbwaite rd cb rs2 s := rfl
theorem exec_cbadvp (cb rs2) : exec (.cbadvp cb rs2) s = execCbadvp cb rs2 s := rfl
theorem exec_cbadvc (cb rs2) : exec (.cbadvc cb rs2) s = execCbadvc cb rs2 s := rfl
theorem exec_cbstat (rd cb rs2) : exec (.cbstat rd cb rs2) s = execCbstat rd cb rs2 s := rfl
theorem exec_tagwa (rd rs1) : exec (.tagwa rd rs1) s = execTagwa rd rs1 s := rfl
theorem exec_tagwl (rd rs1) : exec (.tagwl rd rs1) s = execTagwl rd rs1 s := rfl
theorem exec_tagff (rd rs1) : exec (.tagff rd rs1) s = execTagff rd rs1 s := rfl
theorem exec_tagclr (rs1) : exec (.tagclr rs1) s = execTagclr rs1 s := rfl
theorem exec_bgive (rs1 rs2) : exec (.bgive rs1 rs2) s = execBgive rs1 rs2 s := rfl
theorem exec_btake (rd rs1 rs2) : exec (.btake rd rs1 rs2) s = execBtake rd rs1 rs2 s := rfl
theorem exec_bstat (rd rs1) : exec (.bstat rd rs1) s = execBstat rd rs1 s := rfl
theorem exec_qld (rd rs1 rs2) : exec (.qld rd rs1 rs2) s = execQld rd rs1 rs2 s := rfl
theorem exec_qldw (rd rs1 rs2) : exec (.qldw rd rs1 rs2) s = execQldw rd rs1 rs2 s := rfl
theorem exec_qst (rd rs1 rs2) : exec (.qst rd rs1 rs2) s = execQst rd rs1 rs2 s := rfl
theorem exec_qstw (rd rs1 rs2) : exec (.qstw rd rs1 rs2) s = execQstw rd rs1 rs2 s := rfl
theorem exec_qldq (rd rs1 rs2) : exec (.qldq rd rs1 rs2) s = execQldq rd rs1 rs2 s := rfl
theorem exec_qstq (rd rs1 rs2) : exec (.qstq rd rs1 rs2) s = execQstq rd rs1 rs2 s := rfl
theorem exec_qnew (rd rs1 rs2) : exec (.qnew rd rs1 rs2) s = execQnew rd rs1 rs2 s := rfl
theorem exec_qpin (rd rs1) : exec (.qpin rd rs1) s = execQpin rd rs1 s := rfl
theorem exec_qunpin (rs1) : exec (.qunpin rs1) s = execQunpin rs1 s := rfl
theorem exec_qeq (rd rs1 rs2) : exec (.qeq rd rs1 rs2) s = execQeq rd rs1 rs2 s := rfl
theorem exec_qtag (rd rs1 rs2) : exec (.qtag rd rs1 rs2) s = execQtag rd rs1 rs2 s := rfl
theorem exec_qclr (rd) : exec (.qclr rd) s = execQclr rd s := rfl
theorem exec_qmv (rd rs1) : exec (.qmv rd rs1) s = execQmv rd rs1 s := rfl
theorem exec_reloc (rd rs1 rs2) : exec (.reloc rd rs1 rs2) s = execReloc rd rs1 rs2 s := rfl
theorem exec_vadd (ty rd rs1 rs2) : exec (.vadd ty rd rs1 rs2) s = execVadd ty rd rs1 rs2 s := rfl
theorem exec_vsub (ty rd rs1 rs2) : exec (.vsub ty rd rs1 rs2) s = execVsub ty rd rs1 rs2 s := rfl
theorem exec_vmul (ty rd rs1 rs2) : exec (.vmul ty rd rs1 rs2) s = execVmul ty rd rs1 rs2 s := rfl
theorem exec_vmax (ty rd rs1 rs2) : exec (.vmax ty rd rs1 rs2) s = execVmax ty rd rs1 rs2 s := rfl
theorem exec_vmin (ty rd rs1 rs2) : exec (.vmin ty rd rs1 rs2) s = execVmin ty rd rs1 rs2 s := rfl
theorem exec_vand (ty rd rs1 rs2) : exec (.vand ty rd rs1 rs2) s = execVand ty rd rs1 rs2 s := rfl
theorem exec_vor (ty rd rs1 rs2) : exec (.vor ty rd rs1 rs2) s = execVor ty rd rs1 rs2 s := rfl
theorem exec_vxor (ty rd rs1 rs2) : exec (.vxor ty rd rs1 rs2) s = execVxor ty rd rs1 rs2 s := rfl
theorem exec_vshl (ty rd rs1 rs2) : exec (.vshl ty rd rs1 rs2) s = execVshl ty rd rs1 rs2 s := rfl
theorem exec_vshr (ty rd rs1 rs2) : exec (.vshr ty rd rs1 rs2) s = execVshr ty rd rs1 rs2 s := rfl
theorem exec_vsra (ty rd rs1 rs2) : exec (.vsra ty rd rs1 rs2) s = execVsra ty rd rs1 rs2 s := rfl
theorem exec_vabs (ty rd rs1) : exec (.vabs ty rd rs1) s = execVabs ty rd rs1 s := rfl
theorem exec_vneg (ty rd rs1) : exec (.vneg ty rd rs1) s = execVneg ty rd rs1 s := rfl
theorem exec_vexp2 (ty rd rs1) : exec (.vexp2 ty rd rs1) s = execVexp2 ty rd rs1 s := rfl
theorem exec_vlog2 (ty rd rs1) : exec (.vlog2 ty rd rs1) s = execVlog2 ty rd rs1 s := rfl
theorem exec_vrcp (ty rd rs1) : exec (.vrcp ty rd rs1) s = execVrcp ty rd rs1 s := rfl
theorem exec_vrsq (ty rd rs1) : exec (.vrsq ty rd rs1) s = execVrsq ty rd rs1 s := rfl
theorem exec_vmov (ty rd rs1) : exec (.vmov ty rd rs1) s = execVmov ty rd rs1 s := rfl
theorem exec_vbcast (ty rd rs1) : exec (.vbcast ty rd rs1) s = execVbcast ty rd rs1 s := rfl
theorem exec_vfma (rd rs1 rs2 rs3) : exec (.vfma rd rs1 rs2 rs3) s = execVfma rd rs1 rs2 rs3 s := rfl
theorem exec_vfms (rd rs1 rs2 rs3) : exec (.vfms rd rs1 rs2 rs3) s = execVfms rd rs1 rs2 rs3 s := rfl
theorem exec_vsel (rd rs1 rs2 rs3) : exec (.vsel rd rs1 rs2 rs3) s = execVsel rd rs1 rs2 rs3 s := rfl
theorem exec_vld (rd rs1 imm) : exec (.vld rd rs1 imm) s = execVld rd rs1 imm s := rfl
theorem exec_vst (rs2 rs1 imm) : exec (.vst rs2 rs1 imm) s = execVst rs2 rs1 imm s := rfl
theorem exec_vredsum (rd rs1) : exec (.vredsum rd rs1) s = execVredsum rd rs1 s := rfl
theorem exec_vredmax (rd rs1) : exec (.vredmax rd rs1) s = execVredmax rd rs1 s := rfl
theorem exec_vredmin (rd rs1) : exec (.vredmin rd rs1) s = execVredmin rd rs1 s := rfl
theorem exec_vmvx (rd rs1 rs2) : exec (.vmvx rd rs1 rs2) s = execVmvx rd rs1 rs2 s := rfl
theorem exec_vmvf (rd rs1 rs2) : exec (.vmvf rd rs1 rs2) s = execVmvf rd rs1 rs2 s := rfl
theorem exec_vins (rd rs1 rs2) : exec (.vins rd rs1 rs2) s = execVins rd rs1 rs2 s := rfl
theorem exec_vperm (rd rs1 rs2) : exec (.vperm rd rs1 rs2) s = execVperm rd rs1 rs2 s := rfl
theorem exec_vslide (rd rs1 rs2) : exec (.vslide rd rs1 rs2) s = execVslide rd rs1 rs2 s := rfl
theorem exec_vhad (rd rs1 rs2) : exec (.vhad rd rs1 rs2) s = execVhad rd rs1 rs2 s := rfl
theorem exec_vtopk (rd rs1 rs2) : exec (.vtopk rd rs1 rs2) s = execVtopk rd rs1 rs2 s := rfl
theorem exec_vtmask (rd rs1 rs2) : exec (.vtmask rd rs1 rs2) s = execVtmask rd rs1 rs2 s := rfl
theorem exec_vcmpeq (rd rs1 rs2) : exec (.vcmpeq rd rs1 rs2) s = execVcmpeq rd rs1 rs2 s := rfl
theorem exec_vcmpne (rd rs1 rs2) : exec (.vcmpne rd rs1 rs2) s = execVcmpne rd rs1 rs2 s := rfl
theorem exec_vcmplt (rd rs1 rs2) : exec (.vcmplt rd rs1 rs2) s = execVcmplt rd rs1 rs2 s := rfl
theorem exec_vcmple (rd rs1 rs2) : exec (.vcmple rd rs1 rs2) s = execVcmple rd rs1 rs2 s := rfl
theorem exec_vcvt (code rd rs1) : exec (.vcvt code rd rs1) s = execVcvt code rd rs1 s := rfl
theorem exec_mand (rd rs1 rs2) : exec (.mand rd rs1 rs2) s = execMand rd rs1 rs2 s := rfl
theorem exec_mor (rd rs1 rs2) : exec (.mor rd rs1 rs2) s = execMor rd rs1 rs2 s := rfl
theorem exec_mnot (rd rs1) : exec (.mnot rd rs1) s = execMnot rd rs1 s := rfl
theorem exec_mpop (rd rs1) : exec (.mpop rd rs1) s = execMpop rd rs1 s := rfl
theorem exec_vldx (rd rs1 rs2) : exec (.vldx rd rs1 rs2) s = execVldx rd rs1 rs2 s := rfl
theorem exec_vstx (rd rs1 rs2) : exec (.vstx rd rs1 rs2) s = execVstx rd rs1 rs2 s := rfl
theorem exec_vlds (rd rs1 rs2) : exec (.vlds rd rs1 rs2) s = execVlds rd rs1 rs2 s := rfl
theorem exec_mxstrm (p acc cb rs2 rs3) : exec (.mxstrm p acc cb rs2 rs3) s = execMxstrm p acc cb rs2 rs3 s := rfl
theorem exec_mxldw (cb rs2) : exec (.mxldw cb rs2) s = execMxldw cb rs2 s := rfl
theorem exec_mxzero (acc) : exec (.mxzero acc) s = execMxzero acc s := rfl
theorem exec_mxwb (cb acc rs2) : exec (.mxwb cb acc rs2) s = execMxwb cb acc rs2 s := rfl
theorem exec_mxrd (rd acc rs2) : exec (.mxrd rd acc rs2) s = execMxrd rd acc rs2 s := rfl
theorem exec_mxwait (rd) : exec (.mxwait rd) s = execMxwait rd s := rfl
theorem exec_mxstat (rd acc) : exec (.mxstat rd acc) s = execMxstat rd acc s := rfl
theorem exec_smbind (rs1) : exec (.smbind rs1) s = execSmbind rs1 s := rfl
theorem exec_smcommit (rd rs1 rs2) : exec (.smcommit rd rs1 rs2) s = execSmcommit rd rs1 rs2 s := rfl
theorem exec_smplay (rs1) : exec (.smplay rs1) s = execSmplay rs1 s := rfl
theorem exec_smframe (rd rs1) : exec (.smframe rd rs1) s = execSmframe rd rs1 s := rfl
theorem exec_smtrunc (rd) : exec (.smtrunc rd) s = execSmtrunc rd s := rfl
theorem exec_smsnap (rs1) : exec (.smsnap rs1) s = execSmsnap rs1 s := rfl
theorem exec_smstat (rd rs1) : exec (.smstat rd rs1) s = execSmstat rd rs1 s := rfl
theorem exec_smkv (rd rs1) : exec (.smkv rd rs1) s = execSmkv rd rs1 s := rfl
theorem exec_phash (rd rs1 rs2) : exec (.phash rd rs1 rs2) s = execPhash rd rs1 rs2 s := rfl
theorem exec_pfxlook (rd rs1 rs2) : exec (.pfxlook rd rs1 rs2) s = execPfxlook rd rs1 rs2 s := rfl
theorem exec_pfxins (rd rs1 rs2) : exec (.pfxins rd rs1 rs2) s = execPfxins rd rs1 rs2 s := rfl
theorem exec_pfxpin (rs1) : exec (.pfxpin rs1) s = execPfxpin rs1 s := rfl
theorem exec_pfxunpin (rs1) : exec (.pfxunpin rs1) s = execPfxunpin rs1 s := rfl
theorem exec_sdraw (rd rs1 rs2) : exec (.sdraw rd rs1 rs2) s = execSdraw rd rs1 rs2 s := rfl
theorem exec_topkmrg (rd rs1 rs2) : exec (.topkmrg rd rs1 rs2) s = execTopkmrg rd rs1 rs2 s := rfl
theorem exec_treegen (rd rs1 rs2) : exec (.treegen rd rs1 rs2) s = execTreegen rd rs1 rs2 s := rfl
theorem exec_daccept (rd rs1 rs2) : exec (.daccept rd rs1 rs2) s = execDaccept rd rs1 rs2 s := rfl
theorem exec_ecall : exec .ecall s = execEcall s := rfl
theorem exec_ebreak : exec .ebreak s = execEbreak s := rfl
theorem exec_mret : exec .mret s = execMret s := rfl
theorem exec_wfi : exec .wfi s = execWfi s := rfl
theorem exec_shield : exec .shield s = execShield s := rfl
theorem exec_shieldV1V2 : exec .shieldV1V2 s = execShieldV1V2 s := rfl
theorem exec_unshield : exec .unshield s = execUnshield s := rfl
theorem exec_unshieldV1V2 : exec .unshieldV1V2 s = execUnshieldV1V2 s := rfl
theorem exec_chkc : exec .chkc s = execChkc s := rfl
theorem exec_chkcV1V2 : exec .chkcV1V2 s = execChkcV1V2 s := rfl
theorem exec_exit : exec .exit s = execExit s := rfl
theorem exec_exitV1V2 : exec .exitV1V2 s = execExitV1V2 s := rfl
theorem exec_yield : exec .yield s = execYield s := rfl
theorem exec_yieldV1V2 : exec .yieldV1V2 s = execYieldV1V2 s := rfl
theorem exec_mxswap : exec .mxswap s = execMxswap s := rfl
theorem exec_waitReevaluate : exec .waitReevaluate s = execWaitReevaluate s := rfl
theorem exec_waitTimeout : exec .waitTimeout s = execWaitTimeout s := rfl
theorem exec_issueStallEnd : exec .issueStallEnd s = execIssueStallEnd s := rfl
theorem exec_sliceExpiry : exec .sliceExpiry s = execSliceExpiry s := rfl
theorem exec_parkedWake : exec .parkedWake s = execParkedWake s := rfl
theorem exec_watchdog : exec .watchdog s = execWatchdog s := rfl
theorem exec_matrixOperandDelivery : exec .matrixOperandDelivery s = execMatrixOperandDelivery s := rfl
theorem exec_latlimExpiry : exec .latlimExpiry s = execLatlimExpiry s := rfl
theorem exec_taskDispatch : exec .taskDispatch s = execTaskDispatch s := rfl
theorem exec_tscRestart : exec .tscRestart s = execTscRestart s := rfl
theorem exec_copyPieceWrite : exec .copyPieceWrite s = execCopyPieceWrite s := rfl
theorem exec_copyFinish : exec .copyFinish s = execCopyFinish s := rfl
theorem exec_weevilSliceCopy : exec .weevilSliceCopy s = execWeevilSliceCopy s := rfl
theorem exec_weevilPassEnd : exec .weevilPassEnd s = execWeevilPassEnd s := rfl
theorem exec_flipWindowClose : exec .flipWindowClose s = execFlipWindowClose s := rfl
theorem exec_relocAbandon : exec .relocAbandon s = execRelocAbandon s := rfl
theorem exec_arrayMxldwStart : exec .arrayMxldwStart s = execArrayMxldwStart s := rfl
theorem exec_arrayMxldwSlot : exec .arrayMxldwSlot s = execArrayMxldwSlot s := rfl
theorem exec_arrayMxswapRun : exec .arrayMxswapRun s = execArrayMxswapRun s := rfl
theorem exec_arrayMxzeroRun : exec .arrayMxzeroRun s = execArrayMxzeroRun s := rfl
theorem exec_arrayStreamHeadCheck : exec .arrayStreamHeadCheck s = execArrayStreamHeadCheck s := rfl
theorem exec_arrayRowEnter : exec .arrayRowEnter s = execArrayRowEnter s := rfl
theorem exec_arrayRowUpdate : exec .arrayRowUpdate s = execArrayRowUpdate s := rfl
theorem exec_arrayMxwbRow : exec .arrayMxwbRow s = execArrayMxwbRow s := rfl
theorem exec_arrayCancelStop : exec .arrayCancelStop s = execArrayCancelStop s := rfl
theorem exec_arrayPoisonFault : exec .arrayPoisonFault s = execArrayPoisonFault s := rfl
theorem exec_translationWalk : exec .translationWalk s = execTranslationWalk s := rfl
theorem exec_weightReturn : exec .weightReturn s = execWeightReturn s := rfl
theorem exec_trackerReturn : exec .trackerReturn s = execTrackerReturn s := rfl
theorem exec_cancelMessageArrive : exec .cancelMessageArrive s = execCancelMessageArrive s := rfl
theorem exec_thresholdSample : exec .thresholdSample s = execThresholdSample s := rfl
theorem exec_kilnTake : exec .kilnTake s = execKilnTake s := rfl
theorem exec_launch : exec .launch s = execLaunch s := rfl
theorem exec_launchPlace : exec .launchPlace s = execLaunchPlace s := rfl
theorem exec_completionPost : exec .completionPost s = execCompletionPost s := rfl
theorem exec_kill : exec .kill s = execKill s := rfl
theorem exec_waitToken : exec .waitToken s = execWaitToken s := rfl
theorem exec_createHeap : exec .createHeap s = execCreateHeap s := rfl
theorem exec_destroyHeap : exec .destroyHeap s = execDestroyHeap s := rfl
theorem exec_createStream : exec .createStream s = execCreateStream s := rfl
theorem exec_destroyStream : exec .destroyStream s = execDestroyStream s := rfl
theorem exec_aspaceSet : exec .aspaceSet s = execAspaceSet s := rfl
theorem exec_aspaceInval : exec .aspaceInval s = execAspaceInval s := rfl
theorem exec_threshold : exec .threshold s = execThreshold s := rfl
theorem exec_setClock : exec .setClock s = execSetClock s := rfl
theorem exec_groupSet : exec .groupSet s = execGroupSet s := rfl
theorem exec_groupCancelReceive : exec .groupCancelReceive s = execGroupCancelReceive s := rfl
theorem exec_clockStallEnd : exec .clockStallEnd s = execClockStallEnd s := rfl
theorem exec_notifyWrite : exec .notifyWrite s = execNotifyWrite s := rfl
theorem exec_cheadWrite : exec .cheadWrite s = execCheadWrite s := rfl
theorem exec_queueEnable : exec .queueEnable s = execQueueEnable s := rfl
theorem exec_queueDisable : exec .queueDisable s = execQueueDisable s := rfl
theorem exec_tokenCounterWrite : exec .tokenCounterWrite s = execTokenCounterWrite s := rfl
theorem exec_deviceEventClear : exec .deviceEventClear s = execDeviceEventClear s := rfl
theorem exec_registerWrite : exec .registerWrite s = execRegisterWrite s := rfl
theorem exec_flr : exec .flr s = execFlr s := rfl
theorem exec_stopInterface : exec .stopInterface s = execStopInterface s := rfl
theorem exec_ideFailure : exec .ideFailure s = execIdeFailure s := rfl
theorem exec_tdispLock : exec .tdispLock s = execTdispLock s := rfl
theorem exec_deviceReset : exec .deviceReset s = execDeviceReset s := rfl
theorem exec_lifecycleProvision : exec .lifecycleProvision s = execLifecycleProvision s := rfl
theorem exec_lifecycleDeploy : exec .lifecycleDeploy s = execLifecycleDeploy s := rfl
theorem exec_lifecycleReturn : exec .lifecycleReturn s = execLifecycleReturn s := rfl
theorem exec_lifecycleReprovision : exec .lifecycleReprovision s = execLifecycleReprovision s := rfl
theorem exec_spdmVersion : exec .spdmVersion s = execSpdmVersion s := rfl
theorem exec_spdmCapabilities : exec .spdmCapabilities s = execSpdmCapabilities s := rfl
theorem exec_spdmAlgorithms : exec .spdmAlgorithms s = execSpdmAlgorithms s := rfl
theorem exec_spdmDigests : exec .spdmDigests s = execSpdmDigests s := rfl
theorem exec_spdmCertificate : exec .spdmCertificate s = execSpdmCertificate s := rfl
theorem exec_spdmChallenge : exec .spdmChallenge s = execSpdmChallenge s := rfl
theorem exec_spdmMeasurements : exec .spdmMeasurements s = execSpdmMeasurements s := rfl
theorem exec_spdmKeyExchange : exec .spdmKeyExchange s = execSpdmKeyExchange s := rfl
theorem exec_kilnTakeover : exec .kilnTakeover s = execKilnTakeover s := rfl
theorem exec_kilnScrub : exec .kilnScrub s = execKilnScrub s := rfl
theorem exec_kilnReload : exec .kilnReload s = execKilnReload s := rfl
theorem exec_tileMapout : exec .tileMapout s = execTileMapout s := rfl
theorem exec_patrolScrub : exec .patrolScrub s = execPatrolScrub s := rfl
theorem exec_remoteAck : exec .remoteAck s = execRemoteAck s := rfl
theorem exec_remoteTimeout : exec .remoteTimeout s = execRemoteTimeout s := rfl
theorem exec_linkFailure : exec .linkFailure s = execLinkFailure s := rfl
theorem exec_timeFlit : exec .timeFlit s = execTimeFlit s := rfl
theorem exec_tempPowerSample : exec .tempPowerSample s = execTempPowerSample s := rfl
theorem exec_thermalStepUp : exec .thermalStepUp s = execThermalStepUp s := rfl
theorem exec_thermal : exec .thermal s = execThermal s := rfl
theorem exec_trip : exec .trip s = execTrip s := rfl
theorem exec_attach : exec .attach s = execAttach s := rfl
theorem exec_detach : exec .detach s = execDetach s := rfl
theorem exec_halt : exec .halt s = execHalt s := rfl
theorem exec_resume : exec .resume s = execResume s := rfl
theorem exec_step : exec .step s = execStep s := rfl
theorem exec_setbp : exec .setbp s = execSetbp s := rfl
theorem exec_setwp : exec .setwp s = execSetwp s := rfl
theorem exec_read : exec .read s = execRead s := rfl
theorem exec_write : exec .write s = execWrite s := rfl
theorem exec_scope : exec .scope s = execScope s := rfl
theorem exec_mem : exec .mem s = execMem s := rfl
theorem exec_events : exec .events s = execEvents s := rfl
theorem exec_remoteOperationArrive : exec .remoteOperationArrive s = execRemoteOperationArrive s := rfl
theorem exec_cxlMemAccess : exec .cxlMemAccess s = execCxlMemAccess s := rfl

end Sys2Proof.Machine
end

