-- ==== Sys2Proof/Laws/Table.lean ====
section
/-! SUPPORT. Reading a table after a write or a removal. -/

namespace Sys2Proof

variable {α : Type}

@[simp] theorem tfind_tset_self (t : Table α) (k : Nat) (a : α) : tfind (tset t k a) k = some a := by
  induction t with
  | nil => simp [tset, tfind]
  | cons p t ih =>
    obtain ⟨j, b⟩ := p
    unfold tset
    split
    · simp [tfind]
    · split
      · simp [tfind]
      · rename_i h _; simp [tfind, h, ih]

@[simp] theorem tfind_tset_ne (t : Table α) {k j : Nat} (a : α) (h : j ≠ k) :
    tfind (tset t k a) j = tfind t j := by
  induction t with
  | nil => simp [tset, tfind, Ne.symm h]
  | cons p t ih =>
    obtain ⟨i, b⟩ := p
    unfold tset
    split
    · rename_i e; subst e; simp [tfind, Ne.symm h]
    · split
      · simp [tfind, Ne.symm h]
      · simp only [tfind]; split <;> simp [ih]

theorem tfind_tset (t : Table α) (k j : Nat) (a : α) :
    tfind (tset t k a) j = if j = k then some a else tfind t j := by
  split
  · rename_i e; subst e; simp
  · rename_i e; exact tfind_tset_ne t a e

theorem tfind_tdel (t : Table α) (k j : Nat) : tfind (tdel t k) j = if j = k then none else tfind t j := by
  induction t with
  | nil => simp [tdel, tfind]
  | cons p t ih =>
    obtain ⟨i, b⟩ := p
    unfold tdel at ih ⊢
    by_cases hi : i = k
    · subst hi
      simp only [List.filter_cons, bne_self_eq_false, Bool.false_eq_true, if_false, ih, tfind]
      split
      · rfl
      · rename_i h; simp [Ne.symm h]
    · simp only [List.filter_cons, bne_iff_ne, ne_eq, hi, not_false_eq_true, if_true, tfind, ih]
      split
      · rename_i e; subst e; simp [hi]
      · rfl

/-- A mapped table has the mapped entry. -/
theorem tfind_map {β : Type} (t : Table α) (f : Nat → α → β) (k : Nat) :
    tfind (t.map (fun p => (p.1, f p.1 p.2))) k = (tfind t k).map (f k) := by
  induction t with
  | nil => rfl
  | cons p t ih =>
    obtain ⟨j, b⟩ := p
    simp only [List.map_cons, tfind]
    split
    · rename_i e; subst e; rfl
    · exact ih

end Sys2Proof
end

