-- ==== Sys2Proof/Laws/State.lean ====
section
/-! SUPPORT. Each field of the state after each of the updates that write one record, and each field of a
thread after each register write: true by rfl, so that no proof unfolds a record update. -/

namespace Sys2Proof.Machine

namespace State

section Updates
variable (s : State) (t l : Nat)

@[simp] theorem setTh_time (th : Thread) : (s.setTh t th).time = s.time := rfl
@[simp] theorem setTh_slew (th : Thread) : (s.setTh t th).slew = s.slew := rfl
@[simp] theorem setTh_slewAt (th : Thread) : (s.setTh t th).slewAt = s.slewAt := rfl
@[simp] theorem setTh_timeMaster (th : Thread) : (s.setTh t th).timeMaster = s.timeMaster := rfl
@[simp] theorem setTh_mem (th : Thread) : (s.setTh t th).mem = s.mem := rfl
@[simp] theorem setTh_poison (th : Thread) : (s.setTh t th).poison = s.poison := rfl
@[simp] theorem setTh_threadReuse (th : Thread) : (s.setTh t th).threadReuse = s.threadReuse := rfl
@[simp] theorem setTh_scopes (th : Thread) : (s.setTh t th).scopes = s.scopes := rfl
@[simp] theorem setTh_tasks (th : Thread) : (s.setTh t th).tasks = s.tasks := rfl
@[simp] theorem setTh_tiles (th : Thread) : (s.setTh t th).tiles = s.tiles := rfl
@[simp] theorem setTh_clusters (th : Thread) : (s.setTh t th).clusters = s.clusters := rfl
@[simp] theorem setTh_dies (th : Thread) : (s.setTh t th).dies = s.dies := rfl
@[simp] theorem setTh_heaps (th : Thread) : (s.setTh t th).heaps = s.heaps := rfl
@[simp] theorem setTh_streams (th : Thread) : (s.setTh t th).streams = s.streams := rfl
@[simp] theorem setTh_pfx (th : Thread) : (s.setTh t th).pfx = s.pfx := rfl
@[simp] theorem setTh_pfxUse (th : Thread) : (s.setTh t th).pfxUse = s.pfxUse := rfl
@[simp] theorem setTh_aspaces (th : Thread) : (s.setTh t th).aspaces = s.aspaces := rfl
@[simp] theorem setTh_returns (th : Thread) : (s.setTh t th).returns = s.returns := rfl
@[simp] theorem setTh_remotes (th : Thread) : (s.setTh t th).remotes = s.remotes := rfl
@[simp] theorem setTh_sent (th : Thread) : (s.setTh t th).sent = s.sent := rfl
@[simp] theorem setTh_queues (th : Thread) : (s.setTh t th).queues = s.queues := rfl
@[simp] theorem setTh_cmds (th : Thread) : (s.setTh t th).cmds = s.cmds := rfl
@[simp] theorem setTh_donePosts (th : Thread) : (s.setTh t th).donePosts = s.donePosts := rfl
@[simp] theorem setTh_nextCmd (th : Thread) : (s.setTh t th).nextCmd = s.nextCmd := rfl
@[simp] theorem setTh_nextOp (th : Thread) : (s.setTh t th).nextOp = s.nextOp := rfl
@[simp] theorem setTh_funcs (th : Thread) : (s.setTh t th).funcs = s.funcs := rfl
@[simp] theorem setTh_thresholds (th : Thread) : (s.setTh t th).thresholds = s.thresholds := rfl
@[simp] theorem setTh_groups (th : Thread) : (s.setTh t th).groups = s.groups := rfl
@[simp] theorem setTh_groupsSent (th : Thread) : (s.setTh t th).groupsSent = s.groupsSent := rfl
@[simp] theorem setTh_lastTaken (th : Thread) : (s.setTh t th).lastTaken = s.lastTaken := rfl
@[simp] theorem setTh_devEvents (th : Thread) : (s.setTh t th).devEvents = s.devEvents := rfl
@[simp] theorem setTh_devNum (th : Thread) : (s.setTh t th).devNum = s.devNum := rfl
@[simp] theorem setTh_life (th : Thread) : (s.setTh t th).life = s.life := rfl
@[simp] theorem setTh_booted (th : Thread) : (s.setTh t th).booted = s.booted := rfl
@[simp] theorem setTh_lanes (th : Thread) : (s.setTh t th).lanes = s.lanes := rfl
@[simp] theorem setTh_hbmch (th : Thread) : (s.setTh t th).hbmch = s.hbmch := rfl
@[simp] theorem setTh_hbmbytes (th : Thread) : (s.setTh t th).hbmbytes = s.hbmbytes := rfl
@[simp] theorem setTh_hbmLost (th : Thread) : (s.setTh t th).hbmLost = s.hbmLost := rfl
@[simp] theorem setTh_measured (th : Thread) : (s.setTh t th).measured = s.measured := rfl
@[simp] theorem setTh_takeovers (th : Thread) : (s.setTh t th).takeovers = s.takeovers := rfl
@[simp] theorem setTh_kilnDie (th : Thread) : (s.setTh t th).kilnDie = s.kilnDie := rfl
@[simp] theorem setTh_standby (th : Thread) : (s.setTh t th).standby = s.standby := rfl
@[simp] theorem setTh_kilnFailed (th : Thread) : (s.setTh t th).kilnFailed = s.kilnFailed := rfl
@[simp] theorem setTh_takeoverUntil (th : Thread) : (s.setTh t th).takeoverUntil = s.takeoverUntil := rfl
@[simp] theorem setTh_lateNotify (th : Thread) : (s.setTh t th).lateNotify = s.lateNotify := rfl
@[simp] theorem setTh_tripped (th : Thread) : (s.setTh t th).tripped = s.tripped := rfl
@[simp] theorem setTh_journal (th : Thread) : (s.setTh t th).journal = s.journal := rfl
@[simp] theorem setTh_replica (th : Thread) : (s.setTh t th).replica = s.replica := rfl
@[simp] theorem setTh_shadow (th : Thread) : (s.setTh t th).shadow = s.shadow := rfl
@[simp] theorem setTh_posts (th : Thread) : (s.setTh t th).posts = s.posts := rfl
@[simp] theorem setTh_dbgScopes (th : Thread) : (s.setTh t th).dbgScopes = s.dbgScopes := rfl
@[simp] theorem setTh_freeCount (th : Thread) : (s.setTh t th).freeCount = s.freeCount := rfl
@[simp] theorem setTh_agenda (th : Thread) : (s.setTh t th).agenda = s.agenda := rfl
@[simp] theorem setTh_cur (th : Thread) : (s.setTh t th).cur = s.cur := rfl
@[simp] theorem setTh_input (th : Thread) : (s.setTh t th).input = s.input := rfl

@[simp] theorem setTile_time (x : Tile) : (s.setTile l x).time = s.time := rfl
@[simp] theorem setTile_slew (x : Tile) : (s.setTile l x).slew = s.slew := rfl
@[simp] theorem setTile_slewAt (x : Tile) : (s.setTile l x).slewAt = s.slewAt := rfl
@[simp] theorem setTile_timeMaster (x : Tile) : (s.setTile l x).timeMaster = s.timeMaster := rfl
@[simp] theorem setTile_mem (x : Tile) : (s.setTile l x).mem = s.mem := rfl
@[simp] theorem setTile_poison (x : Tile) : (s.setTile l x).poison = s.poison := rfl
@[simp] theorem setTile_threads (x : Tile) : (s.setTile l x).threads = s.threads := rfl
@[simp] theorem setTile_threadReuse (x : Tile) : (s.setTile l x).threadReuse = s.threadReuse := rfl
@[simp] theorem setTile_scopes (x : Tile) : (s.setTile l x).scopes = s.scopes := rfl
@[simp] theorem setTile_tasks (x : Tile) : (s.setTile l x).tasks = s.tasks := rfl
@[simp] theorem setTile_clusters (x : Tile) : (s.setTile l x).clusters = s.clusters := rfl
@[simp] theorem setTile_dies (x : Tile) : (s.setTile l x).dies = s.dies := rfl
@[simp] theorem setTile_heaps (x : Tile) : (s.setTile l x).heaps = s.heaps := rfl
@[simp] theorem setTile_streams (x : Tile) : (s.setTile l x).streams = s.streams := rfl
@[simp] theorem setTile_pfx (x : Tile) : (s.setTile l x).pfx = s.pfx := rfl
@[simp] theorem setTile_pfxUse (x : Tile) : (s.setTile l x).pfxUse = s.pfxUse := rfl
@[simp] theorem setTile_aspaces (x : Tile) : (s.setTile l x).aspaces = s.aspaces := rfl
@[simp] theorem setTile_returns (x : Tile) : (s.setTile l x).returns = s.returns := rfl
@[simp] theorem setTile_remotes (x : Tile) : (s.setTile l x).remotes = s.remotes := rfl
@[simp] theorem setTile_sent (x : Tile) : (s.setTile l x).sent = s.sent := rfl
@[simp] theorem setTile_queues (x : Tile) : (s.setTile l x).queues = s.queues := rfl
@[simp] theorem setTile_cmds (x : Tile) : (s.setTile l x).cmds = s.cmds := rfl
@[simp] theorem setTile_donePosts (x : Tile) : (s.setTile l x).donePosts = s.donePosts := rfl
@[simp] theorem setTile_nextCmd (x : Tile) : (s.setTile l x).nextCmd = s.nextCmd := rfl
@[simp] theorem setTile_nextOp (x : Tile) : (s.setTile l x).nextOp = s.nextOp := rfl
@[simp] theorem setTile_funcs (x : Tile) : (s.setTile l x).funcs = s.funcs := rfl
@[simp] theorem setTile_thresholds (x : Tile) : (s.setTile l x).thresholds = s.thresholds := rfl
@[simp] theorem setTile_groups (x : Tile) : (s.setTile l x).groups = s.groups := rfl
@[simp] theorem setTile_groupsSent (x : Tile) : (s.setTile l x).groupsSent = s.groupsSent := rfl
@[simp] theorem setTile_lastTaken (x : Tile) : (s.setTile l x).lastTaken = s.lastTaken := rfl
@[simp] theorem setTile_devEvents (x : Tile) : (s.setTile l x).devEvents = s.devEvents := rfl
@[simp] theorem setTile_devNum (x : Tile) : (s.setTile l x).devNum = s.devNum := rfl
@[simp] theorem setTile_life (x : Tile) : (s.setTile l x).life = s.life := rfl
@[simp] theorem setTile_booted (x : Tile) : (s.setTile l x).booted = s.booted := rfl
@[simp] theorem setTile_lanes (x : Tile) : (s.setTile l x).lanes = s.lanes := rfl
@[simp] theorem setTile_hbmch (x : Tile) : (s.setTile l x).hbmch = s.hbmch := rfl
@[simp] theorem setTile_hbmbytes (x : Tile) : (s.setTile l x).hbmbytes = s.hbmbytes := rfl
@[simp] theorem setTile_hbmLost (x : Tile) : (s.setTile l x).hbmLost = s.hbmLost := rfl
@[simp] theorem setTile_measured (x : Tile) : (s.setTile l x).measured = s.measured := rfl
@[simp] theorem setTile_takeovers (x : Tile) : (s.setTile l x).takeovers = s.takeovers := rfl
@[simp] theorem setTile_kilnDie (x : Tile) : (s.setTile l x).kilnDie = s.kilnDie := rfl
@[simp] theorem setTile_standby (x : Tile) : (s.setTile l x).standby = s.standby := rfl
@[simp] theorem setTile_kilnFailed (x : Tile) : (s.setTile l x).kilnFailed = s.kilnFailed := rfl
@[simp] theorem setTile_takeoverUntil (x : Tile) : (s.setTile l x).takeoverUntil = s.takeoverUntil := rfl
@[simp] theorem setTile_lateNotify (x : Tile) : (s.setTile l x).lateNotify = s.lateNotify := rfl
@[simp] theorem setTile_tripped (x : Tile) : (s.setTile l x).tripped = s.tripped := rfl
@[simp] theorem setTile_journal (x : Tile) : (s.setTile l x).journal = s.journal := rfl
@[simp] theorem setTile_replica (x : Tile) : (s.setTile l x).replica = s.replica := rfl
@[simp] theorem setTile_shadow (x : Tile) : (s.setTile l x).shadow = s.shadow := rfl
@[simp] theorem setTile_posts (x : Tile) : (s.setTile l x).posts = s.posts := rfl
@[simp] theorem setTile_dbgScopes (x : Tile) : (s.setTile l x).dbgScopes = s.dbgScopes := rfl
@[simp] theorem setTile_freeCount (x : Tile) : (s.setTile l x).freeCount = s.freeCount := rfl
@[simp] theorem setTile_agenda (x : Tile) : (s.setTile l x).agenda = s.agenda := rfl
@[simp] theorem setTile_cur (x : Tile) : (s.setTile l x).cur = s.cur := rfl
@[simp] theorem setTile_input (x : Tile) : (s.setTile l x).input = s.input := rfl

@[simp] theorem setCluster_time (x : Cluster) : (s.setCluster l x).time = s.time := rfl
@[simp] theorem setCluster_slew (x : Cluster) : (s.setCluster l x).slew = s.slew := rfl
@[simp] theorem setCluster_slewAt (x : Cluster) : (s.setCluster l x).slewAt = s.slewAt := rfl
@[simp] theorem setCluster_timeMaster (x : Cluster) : (s.setCluster l x).timeMaster = s.timeMaster := rfl
@[simp] theorem setCluster_mem (x : Cluster) : (s.setCluster l x).mem = s.mem := rfl
@[simp] theorem setCluster_poison (x : Cluster) : (s.setCluster l x).poison = s.poison := rfl
@[simp] theorem setCluster_threads (x : Cluster) : (s.setCluster l x).threads = s.threads := rfl
@[simp] theorem setCluster_threadReuse (x : Cluster) : (s.setCluster l x).threadReuse = s.threadReuse := rfl
@[simp] theorem setCluster_scopes (x : Cluster) : (s.setCluster l x).scopes = s.scopes := rfl
@[simp] theorem setCluster_tasks (x : Cluster) : (s.setCluster l x).tasks = s.tasks := rfl
@[simp] theorem setCluster_tiles (x : Cluster) : (s.setCluster l x).tiles = s.tiles := rfl
@[simp] theorem setCluster_dies (x : Cluster) : (s.setCluster l x).dies = s.dies := rfl
@[simp] theorem setCluster_heaps (x : Cluster) : (s.setCluster l x).heaps = s.heaps := rfl
@[simp] theorem setCluster_streams (x : Cluster) : (s.setCluster l x).streams = s.streams := rfl
@[simp] theorem setCluster_pfx (x : Cluster) : (s.setCluster l x).pfx = s.pfx := rfl
@[simp] theorem setCluster_pfxUse (x : Cluster) : (s.setCluster l x).pfxUse = s.pfxUse := rfl
@[simp] theorem setCluster_aspaces (x : Cluster) : (s.setCluster l x).aspaces = s.aspaces := rfl
@[simp] theorem setCluster_returns (x : Cluster) : (s.setCluster l x).returns = s.returns := rfl
@[simp] theorem setCluster_remotes (x : Cluster) : (s.setCluster l x).remotes = s.remotes := rfl
@[simp] theorem setCluster_sent (x : Cluster) : (s.setCluster l x).sent = s.sent := rfl
@[simp] theorem setCluster_queues (x : Cluster) : (s.setCluster l x).queues = s.queues := rfl
@[simp] theorem setCluster_cmds (x : Cluster) : (s.setCluster l x).cmds = s.cmds := rfl
@[simp] theorem setCluster_donePosts (x : Cluster) : (s.setCluster l x).donePosts = s.donePosts := rfl
@[simp] theorem setCluster_nextCmd (x : Cluster) : (s.setCluster l x).nextCmd = s.nextCmd := rfl
@[simp] theorem setCluster_nextOp (x : Cluster) : (s.setCluster l x).nextOp = s.nextOp := rfl
@[simp] theorem setCluster_funcs (x : Cluster) : (s.setCluster l x).funcs = s.funcs := rfl
@[simp] theorem setCluster_thresholds (x : Cluster) : (s.setCluster l x).thresholds = s.thresholds := rfl
@[simp] theorem setCluster_groups (x : Cluster) : (s.setCluster l x).groups = s.groups := rfl
@[simp] theorem setCluster_groupsSent (x : Cluster) : (s.setCluster l x).groupsSent = s.groupsSent := rfl
@[simp] theorem setCluster_lastTaken (x : Cluster) : (s.setCluster l x).lastTaken = s.lastTaken := rfl
@[simp] theorem setCluster_devEvents (x : Cluster) : (s.setCluster l x).devEvents = s.devEvents := rfl
@[simp] theorem setCluster_devNum (x : Cluster) : (s.setCluster l x).devNum = s.devNum := rfl
@[simp] theorem setCluster_life (x : Cluster) : (s.setCluster l x).life = s.life := rfl
@[simp] theorem setCluster_booted (x : Cluster) : (s.setCluster l x).booted = s.booted := rfl
@[simp] theorem setCluster_lanes (x : Cluster) : (s.setCluster l x).lanes = s.lanes := rfl
@[simp] theorem setCluster_hbmch (x : Cluster) : (s.setCluster l x).hbmch = s.hbmch := rfl
@[simp] theorem setCluster_hbmbytes (x : Cluster) : (s.setCluster l x).hbmbytes = s.hbmbytes := rfl
@[simp] theorem setCluster_hbmLost (x : Cluster) : (s.setCluster l x).hbmLost = s.hbmLost := rfl
@[simp] theorem setCluster_measured (x : Cluster) : (s.setCluster l x).measured = s.measured := rfl
@[simp] theorem setCluster_takeovers (x : Cluster) : (s.setCluster l x).takeovers = s.takeovers := rfl
@[simp] theorem setCluster_kilnDie (x : Cluster) : (s.setCluster l x).kilnDie = s.kilnDie := rfl
@[simp] theorem setCluster_standby (x : Cluster) : (s.setCluster l x).standby = s.standby := rfl
@[simp] theorem setCluster_kilnFailed (x : Cluster) : (s.setCluster l x).kilnFailed = s.kilnFailed := rfl
@[simp] theorem setCluster_takeoverUntil (x : Cluster) : (s.setCluster l x).takeoverUntil = s.takeoverUntil := rfl
@[simp] theorem setCluster_lateNotify (x : Cluster) : (s.setCluster l x).lateNotify = s.lateNotify := rfl
@[simp] theorem setCluster_tripped (x : Cluster) : (s.setCluster l x).tripped = s.tripped := rfl
@[simp] theorem setCluster_journal (x : Cluster) : (s.setCluster l x).journal = s.journal := rfl
@[simp] theorem setCluster_replica (x : Cluster) : (s.setCluster l x).replica = s.replica := rfl
@[simp] theorem setCluster_shadow (x : Cluster) : (s.setCluster l x).shadow = s.shadow := rfl
@[simp] theorem setCluster_posts (x : Cluster) : (s.setCluster l x).posts = s.posts := rfl
@[simp] theorem setCluster_dbgScopes (x : Cluster) : (s.setCluster l x).dbgScopes = s.dbgScopes := rfl
@[simp] theorem setCluster_freeCount (x : Cluster) : (s.setCluster l x).freeCount = s.freeCount := rfl
@[simp] theorem setCluster_agenda (x : Cluster) : (s.setCluster l x).agenda = s.agenda := rfl
@[simp] theorem setCluster_cur (x : Cluster) : (s.setCluster l x).cur = s.cur := rfl
@[simp] theorem setCluster_input (x : Cluster) : (s.setCluster l x).input = s.input := rfl

@[simp] theorem setDie_time (x : Die) : (s.setDie l x).time = s.time := rfl
@[simp] theorem setDie_slew (x : Die) : (s.setDie l x).slew = s.slew := rfl
@[simp] theorem setDie_slewAt (x : Die) : (s.setDie l x).slewAt = s.slewAt := rfl
@[simp] theorem setDie_timeMaster (x : Die) : (s.setDie l x).timeMaster = s.timeMaster := rfl
@[simp] theorem setDie_mem (x : Die) : (s.setDie l x).mem = s.mem := rfl
@[simp] theorem setDie_poison (x : Die) : (s.setDie l x).poison = s.poison := rfl
@[simp] theorem setDie_threads (x : Die) : (s.setDie l x).threads = s.threads := rfl
@[simp] theorem setDie_threadReuse (x : Die) : (s.setDie l x).threadReuse = s.threadReuse := rfl
@[simp] theorem setDie_scopes (x : Die) : (s.setDie l x).scopes = s.scopes := rfl
@[simp] theorem setDie_tasks (x : Die) : (s.setDie l x).tasks = s.tasks := rfl
@[simp] theorem setDie_tiles (x : Die) : (s.setDie l x).tiles = s.tiles := rfl
@[simp] theorem setDie_clusters (x : Die) : (s.setDie l x).clusters = s.clusters := rfl
@[simp] theorem setDie_heaps (x : Die) : (s.setDie l x).heaps = s.heaps := rfl
@[simp] theorem setDie_streams (x : Die) : (s.setDie l x).streams = s.streams := rfl
@[simp] theorem setDie_pfx (x : Die) : (s.setDie l x).pfx = s.pfx := rfl
@[simp] theorem setDie_pfxUse (x : Die) : (s.setDie l x).pfxUse = s.pfxUse := rfl
@[simp] theorem setDie_aspaces (x : Die) : (s.setDie l x).aspaces = s.aspaces := rfl
@[simp] theorem setDie_returns (x : Die) : (s.setDie l x).returns = s.returns := rfl
@[simp] theorem setDie_remotes (x : Die) : (s.setDie l x).remotes = s.remotes := rfl
@[simp] theorem setDie_sent (x : Die) : (s.setDie l x).sent = s.sent := rfl
@[simp] theorem setDie_queues (x : Die) : (s.setDie l x).queues = s.queues := rfl
@[simp] theorem setDie_cmds (x : Die) : (s.setDie l x).cmds = s.cmds := rfl
@[simp] theorem setDie_donePosts (x : Die) : (s.setDie l x).donePosts = s.donePosts := rfl
@[simp] theorem setDie_nextCmd (x : Die) : (s.setDie l x).nextCmd = s.nextCmd := rfl
@[simp] theorem setDie_nextOp (x : Die) : (s.setDie l x).nextOp = s.nextOp := rfl
@[simp] theorem setDie_funcs (x : Die) : (s.setDie l x).funcs = s.funcs := rfl
@[simp] theorem setDie_thresholds (x : Die) : (s.setDie l x).thresholds = s.thresholds := rfl
@[simp] theorem setDie_groups (x : Die) : (s.setDie l x).groups = s.groups := rfl
@[simp] theorem setDie_groupsSent (x : Die) : (s.setDie l x).groupsSent = s.groupsSent := rfl
@[simp] theorem setDie_lastTaken (x : Die) : (s.setDie l x).lastTaken = s.lastTaken := rfl
@[simp] theorem setDie_devEvents (x : Die) : (s.setDie l x).devEvents = s.devEvents := rfl
@[simp] theorem setDie_devNum (x : Die) : (s.setDie l x).devNum = s.devNum := rfl
@[simp] theorem setDie_life (x : Die) : (s.setDie l x).life = s.life := rfl
@[simp] theorem setDie_booted (x : Die) : (s.setDie l x).booted = s.booted := rfl
@[simp] theorem setDie_lanes (x : Die) : (s.setDie l x).lanes = s.lanes := rfl
@[simp] theorem setDie_hbmch (x : Die) : (s.setDie l x).hbmch = s.hbmch := rfl
@[simp] theorem setDie_hbmbytes (x : Die) : (s.setDie l x).hbmbytes = s.hbmbytes := rfl
@[simp] theorem setDie_hbmLost (x : Die) : (s.setDie l x).hbmLost = s.hbmLost := rfl
@[simp] theorem setDie_measured (x : Die) : (s.setDie l x).measured = s.measured := rfl
@[simp] theorem setDie_takeovers (x : Die) : (s.setDie l x).takeovers = s.takeovers := rfl
@[simp] theorem setDie_kilnDie (x : Die) : (s.setDie l x).kilnDie = s.kilnDie := rfl
@[simp] theorem setDie_standby (x : Die) : (s.setDie l x).standby = s.standby := rfl
@[simp] theorem setDie_kilnFailed (x : Die) : (s.setDie l x).kilnFailed = s.kilnFailed := rfl
@[simp] theorem setDie_takeoverUntil (x : Die) : (s.setDie l x).takeoverUntil = s.takeoverUntil := rfl
@[simp] theorem setDie_lateNotify (x : Die) : (s.setDie l x).lateNotify = s.lateNotify := rfl
@[simp] theorem setDie_tripped (x : Die) : (s.setDie l x).tripped = s.tripped := rfl
@[simp] theorem setDie_journal (x : Die) : (s.setDie l x).journal = s.journal := rfl
@[simp] theorem setDie_replica (x : Die) : (s.setDie l x).replica = s.replica := rfl
@[simp] theorem setDie_shadow (x : Die) : (s.setDie l x).shadow = s.shadow := rfl
@[simp] theorem setDie_posts (x : Die) : (s.setDie l x).posts = s.posts := rfl
@[simp] theorem setDie_dbgScopes (x : Die) : (s.setDie l x).dbgScopes = s.dbgScopes := rfl
@[simp] theorem setDie_freeCount (x : Die) : (s.setDie l x).freeCount = s.freeCount := rfl
@[simp] theorem setDie_agenda (x : Die) : (s.setDie l x).agenda = s.agenda := rfl
@[simp] theorem setDie_cur (x : Die) : (s.setDie l x).cur = s.cur := rfl
@[simp] theorem setDie_input (x : Die) : (s.setDie l x).input = s.input := rfl

@[simp] theorem setFunc_time (x : Func) : (s.setFunc l x).time = s.time := rfl
@[simp] theorem setFunc_slew (x : Func) : (s.setFunc l x).slew = s.slew := rfl
@[simp] theorem setFunc_slewAt (x : Func) : (s.setFunc l x).slewAt = s.slewAt := rfl
@[simp] theorem setFunc_timeMaster (x : Func) : (s.setFunc l x).timeMaster = s.timeMaster := rfl
@[simp] theorem setFunc_mem (x : Func) : (s.setFunc l x).mem = s.mem := rfl
@[simp] theorem setFunc_poison (x : Func) : (s.setFunc l x).poison = s.poison := rfl
@[simp] theorem setFunc_threads (x : Func) : (s.setFunc l x).threads = s.threads := rfl
@[simp] theorem setFunc_threadReuse (x : Func) : (s.setFunc l x).threadReuse = s.threadReuse := rfl
@[simp] theorem setFunc_scopes (x : Func) : (s.setFunc l x).scopes = s.scopes := rfl
@[simp] theorem setFunc_tasks (x : Func) : (s.setFunc l x).tasks = s.tasks := rfl
@[simp] theorem setFunc_tiles (x : Func) : (s.setFunc l x).tiles = s.tiles := rfl
@[simp] theorem setFunc_clusters (x : Func) : (s.setFunc l x).clusters = s.clusters := rfl
@[simp] theorem setFunc_dies (x : Func) : (s.setFunc l x).dies = s.dies := rfl
@[simp] theorem setFunc_heaps (x : Func) : (s.setFunc l x).heaps = s.heaps := rfl
@[simp] theorem setFunc_streams (x : Func) : (s.setFunc l x).streams = s.streams := rfl
@[simp] theorem setFunc_pfx (x : Func) : (s.setFunc l x).pfx = s.pfx := rfl
@[simp] theorem setFunc_pfxUse (x : Func) : (s.setFunc l x).pfxUse = s.pfxUse := rfl
@[simp] theorem setFunc_aspaces (x : Func) : (s.setFunc l x).aspaces = s.aspaces := rfl
@[simp] theorem setFunc_returns (x : Func) : (s.setFunc l x).returns = s.returns := rfl
@[simp] theorem setFunc_remotes (x : Func) : (s.setFunc l x).remotes = s.remotes := rfl
@[simp] theorem setFunc_sent (x : Func) : (s.setFunc l x).sent = s.sent := rfl
@[simp] theorem setFunc_queues (x : Func) : (s.setFunc l x).queues = s.queues := rfl
@[simp] theorem setFunc_cmds (x : Func) : (s.setFunc l x).cmds = s.cmds := rfl
@[simp] theorem setFunc_donePosts (x : Func) : (s.setFunc l x).donePosts = s.donePosts := rfl
@[simp] theorem setFunc_nextCmd (x : Func) : (s.setFunc l x).nextCmd = s.nextCmd := rfl
@[simp] theorem setFunc_nextOp (x : Func) : (s.setFunc l x).nextOp = s.nextOp := rfl
@[simp] theorem setFunc_thresholds (x : Func) : (s.setFunc l x).thresholds = s.thresholds := rfl
@[simp] theorem setFunc_groups (x : Func) : (s.setFunc l x).groups = s.groups := rfl
@[simp] theorem setFunc_groupsSent (x : Func) : (s.setFunc l x).groupsSent = s.groupsSent := rfl
@[simp] theorem setFunc_lastTaken (x : Func) : (s.setFunc l x).lastTaken = s.lastTaken := rfl
@[simp] theorem setFunc_devEvents (x : Func) : (s.setFunc l x).devEvents = s.devEvents := rfl
@[simp] theorem setFunc_devNum (x : Func) : (s.setFunc l x).devNum = s.devNum := rfl
@[simp] theorem setFunc_life (x : Func) : (s.setFunc l x).life = s.life := rfl
@[simp] theorem setFunc_booted (x : Func) : (s.setFunc l x).booted = s.booted := rfl
@[simp] theorem setFunc_lanes (x : Func) : (s.setFunc l x).lanes = s.lanes := rfl
@[simp] theorem setFunc_hbmch (x : Func) : (s.setFunc l x).hbmch = s.hbmch := rfl
@[simp] theorem setFunc_hbmbytes (x : Func) : (s.setFunc l x).hbmbytes = s.hbmbytes := rfl
@[simp] theorem setFunc_hbmLost (x : Func) : (s.setFunc l x).hbmLost = s.hbmLost := rfl
@[simp] theorem setFunc_measured (x : Func) : (s.setFunc l x).measured = s.measured := rfl
@[simp] theorem setFunc_takeovers (x : Func) : (s.setFunc l x).takeovers = s.takeovers := rfl
@[simp] theorem setFunc_kilnDie (x : Func) : (s.setFunc l x).kilnDie = s.kilnDie := rfl
@[simp] theorem setFunc_standby (x : Func) : (s.setFunc l x).standby = s.standby := rfl
@[simp] theorem setFunc_kilnFailed (x : Func) : (s.setFunc l x).kilnFailed = s.kilnFailed := rfl
@[simp] theorem setFunc_takeoverUntil (x : Func) : (s.setFunc l x).takeoverUntil = s.takeoverUntil := rfl
@[simp] theorem setFunc_lateNotify (x : Func) : (s.setFunc l x).lateNotify = s.lateNotify := rfl
@[simp] theorem setFunc_tripped (x : Func) : (s.setFunc l x).tripped = s.tripped := rfl
@[simp] theorem setFunc_journal (x : Func) : (s.setFunc l x).journal = s.journal := rfl
@[simp] theorem setFunc_replica (x : Func) : (s.setFunc l x).replica = s.replica := rfl
@[simp] theorem setFunc_shadow (x : Func) : (s.setFunc l x).shadow = s.shadow := rfl
@[simp] theorem setFunc_posts (x : Func) : (s.setFunc l x).posts = s.posts := rfl
@[simp] theorem setFunc_dbgScopes (x : Func) : (s.setFunc l x).dbgScopes = s.dbgScopes := rfl
@[simp] theorem setFunc_freeCount (x : Func) : (s.setFunc l x).freeCount = s.freeCount := rfl
@[simp] theorem setFunc_agenda (x : Func) : (s.setFunc l x).agenda = s.agenda := rfl
@[simp] theorem setFunc_cur (x : Func) : (s.setFunc l x).cur = s.cur := rfl
@[simp] theorem setFunc_input (x : Func) : (s.setFunc l x).input = s.input := rfl

@[simp] theorem setQueue_time (x : Queue) : (s.setQueue l x).time = s.time := rfl
@[simp] theorem setQueue_slew (x : Queue) : (s.setQueue l x).slew = s.slew := rfl
@[simp] theorem setQueue_slewAt (x : Queue) : (s.setQueue l x).slewAt = s.slewAt := rfl
@[simp] theorem setQueue_timeMaster (x : Queue) : (s.setQueue l x).timeMaster = s.timeMaster := rfl
@[simp] theorem setQueue_mem (x : Queue) : (s.setQueue l x).mem = s.mem := rfl
@[simp] theorem setQueue_poison (x : Queue) : (s.setQueue l x).poison = s.poison := rfl
@[simp] theorem setQueue_threads (x : Queue) : (s.setQueue l x).threads = s.threads := rfl
@[simp] theorem setQueue_threadReuse (x : Queue) : (s.setQueue l x).threadReuse = s.threadReuse := rfl
@[simp] theorem setQueue_scopes (x : Queue) : (s.setQueue l x).scopes = s.scopes := rfl
@[simp] theorem setQueue_tasks (x : Queue) : (s.setQueue l x).tasks = s.tasks := rfl
@[simp] theorem setQueue_tiles (x : Queue) : (s.setQueue l x).tiles = s.tiles := rfl
@[simp] theorem setQueue_clusters (x : Queue) : (s.setQueue l x).clusters = s.clusters := rfl
@[simp] theorem setQueue_dies (x : Queue) : (s.setQueue l x).dies = s.dies := rfl
@[simp] theorem setQueue_heaps (x : Queue) : (s.setQueue l x).heaps = s.heaps := rfl
@[simp] theorem setQueue_streams (x : Queue) : (s.setQueue l x).streams = s.streams := rfl
@[simp] theorem setQueue_pfx (x : Queue) : (s.setQueue l x).pfx = s.pfx := rfl
@[simp] theorem setQueue_pfxUse (x : Queue) : (s.setQueue l x).pfxUse = s.pfxUse := rfl
@[simp] theorem setQueue_aspaces (x : Queue) : (s.setQueue l x).aspaces = s.aspaces := rfl
@[simp] theorem setQueue_returns (x : Queue) : (s.setQueue l x).returns = s.returns := rfl
@[simp] theorem setQueue_remotes (x : Queue) : (s.setQueue l x).remotes = s.remotes := rfl
@[simp] theorem setQueue_sent (x : Queue) : (s.setQueue l x).sent = s.sent := rfl
@[simp] theorem setQueue_cmds (x : Queue) : (s.setQueue l x).cmds = s.cmds := rfl
@[simp] theorem setQueue_donePosts (x : Queue) : (s.setQueue l x).donePosts = s.donePosts := rfl
@[simp] theorem setQueue_nextCmd (x : Queue) : (s.setQueue l x).nextCmd = s.nextCmd := rfl
@[simp] theorem setQueue_nextOp (x : Queue) : (s.setQueue l x).nextOp = s.nextOp := rfl
@[simp] theorem setQueue_funcs (x : Queue) : (s.setQueue l x).funcs = s.funcs := rfl
@[simp] theorem setQueue_thresholds (x : Queue) : (s.setQueue l x).thresholds = s.thresholds := rfl
@[simp] theorem setQueue_groups (x : Queue) : (s.setQueue l x).groups = s.groups := rfl
@[simp] theorem setQueue_groupsSent (x : Queue) : (s.setQueue l x).groupsSent = s.groupsSent := rfl
@[simp] theorem setQueue_lastTaken (x : Queue) : (s.setQueue l x).lastTaken = s.lastTaken := rfl
@[simp] theorem setQueue_devEvents (x : Queue) : (s.setQueue l x).devEvents = s.devEvents := rfl
@[simp] theorem setQueue_devNum (x : Queue) : (s.setQueue l x).devNum = s.devNum := rfl
@[simp] theorem setQueue_life (x : Queue) : (s.setQueue l x).life = s.life := rfl
@[simp] theorem setQueue_booted (x : Queue) : (s.setQueue l x).booted = s.booted := rfl
@[simp] theorem setQueue_lanes (x : Queue) : (s.setQueue l x).lanes = s.lanes := rfl
@[simp] theorem setQueue_hbmch (x : Queue) : (s.setQueue l x).hbmch = s.hbmch := rfl
@[simp] theorem setQueue_hbmbytes (x : Queue) : (s.setQueue l x).hbmbytes = s.hbmbytes := rfl
@[simp] theorem setQueue_hbmLost (x : Queue) : (s.setQueue l x).hbmLost = s.hbmLost := rfl
@[simp] theorem setQueue_measured (x : Queue) : (s.setQueue l x).measured = s.measured := rfl
@[simp] theorem setQueue_takeovers (x : Queue) : (s.setQueue l x).takeovers = s.takeovers := rfl
@[simp] theorem setQueue_kilnDie (x : Queue) : (s.setQueue l x).kilnDie = s.kilnDie := rfl
@[simp] theorem setQueue_standby (x : Queue) : (s.setQueue l x).standby = s.standby := rfl
@[simp] theorem setQueue_kilnFailed (x : Queue) : (s.setQueue l x).kilnFailed = s.kilnFailed := rfl
@[simp] theorem setQueue_takeoverUntil (x : Queue) : (s.setQueue l x).takeoverUntil = s.takeoverUntil := rfl
@[simp] theorem setQueue_lateNotify (x : Queue) : (s.setQueue l x).lateNotify = s.lateNotify := rfl
@[simp] theorem setQueue_tripped (x : Queue) : (s.setQueue l x).tripped = s.tripped := rfl
@[simp] theorem setQueue_journal (x : Queue) : (s.setQueue l x).journal = s.journal := rfl
@[simp] theorem setQueue_replica (x : Queue) : (s.setQueue l x).replica = s.replica := rfl
@[simp] theorem setQueue_shadow (x : Queue) : (s.setQueue l x).shadow = s.shadow := rfl
@[simp] theorem setQueue_posts (x : Queue) : (s.setQueue l x).posts = s.posts := rfl
@[simp] theorem setQueue_dbgScopes (x : Queue) : (s.setQueue l x).dbgScopes = s.dbgScopes := rfl
@[simp] theorem setQueue_freeCount (x : Queue) : (s.setQueue l x).freeCount = s.freeCount := rfl
@[simp] theorem setQueue_agenda (x : Queue) : (s.setQueue l x).agenda = s.agenda := rfl
@[simp] theorem setQueue_cur (x : Queue) : (s.setQueue l x).cur = s.cur := rfl
@[simp] theorem setQueue_input (x : Queue) : (s.setQueue l x).input = s.input := rfl

@[simp] theorem setScope_time (x : Scope) : (s.setScope l x).time = s.time := rfl
@[simp] theorem setScope_slew (x : Scope) : (s.setScope l x).slew = s.slew := rfl
@[simp] theorem setScope_slewAt (x : Scope) : (s.setScope l x).slewAt = s.slewAt := rfl
@[simp] theorem setScope_timeMaster (x : Scope) : (s.setScope l x).timeMaster = s.timeMaster := rfl
@[simp] theorem setScope_mem (x : Scope) : (s.setScope l x).mem = s.mem := rfl
@[simp] theorem setScope_poison (x : Scope) : (s.setScope l x).poison = s.poison := rfl
@[simp] theorem setScope_threads (x : Scope) : (s.setScope l x).threads = s.threads := rfl
@[simp] theorem setScope_threadReuse (x : Scope) : (s.setScope l x).threadReuse = s.threadReuse := rfl
@[simp] theorem setScope_tasks (x : Scope) : (s.setScope l x).tasks = s.tasks := rfl
@[simp] theorem setScope_tiles (x : Scope) : (s.setScope l x).tiles = s.tiles := rfl
@[simp] theorem setScope_clusters (x : Scope) : (s.setScope l x).clusters = s.clusters := rfl
@[simp] theorem setScope_dies (x : Scope) : (s.setScope l x).dies = s.dies := rfl
@[simp] theorem setScope_heaps (x : Scope) : (s.setScope l x).heaps = s.heaps := rfl
@[simp] theorem setScope_streams (x : Scope) : (s.setScope l x).streams = s.streams := rfl
@[simp] theorem setScope_pfx (x : Scope) : (s.setScope l x).pfx = s.pfx := rfl
@[simp] theorem setScope_pfxUse (x : Scope) : (s.setScope l x).pfxUse = s.pfxUse := rfl
@[simp] theorem setScope_aspaces (x : Scope) : (s.setScope l x).aspaces = s.aspaces := rfl
@[simp] theorem setScope_returns (x : Scope) : (s.setScope l x).returns = s.returns := rfl
@[simp] theorem setScope_remotes (x : Scope) : (s.setScope l x).remotes = s.remotes := rfl
@[simp] theorem setScope_sent (x : Scope) : (s.setScope l x).sent = s.sent := rfl
@[simp] theorem setScope_queues (x : Scope) : (s.setScope l x).queues = s.queues := rfl
@[simp] theorem setScope_cmds (x : Scope) : (s.setScope l x).cmds = s.cmds := rfl
@[simp] theorem setScope_donePosts (x : Scope) : (s.setScope l x).donePosts = s.donePosts := rfl
@[simp] theorem setScope_nextCmd (x : Scope) : (s.setScope l x).nextCmd = s.nextCmd := rfl
@[simp] theorem setScope_nextOp (x : Scope) : (s.setScope l x).nextOp = s.nextOp := rfl
@[simp] theorem setScope_funcs (x : Scope) : (s.setScope l x).funcs = s.funcs := rfl
@[simp] theorem setScope_thresholds (x : Scope) : (s.setScope l x).thresholds = s.thresholds := rfl
@[simp] theorem setScope_groups (x : Scope) : (s.setScope l x).groups = s.groups := rfl
@[simp] theorem setScope_groupsSent (x : Scope) : (s.setScope l x).groupsSent = s.groupsSent := rfl
@[simp] theorem setScope_lastTaken (x : Scope) : (s.setScope l x).lastTaken = s.lastTaken := rfl
@[simp] theorem setScope_devEvents (x : Scope) : (s.setScope l x).devEvents = s.devEvents := rfl
@[simp] theorem setScope_devNum (x : Scope) : (s.setScope l x).devNum = s.devNum := rfl
@[simp] theorem setScope_life (x : Scope) : (s.setScope l x).life = s.life := rfl
@[simp] theorem setScope_booted (x : Scope) : (s.setScope l x).booted = s.booted := rfl
@[simp] theorem setScope_lanes (x : Scope) : (s.setScope l x).lanes = s.lanes := rfl
@[simp] theorem setScope_hbmch (x : Scope) : (s.setScope l x).hbmch = s.hbmch := rfl
@[simp] theorem setScope_hbmbytes (x : Scope) : (s.setScope l x).hbmbytes = s.hbmbytes := rfl
@[simp] theorem setScope_hbmLost (x : Scope) : (s.setScope l x).hbmLost = s.hbmLost := rfl
@[simp] theorem setScope_measured (x : Scope) : (s.setScope l x).measured = s.measured := rfl
@[simp] theorem setScope_takeovers (x : Scope) : (s.setScope l x).takeovers = s.takeovers := rfl
@[simp] theorem setScope_kilnDie (x : Scope) : (s.setScope l x).kilnDie = s.kilnDie := rfl
@[simp] theorem setScope_standby (x : Scope) : (s.setScope l x).standby = s.standby := rfl
@[simp] theorem setScope_kilnFailed (x : Scope) : (s.setScope l x).kilnFailed = s.kilnFailed := rfl
@[simp] theorem setScope_takeoverUntil (x : Scope) : (s.setScope l x).takeoverUntil = s.takeoverUntil := rfl
@[simp] theorem setScope_lateNotify (x : Scope) : (s.setScope l x).lateNotify = s.lateNotify := rfl
@[simp] theorem setScope_tripped (x : Scope) : (s.setScope l x).tripped = s.tripped := rfl
@[simp] theorem setScope_journal (x : Scope) : (s.setScope l x).journal = s.journal := rfl
@[simp] theorem setScope_replica (x : Scope) : (s.setScope l x).replica = s.replica := rfl
@[simp] theorem setScope_shadow (x : Scope) : (s.setScope l x).shadow = s.shadow := rfl
@[simp] theorem setScope_posts (x : Scope) : (s.setScope l x).posts = s.posts := rfl
@[simp] theorem setScope_dbgScopes (x : Scope) : (s.setScope l x).dbgScopes = s.dbgScopes := rfl
@[simp] theorem setScope_freeCount (x : Scope) : (s.setScope l x).freeCount = s.freeCount := rfl
@[simp] theorem setScope_agenda (x : Scope) : (s.setScope l x).agenda = s.agenda := rfl
@[simp] theorem setScope_cur (x : Scope) : (s.setScope l x).cur = s.cur := rfl
@[simp] theorem setScope_input (x : Scope) : (s.setScope l x).input = s.input := rfl

@[simp] theorem setTask_time (x : Task) : (s.setTask l x).time = s.time := rfl
@[simp] theorem setTask_slew (x : Task) : (s.setTask l x).slew = s.slew := rfl
@[simp] theorem setTask_slewAt (x : Task) : (s.setTask l x).slewAt = s.slewAt := rfl
@[simp] theorem setTask_timeMaster (x : Task) : (s.setTask l x).timeMaster = s.timeMaster := rfl
@[simp] theorem setTask_mem (x : Task) : (s.setTask l x).mem = s.mem := rfl
@[simp] theorem setTask_poison (x : Task) : (s.setTask l x).poison = s.poison := rfl
@[simp] theorem setTask_threads (x : Task) : (s.setTask l x).threads = s.threads := rfl
@[simp] theorem setTask_threadReuse (x : Task) : (s.setTask l x).threadReuse = s.threadReuse := rfl
@[simp] theorem setTask_scopes (x : Task) : (s.setTask l x).scopes = s.scopes := rfl
@[simp] theorem setTask_tiles (x : Task) : (s.setTask l x).tiles = s.tiles := rfl
@[simp] theorem setTask_clusters (x : Task) : (s.setTask l x).clusters = s.clusters := rfl
@[simp] theorem setTask_dies (x : Task) : (s.setTask l x).dies = s.dies := rfl
@[simp] theorem setTask_heaps (x : Task) : (s.setTask l x).heaps = s.heaps := rfl
@[simp] theorem setTask_streams (x : Task) : (s.setTask l x).streams = s.streams := rfl
@[simp] theorem setTask_pfx (x : Task) : (s.setTask l x).pfx = s.pfx := rfl
@[simp] theorem setTask_pfxUse (x : Task) : (s.setTask l x).pfxUse = s.pfxUse := rfl
@[simp] theorem setTask_aspaces (x : Task) : (s.setTask l x).aspaces = s.aspaces := rfl
@[simp] theorem setTask_returns (x : Task) : (s.setTask l x).returns = s.returns := rfl
@[simp] theorem setTask_remotes (x : Task) : (s.setTask l x).remotes = s.remotes := rfl
@[simp] theorem setTask_sent (x : Task) : (s.setTask l x).sent = s.sent := rfl
@[simp] theorem setTask_queues (x : Task) : (s.setTask l x).queues = s.queues := rfl
@[simp] theorem setTask_cmds (x : Task) : (s.setTask l x).cmds = s.cmds := rfl
@[simp] theorem setTask_donePosts (x : Task) : (s.setTask l x).donePosts = s.donePosts := rfl
@[simp] theorem setTask_nextCmd (x : Task) : (s.setTask l x).nextCmd = s.nextCmd := rfl
@[simp] theorem setTask_nextOp (x : Task) : (s.setTask l x).nextOp = s.nextOp := rfl
@[simp] theorem setTask_funcs (x : Task) : (s.setTask l x).funcs = s.funcs := rfl
@[simp] theorem setTask_thresholds (x : Task) : (s.setTask l x).thresholds = s.thresholds := rfl
@[simp] theorem setTask_groups (x : Task) : (s.setTask l x).groups = s.groups := rfl
@[simp] theorem setTask_groupsSent (x : Task) : (s.setTask l x).groupsSent = s.groupsSent := rfl
@[simp] theorem setTask_lastTaken (x : Task) : (s.setTask l x).lastTaken = s.lastTaken := rfl
@[simp] theorem setTask_devEvents (x : Task) : (s.setTask l x).devEvents = s.devEvents := rfl
@[simp] theorem setTask_devNum (x : Task) : (s.setTask l x).devNum = s.devNum := rfl
@[simp] theorem setTask_life (x : Task) : (s.setTask l x).life = s.life := rfl
@[simp] theorem setTask_booted (x : Task) : (s.setTask l x).booted = s.booted := rfl
@[simp] theorem setTask_lanes (x : Task) : (s.setTask l x).lanes = s.lanes := rfl
@[simp] theorem setTask_hbmch (x : Task) : (s.setTask l x).hbmch = s.hbmch := rfl
@[simp] theorem setTask_hbmbytes (x : Task) : (s.setTask l x).hbmbytes = s.hbmbytes := rfl
@[simp] theorem setTask_hbmLost (x : Task) : (s.setTask l x).hbmLost = s.hbmLost := rfl
@[simp] theorem setTask_measured (x : Task) : (s.setTask l x).measured = s.measured := rfl
@[simp] theorem setTask_takeovers (x : Task) : (s.setTask l x).takeovers = s.takeovers := rfl
@[simp] theorem setTask_kilnDie (x : Task) : (s.setTask l x).kilnDie = s.kilnDie := rfl
@[simp] theorem setTask_standby (x : Task) : (s.setTask l x).standby = s.standby := rfl
@[simp] theorem setTask_kilnFailed (x : Task) : (s.setTask l x).kilnFailed = s.kilnFailed := rfl
@[simp] theorem setTask_takeoverUntil (x : Task) : (s.setTask l x).takeoverUntil = s.takeoverUntil := rfl
@[simp] theorem setTask_lateNotify (x : Task) : (s.setTask l x).lateNotify = s.lateNotify := rfl
@[simp] theorem setTask_tripped (x : Task) : (s.setTask l x).tripped = s.tripped := rfl
@[simp] theorem setTask_journal (x : Task) : (s.setTask l x).journal = s.journal := rfl
@[simp] theorem setTask_replica (x : Task) : (s.setTask l x).replica = s.replica := rfl
@[simp] theorem setTask_shadow (x : Task) : (s.setTask l x).shadow = s.shadow := rfl
@[simp] theorem setTask_posts (x : Task) : (s.setTask l x).posts = s.posts := rfl
@[simp] theorem setTask_dbgScopes (x : Task) : (s.setTask l x).dbgScopes = s.dbgScopes := rfl
@[simp] theorem setTask_freeCount (x : Task) : (s.setTask l x).freeCount = s.freeCount := rfl
@[simp] theorem setTask_agenda (x : Task) : (s.setTask l x).agenda = s.agenda := rfl
@[simp] theorem setTask_cur (x : Task) : (s.setTask l x).cur = s.cur := rfl
@[simp] theorem setTask_input (x : Task) : (s.setTask l x).input = s.input := rfl

@[simp] theorem putBytes_time (bs : List Byte) : (s.putBytes l bs).time = s.time := rfl
@[simp] theorem putBytes_slew (bs : List Byte) : (s.putBytes l bs).slew = s.slew := rfl
@[simp] theorem putBytes_slewAt (bs : List Byte) : (s.putBytes l bs).slewAt = s.slewAt := rfl
@[simp] theorem putBytes_timeMaster (bs : List Byte) : (s.putBytes l bs).timeMaster = s.timeMaster := rfl
@[simp] theorem putBytes_poison (bs : List Byte) : (s.putBytes l bs).poison = s.poison := rfl
@[simp] theorem putBytes_threads (bs : List Byte) : (s.putBytes l bs).threads = s.threads := rfl
@[simp] theorem putBytes_threadReuse (bs : List Byte) : (s.putBytes l bs).threadReuse = s.threadReuse := rfl
@[simp] theorem putBytes_scopes (bs : List Byte) : (s.putBytes l bs).scopes = s.scopes := rfl
@[simp] theorem putBytes_tasks (bs : List Byte) : (s.putBytes l bs).tasks = s.tasks := rfl
@[simp] theorem putBytes_tiles (bs : List Byte) : (s.putBytes l bs).tiles = s.tiles := rfl
@[simp] theorem putBytes_clusters (bs : List Byte) : (s.putBytes l bs).clusters = s.clusters := rfl
@[simp] theorem putBytes_dies (bs : List Byte) : (s.putBytes l bs).dies = s.dies := rfl
@[simp] theorem putBytes_heaps (bs : List Byte) : (s.putBytes l bs).heaps = s.heaps := rfl
@[simp] theorem putBytes_streams (bs : List Byte) : (s.putBytes l bs).streams = s.streams := rfl
@[simp] theorem putBytes_pfx (bs : List Byte) : (s.putBytes l bs).pfx = s.pfx := rfl
@[simp] theorem putBytes_pfxUse (bs : List Byte) : (s.putBytes l bs).pfxUse = s.pfxUse := rfl
@[simp] theorem putBytes_aspaces (bs : List Byte) : (s.putBytes l bs).aspaces = s.aspaces := rfl
@[simp] theorem putBytes_returns (bs : List Byte) : (s.putBytes l bs).returns = s.returns := rfl
@[simp] theorem putBytes_remotes (bs : List Byte) : (s.putBytes l bs).remotes = s.remotes := rfl
@[simp] theorem putBytes_sent (bs : List Byte) : (s.putBytes l bs).sent = s.sent := rfl
@[simp] theorem putBytes_queues (bs : List Byte) : (s.putBytes l bs).queues = s.queues := rfl
@[simp] theorem putBytes_cmds (bs : List Byte) : (s.putBytes l bs).cmds = s.cmds := rfl
@[simp] theorem putBytes_donePosts (bs : List Byte) : (s.putBytes l bs).donePosts = s.donePosts := rfl
@[simp] theorem putBytes_nextCmd (bs : List Byte) : (s.putBytes l bs).nextCmd = s.nextCmd := rfl
@[simp] theorem putBytes_nextOp (bs : List Byte) : (s.putBytes l bs).nextOp = s.nextOp := rfl
@[simp] theorem putBytes_funcs (bs : List Byte) : (s.putBytes l bs).funcs = s.funcs := rfl
@[simp] theorem putBytes_thresholds (bs : List Byte) : (s.putBytes l bs).thresholds = s.thresholds := rfl
@[simp] theorem putBytes_groups (bs : List Byte) : (s.putBytes l bs).groups = s.groups := rfl
@[simp] theorem putBytes_groupsSent (bs : List Byte) : (s.putBytes l bs).groupsSent = s.groupsSent := rfl
@[simp] theorem putBytes_lastTaken (bs : List Byte) : (s.putBytes l bs).lastTaken = s.lastTaken := rfl
@[simp] theorem putBytes_devEvents (bs : List Byte) : (s.putBytes l bs).devEvents = s.devEvents := rfl
@[simp] theorem putBytes_devNum (bs : List Byte) : (s.putBytes l bs).devNum = s.devNum := rfl
@[simp] theorem putBytes_life (bs : List Byte) : (s.putBytes l bs).life = s.life := rfl
@[simp] theorem putBytes_booted (bs : List Byte) : (s.putBytes l bs).booted = s.booted := rfl
@[simp] theorem putBytes_lanes (bs : List Byte) : (s.putBytes l bs).lanes = s.lanes := rfl
@[simp] theorem putBytes_hbmch (bs : List Byte) : (s.putBytes l bs).hbmch = s.hbmch := rfl
@[simp] theorem putBytes_hbmbytes (bs : List Byte) : (s.putBytes l bs).hbmbytes = s.hbmbytes := rfl
@[simp] theorem putBytes_hbmLost (bs : List Byte) : (s.putBytes l bs).hbmLost = s.hbmLost := rfl
@[simp] theorem putBytes_measured (bs : List Byte) : (s.putBytes l bs).measured = s.measured := rfl
@[simp] theorem putBytes_takeovers (bs : List Byte) : (s.putBytes l bs).takeovers = s.takeovers := rfl
@[simp] theorem putBytes_kilnDie (bs : List Byte) : (s.putBytes l bs).kilnDie = s.kilnDie := rfl
@[simp] theorem putBytes_standby (bs : List Byte) : (s.putBytes l bs).standby = s.standby := rfl
@[simp] theorem putBytes_kilnFailed (bs : List Byte) : (s.putBytes l bs).kilnFailed = s.kilnFailed := rfl
@[simp] theorem putBytes_takeoverUntil (bs : List Byte) : (s.putBytes l bs).takeoverUntil = s.takeoverUntil := rfl
@[simp] theorem putBytes_lateNotify (bs : List Byte) : (s.putBytes l bs).lateNotify = s.lateNotify := rfl
@[simp] theorem putBytes_tripped (bs : List Byte) : (s.putBytes l bs).tripped = s.tripped := rfl
@[simp] theorem putBytes_journal (bs : List Byte) : (s.putBytes l bs).journal = s.journal := rfl
@[simp] theorem putBytes_replica (bs : List Byte) : (s.putBytes l bs).replica = s.replica := rfl
@[simp] theorem putBytes_shadow (bs : List Byte) : (s.putBytes l bs).shadow = s.shadow := rfl
@[simp] theorem putBytes_posts (bs : List Byte) : (s.putBytes l bs).posts = s.posts := rfl
@[simp] theorem putBytes_dbgScopes (bs : List Byte) : (s.putBytes l bs).dbgScopes = s.dbgScopes := rfl
@[simp] theorem putBytes_freeCount (bs : List Byte) : (s.putBytes l bs).freeCount = s.freeCount := rfl
@[simp] theorem putBytes_agenda (bs : List Byte) : (s.putBytes l bs).agenda = s.agenda := rfl
@[simp] theorem putBytes_cur (bs : List Byte) : (s.putBytes l bs).cur = s.cur := rfl
@[simp] theorem putBytes_input (bs : List Byte) : (s.putBytes l bs).input = s.input := rfl

@[simp] theorem send_time (m : Sent) : (s.send m).time = s.time := rfl
@[simp] theorem send_slew (m : Sent) : (s.send m).slew = s.slew := rfl
@[simp] theorem send_slewAt (m : Sent) : (s.send m).slewAt = s.slewAt := rfl
@[simp] theorem send_timeMaster (m : Sent) : (s.send m).timeMaster = s.timeMaster := rfl
@[simp] theorem send_mem (m : Sent) : (s.send m).mem = s.mem := rfl
@[simp] theorem send_poison (m : Sent) : (s.send m).poison = s.poison := rfl
@[simp] theorem send_threads (m : Sent) : (s.send m).threads = s.threads := rfl
@[simp] theorem send_threadReuse (m : Sent) : (s.send m).threadReuse = s.threadReuse := rfl
@[simp] theorem send_scopes (m : Sent) : (s.send m).scopes = s.scopes := rfl
@[simp] theorem send_tasks (m : Sent) : (s.send m).tasks = s.tasks := rfl
@[simp] theorem send_tiles (m : Sent) : (s.send m).tiles = s.tiles := rfl
@[simp] theorem send_clusters (m : Sent) : (s.send m).clusters = s.clusters := rfl
@[simp] theorem send_dies (m : Sent) : (s.send m).dies = s.dies := rfl
@[simp] theorem send_heaps (m : Sent) : (s.send m).heaps = s.heaps := rfl
@[simp] theorem send_streams (m : Sent) : (s.send m).streams = s.streams := rfl
@[simp] theorem send_pfx (m : Sent) : (s.send m).pfx = s.pfx := rfl
@[simp] theorem send_pfxUse (m : Sent) : (s.send m).pfxUse = s.pfxUse := rfl
@[simp] theorem send_aspaces (m : Sent) : (s.send m).aspaces = s.aspaces := rfl
@[simp] theorem send_returns (m : Sent) : (s.send m).returns = s.returns := rfl
@[simp] theorem send_remotes (m : Sent) : (s.send m).remotes = s.remotes := rfl
@[simp] theorem send_queues (m : Sent) : (s.send m).queues = s.queues := rfl
@[simp] theorem send_cmds (m : Sent) : (s.send m).cmds = s.cmds := rfl
@[simp] theorem send_donePosts (m : Sent) : (s.send m).donePosts = s.donePosts := rfl
@[simp] theorem send_nextCmd (m : Sent) : (s.send m).nextCmd = s.nextCmd := rfl
@[simp] theorem send_nextOp (m : Sent) : (s.send m).nextOp = s.nextOp := rfl
@[simp] theorem send_funcs (m : Sent) : (s.send m).funcs = s.funcs := rfl
@[simp] theorem send_thresholds (m : Sent) : (s.send m).thresholds = s.thresholds := rfl
@[simp] theorem send_groups (m : Sent) : (s.send m).groups = s.groups := rfl
@[simp] theorem send_groupsSent (m : Sent) : (s.send m).groupsSent = s.groupsSent := rfl
@[simp] theorem send_lastTaken (m : Sent) : (s.send m).lastTaken = s.lastTaken := rfl
@[simp] theorem send_devEvents (m : Sent) : (s.send m).devEvents = s.devEvents := rfl
@[simp] theorem send_devNum (m : Sent) : (s.send m).devNum = s.devNum := rfl
@[simp] theorem send_life (m : Sent) : (s.send m).life = s.life := rfl
@[simp] theorem send_booted (m : Sent) : (s.send m).booted = s.booted := rfl
@[simp] theorem send_lanes (m : Sent) : (s.send m).lanes = s.lanes := rfl
@[simp] theorem send_hbmch (m : Sent) : (s.send m).hbmch = s.hbmch := rfl
@[simp] theorem send_hbmbytes (m : Sent) : (s.send m).hbmbytes = s.hbmbytes := rfl
@[simp] theorem send_hbmLost (m : Sent) : (s.send m).hbmLost = s.hbmLost := rfl
@[simp] theorem send_measured (m : Sent) : (s.send m).measured = s.measured := rfl
@[simp] theorem send_takeovers (m : Sent) : (s.send m).takeovers = s.takeovers := rfl
@[simp] theorem send_kilnDie (m : Sent) : (s.send m).kilnDie = s.kilnDie := rfl
@[simp] theorem send_standby (m : Sent) : (s.send m).standby = s.standby := rfl
@[simp] theorem send_kilnFailed (m : Sent) : (s.send m).kilnFailed = s.kilnFailed := rfl
@[simp] theorem send_takeoverUntil (m : Sent) : (s.send m).takeoverUntil = s.takeoverUntil := rfl
@[simp] theorem send_lateNotify (m : Sent) : (s.send m).lateNotify = s.lateNotify := rfl
@[simp] theorem send_tripped (m : Sent) : (s.send m).tripped = s.tripped := rfl
@[simp] theorem send_journal (m : Sent) : (s.send m).journal = s.journal := rfl
@[simp] theorem send_replica (m : Sent) : (s.send m).replica = s.replica := rfl
@[simp] theorem send_shadow (m : Sent) : (s.send m).shadow = s.shadow := rfl
@[simp] theorem send_posts (m : Sent) : (s.send m).posts = s.posts := rfl
@[simp] theorem send_dbgScopes (m : Sent) : (s.send m).dbgScopes = s.dbgScopes := rfl
@[simp] theorem send_freeCount (m : Sent) : (s.send m).freeCount = s.freeCount := rfl
@[simp] theorem send_agenda (m : Sent) : (s.send m).agenda = s.agenda := rfl
@[simp] theorem send_cur (m : Sent) : (s.send m).cur = s.cur := rfl
@[simp] theorem send_input (m : Sent) : (s.send m).input = s.input := rfl

@[simp] theorem journalAdd_time (d : Decision) : (s.journalAdd d).time = s.time := rfl
@[simp] theorem journalAdd_slew (d : Decision) : (s.journalAdd d).slew = s.slew := rfl
@[simp] theorem journalAdd_slewAt (d : Decision) : (s.journalAdd d).slewAt = s.slewAt := rfl
@[simp] theorem journalAdd_timeMaster (d : Decision) : (s.journalAdd d).timeMaster = s.timeMaster := rfl
@[simp] theorem journalAdd_mem (d : Decision) : (s.journalAdd d).mem = s.mem := rfl
@[simp] theorem journalAdd_poison (d : Decision) : (s.journalAdd d).poison = s.poison := rfl
@[simp] theorem journalAdd_threads (d : Decision) : (s.journalAdd d).threads = s.threads := rfl
@[simp] theorem journalAdd_threadReuse (d : Decision) : (s.journalAdd d).threadReuse = s.threadReuse := rfl
@[simp] theorem journalAdd_scopes (d : Decision) : (s.journalAdd d).scopes = s.scopes := rfl
@[simp] theorem journalAdd_tasks (d : Decision) : (s.journalAdd d).tasks = s.tasks := rfl
@[simp] theorem journalAdd_tiles (d : Decision) : (s.journalAdd d).tiles = s.tiles := rfl
@[simp] theorem journalAdd_clusters (d : Decision) : (s.journalAdd d).clusters = s.clusters := rfl
@[simp] theorem journalAdd_dies (d : Decision) : (s.journalAdd d).dies = s.dies := rfl
@[simp] theorem journalAdd_heaps (d : Decision) : (s.journalAdd d).heaps = s.heaps := rfl
@[simp] theorem journalAdd_streams (d : Decision) : (s.journalAdd d).streams = s.streams := rfl
@[simp] theorem journalAdd_pfx (d : Decision) : (s.journalAdd d).pfx = s.pfx := rfl
@[simp] theorem journalAdd_pfxUse (d : Decision) : (s.journalAdd d).pfxUse = s.pfxUse := rfl
@[simp] theorem journalAdd_aspaces (d : Decision) : (s.journalAdd d).aspaces = s.aspaces := rfl
@[simp] theorem journalAdd_returns (d : Decision) : (s.journalAdd d).returns = s.returns := rfl
@[simp] theorem journalAdd_remotes (d : Decision) : (s.journalAdd d).remotes = s.remotes := rfl
@[simp] theorem journalAdd_sent (d : Decision) : (s.journalAdd d).sent = s.sent := rfl
@[simp] theorem journalAdd_queues (d : Decision) : (s.journalAdd d).queues = s.queues := rfl
@[simp] theorem journalAdd_cmds (d : Decision) : (s.journalAdd d).cmds = s.cmds := rfl
@[simp] theorem journalAdd_donePosts (d : Decision) : (s.journalAdd d).donePosts = s.donePosts := rfl
@[simp] theorem journalAdd_nextCmd (d : Decision) : (s.journalAdd d).nextCmd = s.nextCmd := rfl
@[simp] theorem journalAdd_nextOp (d : Decision) : (s.journalAdd d).nextOp = s.nextOp := rfl
@[simp] theorem journalAdd_funcs (d : Decision) : (s.journalAdd d).funcs = s.funcs := rfl
@[simp] theorem journalAdd_thresholds (d : Decision) : (s.journalAdd d).thresholds = s.thresholds := rfl
@[simp] theorem journalAdd_groups (d : Decision) : (s.journalAdd d).groups = s.groups := rfl
@[simp] theorem journalAdd_groupsSent (d : Decision) : (s.journalAdd d).groupsSent = s.groupsSent := rfl
@[simp] theorem journalAdd_lastTaken (d : Decision) : (s.journalAdd d).lastTaken = s.lastTaken := rfl
@[simp] theorem journalAdd_devEvents (d : Decision) : (s.journalAdd d).devEvents = s.devEvents := rfl
@[simp] theorem journalAdd_devNum (d : Decision) : (s.journalAdd d).devNum = s.devNum := rfl
@[simp] theorem journalAdd_life (d : Decision) : (s.journalAdd d).life = s.life := rfl
@[simp] theorem journalAdd_booted (d : Decision) : (s.journalAdd d).booted = s.booted := rfl
@[simp] theorem journalAdd_lanes (d : Decision) : (s.journalAdd d).lanes = s.lanes := rfl
@[simp] theorem journalAdd_hbmch (d : Decision) : (s.journalAdd d).hbmch = s.hbmch := rfl
@[simp] theorem journalAdd_hbmbytes (d : Decision) : (s.journalAdd d).hbmbytes = s.hbmbytes := rfl
@[simp] theorem journalAdd_hbmLost (d : Decision) : (s.journalAdd d).hbmLost = s.hbmLost := rfl
@[simp] theorem journalAdd_measured (d : Decision) : (s.journalAdd d).measured = s.measured := rfl
@[simp] theorem journalAdd_takeovers (d : Decision) : (s.journalAdd d).takeovers = s.takeovers := rfl
@[simp] theorem journalAdd_kilnDie (d : Decision) : (s.journalAdd d).kilnDie = s.kilnDie := rfl
@[simp] theorem journalAdd_standby (d : Decision) : (s.journalAdd d).standby = s.standby := rfl
@[simp] theorem journalAdd_kilnFailed (d : Decision) : (s.journalAdd d).kilnFailed = s.kilnFailed := rfl
@[simp] theorem journalAdd_takeoverUntil (d : Decision) : (s.journalAdd d).takeoverUntil = s.takeoverUntil := rfl
@[simp] theorem journalAdd_lateNotify (d : Decision) : (s.journalAdd d).lateNotify = s.lateNotify := rfl
@[simp] theorem journalAdd_tripped (d : Decision) : (s.journalAdd d).tripped = s.tripped := rfl
@[simp] theorem journalAdd_freeCount (d : Decision) : (s.journalAdd d).freeCount = s.freeCount := rfl
@[simp] theorem journalAdd_agenda (d : Decision) : (s.journalAdd d).agenda = s.agenda := rfl
@[simp] theorem journalAdd_cur (d : Decision) : (s.journalAdd d).cur = s.cur := rfl
@[simp] theorem journalAdd_input (d : Decision) : (s.journalAdd d).input = s.input := rfl
@[simp] theorem journalAdd_journal (d : Decision) :
    (s.journalAdd d).journal = (d :: s.journal).take Config.journalDepth := rfl
@[simp] theorem journalAdd_replica (d : Decision) : (s.journalAdd d).replica =
    if s.standby then (d :: s.replica).take Config.journalDepth else s.replica := rfl
@[simp] theorem journalAdd_shadow (d : Decision) :
    (s.journalAdd d).shadow = if s.standby then s.shadow.replay d else s.shadow := rfl
@[simp] theorem journalAdd_posts (d : Decision) : (s.journalAdd d).posts = s.posts := rfl
@[simp] theorem journalAdd_dbgScopes (d : Decision) : (s.journalAdd d).dbgScopes = s.dbgScopes := rfl

@[simp] theorem done_time (th : Thread) : (s.done t th).time = s.time := rfl
@[simp] theorem done_slew (th : Thread) : (s.done t th).slew = s.slew := rfl
@[simp] theorem done_slewAt (th : Thread) : (s.done t th).slewAt = s.slewAt := rfl
@[simp] theorem done_timeMaster (th : Thread) : (s.done t th).timeMaster = s.timeMaster := rfl
@[simp] theorem done_mem (th : Thread) : (s.done t th).mem = s.mem := rfl
@[simp] theorem done_poison (th : Thread) : (s.done t th).poison = s.poison := rfl
@[simp] theorem done_threadReuse (th : Thread) : (s.done t th).threadReuse = s.threadReuse := rfl
@[simp] theorem done_scopes (th : Thread) : (s.done t th).scopes = s.scopes := rfl
@[simp] theorem done_tasks (th : Thread) : (s.done t th).tasks = s.tasks := rfl
@[simp] theorem done_tiles (th : Thread) : (s.done t th).tiles = s.tiles := rfl
@[simp] theorem done_clusters (th : Thread) : (s.done t th).clusters = s.clusters := rfl
@[simp] theorem done_dies (th : Thread) : (s.done t th).dies = s.dies := rfl
@[simp] theorem done_heaps (th : Thread) : (s.done t th).heaps = s.heaps := rfl
@[simp] theorem done_streams (th : Thread) : (s.done t th).streams = s.streams := rfl
@[simp] theorem done_pfx (th : Thread) : (s.done t th).pfx = s.pfx := rfl
@[simp] theorem done_pfxUse (th : Thread) : (s.done t th).pfxUse = s.pfxUse := rfl
@[simp] theorem done_aspaces (th : Thread) : (s.done t th).aspaces = s.aspaces := rfl
@[simp] theorem done_returns (th : Thread) : (s.done t th).returns = s.returns := rfl
@[simp] theorem done_remotes (th : Thread) : (s.done t th).remotes = s.remotes := rfl
@[simp] theorem done_sent (th : Thread) : (s.done t th).sent = s.sent := rfl
@[simp] theorem done_queues (th : Thread) : (s.done t th).queues = s.queues := rfl
@[simp] theorem done_cmds (th : Thread) : (s.done t th).cmds = s.cmds := rfl
@[simp] theorem done_donePosts (th : Thread) : (s.done t th).donePosts = s.donePosts := rfl
@[simp] theorem done_nextCmd (th : Thread) : (s.done t th).nextCmd = s.nextCmd := rfl
@[simp] theorem done_nextOp (th : Thread) : (s.done t th).nextOp = s.nextOp := rfl
@[simp] theorem done_funcs (th : Thread) : (s.done t th).funcs = s.funcs := rfl
@[simp] theorem done_thresholds (th : Thread) : (s.done t th).thresholds = s.thresholds := rfl
@[simp] theorem done_groups (th : Thread) : (s.done t th).groups = s.groups := rfl
@[simp] theorem done_groupsSent (th : Thread) : (s.done t th).groupsSent = s.groupsSent := rfl
@[simp] theorem done_lastTaken (th : Thread) : (s.done t th).lastTaken = s.lastTaken := rfl
@[simp] theorem done_devEvents (th : Thread) : (s.done t th).devEvents = s.devEvents := rfl
@[simp] theorem done_devNum (th : Thread) : (s.done t th).devNum = s.devNum := rfl
@[simp] theorem done_life (th : Thread) : (s.done t th).life = s.life := rfl
@[simp] theorem done_booted (th : Thread) : (s.done t th).booted = s.booted := rfl
@[simp] theorem done_lanes (th : Thread) : (s.done t th).lanes = s.lanes := rfl
@[simp] theorem done_hbmch (th : Thread) : (s.done t th).hbmch = s.hbmch := rfl
@[simp] theorem done_hbmbytes (th : Thread) : (s.done t th).hbmbytes = s.hbmbytes := rfl
@[simp] theorem done_hbmLost (th : Thread) : (s.done t th).hbmLost = s.hbmLost := rfl
@[simp] theorem done_measured (th : Thread) : (s.done t th).measured = s.measured := rfl
@[simp] theorem done_takeovers (th : Thread) : (s.done t th).takeovers = s.takeovers := rfl
@[simp] theorem done_kilnDie (th : Thread) : (s.done t th).kilnDie = s.kilnDie := rfl
@[simp] theorem done_standby (th : Thread) : (s.done t th).standby = s.standby := rfl
@[simp] theorem done_kilnFailed (th : Thread) : (s.done t th).kilnFailed = s.kilnFailed := rfl
@[simp] theorem done_takeoverUntil (th : Thread) : (s.done t th).takeoverUntil = s.takeoverUntil := rfl
@[simp] theorem done_lateNotify (th : Thread) : (s.done t th).lateNotify = s.lateNotify := rfl
@[simp] theorem done_tripped (th : Thread) : (s.done t th).tripped = s.tripped := rfl
@[simp] theorem done_journal (th : Thread) : (s.done t th).journal = s.journal := rfl
@[simp] theorem done_replica (th : Thread) : (s.done t th).replica = s.replica := rfl
@[simp] theorem done_shadow (th : Thread) : (s.done t th).shadow = s.shadow := rfl
@[simp] theorem done_posts (th : Thread) : (s.done t th).posts = s.posts := rfl
@[simp] theorem done_dbgScopes (th : Thread) : (s.done t th).dbgScopes = s.dbgScopes := rfl
@[simp] theorem done_freeCount (th : Thread) : (s.done t th).freeCount = s.freeCount := rfl
@[simp] theorem done_agenda (th : Thread) : (s.done t th).agenda = s.agenda := rfl
@[simp] theorem done_cur (th : Thread) : (s.done t th).cur = s.cur := rfl
@[simp] theorem done_input (th : Thread) : (s.done t th).input = s.input := rfl

@[simp] theorem stall_time (th : Thread) : (s.stall t th).time = s.time := rfl
@[simp] theorem stall_slew (th : Thread) : (s.stall t th).slew = s.slew := rfl
@[simp] theorem stall_slewAt (th : Thread) : (s.stall t th).slewAt = s.slewAt := rfl
@[simp] theorem stall_timeMaster (th : Thread) : (s.stall t th).timeMaster = s.timeMaster := rfl
@[simp] theorem stall_mem (th : Thread) : (s.stall t th).mem = s.mem := rfl
@[simp] theorem stall_poison (th : Thread) : (s.stall t th).poison = s.poison := rfl
@[simp] theorem stall_threadReuse (th : Thread) : (s.stall t th).threadReuse = s.threadReuse := rfl
@[simp] theorem stall_scopes (th : Thread) : (s.stall t th).scopes = s.scopes := rfl
@[simp] theorem stall_tasks (th : Thread) : (s.stall t th).tasks = s.tasks := rfl
@[simp] theorem stall_tiles (th : Thread) : (s.stall t th).tiles = s.tiles := rfl
@[simp] theorem stall_clusters (th : Thread) : (s.stall t th).clusters = s.clusters := rfl
@[simp] theorem stall_dies (th : Thread) : (s.stall t th).dies = s.dies := rfl
@[simp] theorem stall_heaps (th : Thread) : (s.stall t th).heaps = s.heaps := rfl
@[simp] theorem stall_streams (th : Thread) : (s.stall t th).streams = s.streams := rfl
@[simp] theorem stall_pfx (th : Thread) : (s.stall t th).pfx = s.pfx := rfl
@[simp] theorem stall_pfxUse (th : Thread) : (s.stall t th).pfxUse = s.pfxUse := rfl
@[simp] theorem stall_aspaces (th : Thread) : (s.stall t th).aspaces = s.aspaces := rfl
@[simp] theorem stall_returns (th : Thread) : (s.stall t th).returns = s.returns := rfl
@[simp] theorem stall_remotes (th : Thread) : (s.stall t th).remotes = s.remotes := rfl
@[simp] theorem stall_sent (th : Thread) : (s.stall t th).sent = s.sent := rfl
@[simp] theorem stall_queues (th : Thread) : (s.stall t th).queues = s.queues := rfl
@[simp] theorem stall_cmds (th : Thread) : (s.stall t th).cmds = s.cmds := rfl
@[simp] theorem stall_donePosts (th : Thread) : (s.stall t th).donePosts = s.donePosts := rfl
@[simp] theorem stall_nextCmd (th : Thread) : (s.stall t th).nextCmd = s.nextCmd := rfl
@[simp] theorem stall_nextOp (th : Thread) : (s.stall t th).nextOp = s.nextOp := rfl
@[simp] theorem stall_funcs (th : Thread) : (s.stall t th).funcs = s.funcs := rfl
@[simp] theorem stall_thresholds (th : Thread) : (s.stall t th).thresholds = s.thresholds := rfl
@[simp] theorem stall_groups (th : Thread) : (s.stall t th).groups = s.groups := rfl
@[simp] theorem stall_groupsSent (th : Thread) : (s.stall t th).groupsSent = s.groupsSent := rfl
@[simp] theorem stall_lastTaken (th : Thread) : (s.stall t th).lastTaken = s.lastTaken := rfl
@[simp] theorem stall_devEvents (th : Thread) : (s.stall t th).devEvents = s.devEvents := rfl
@[simp] theorem stall_devNum (th : Thread) : (s.stall t th).devNum = s.devNum := rfl
@[simp] theorem stall_life (th : Thread) : (s.stall t th).life = s.life := rfl
@[simp] theorem stall_booted (th : Thread) : (s.stall t th).booted = s.booted := rfl
@[simp] theorem stall_lanes (th : Thread) : (s.stall t th).lanes = s.lanes := rfl
@[simp] theorem stall_hbmch (th : Thread) : (s.stall t th).hbmch = s.hbmch := rfl
@[simp] theorem stall_hbmbytes (th : Thread) : (s.stall t th).hbmbytes = s.hbmbytes := rfl
@[simp] theorem stall_hbmLost (th : Thread) : (s.stall t th).hbmLost = s.hbmLost := rfl
@[simp] theorem stall_measured (th : Thread) : (s.stall t th).measured = s.measured := rfl
@[simp] theorem stall_takeovers (th : Thread) : (s.stall t th).takeovers = s.takeovers := rfl
@[simp] theorem stall_kilnDie (th : Thread) : (s.stall t th).kilnDie = s.kilnDie := rfl
@[simp] theorem stall_standby (th : Thread) : (s.stall t th).standby = s.standby := rfl
@[simp] theorem stall_kilnFailed (th : Thread) : (s.stall t th).kilnFailed = s.kilnFailed := rfl
@[simp] theorem stall_takeoverUntil (th : Thread) : (s.stall t th).takeoverUntil = s.takeoverUntil := rfl
@[simp] theorem stall_lateNotify (th : Thread) : (s.stall t th).lateNotify = s.lateNotify := rfl
@[simp] theorem stall_tripped (th : Thread) : (s.stall t th).tripped = s.tripped := rfl
@[simp] theorem stall_journal (th : Thread) : (s.stall t th).journal = s.journal := rfl
@[simp] theorem stall_replica (th : Thread) : (s.stall t th).replica = s.replica := rfl
@[simp] theorem stall_shadow (th : Thread) : (s.stall t th).shadow = s.shadow := rfl
@[simp] theorem stall_posts (th : Thread) : (s.stall t th).posts = s.posts := rfl
@[simp] theorem stall_dbgScopes (th : Thread) : (s.stall t th).dbgScopes = s.dbgScopes := rfl
@[simp] theorem stall_freeCount (th : Thread) : (s.stall t th).freeCount = s.freeCount := rfl
@[simp] theorem stall_agenda (th : Thread) : (s.stall t th).agenda = s.agenda := rfl
@[simp] theorem stall_cur (th : Thread) : (s.stall t th).cur = s.cur := rfl
@[simp] theorem stall_input (th : Thread) : (s.stall t th).input = s.input := rfl

end Updates

end State

namespace Thread

section Registers
variable (th : Thread)

@[simp] theorem wx_reuse (r : XReg) (v : VWord 64) : (th.wx r v).reuse = th.reuse := by
  unfold Thread.wx; split <;> rfl
@[simp] theorem wx_pc (r : XReg) (v : VWord 64) : (th.wx r v).pc = th.pc := by
  unfold Thread.wx; split <;> rfl
@[simp] theorem wx_f (r : XReg) (v : VWord 64) : (th.wx r v).f = th.f := by
  unfold Thread.wx; split <;> rfl
@[simp] theorem wx_v (r : XReg) (v : VWord 64) : (th.wx r v).v = th.v := by
  unfold Thread.wx; split <;> rfl
@[simp] theorem wx_m (r : XReg) (v : VWord 64) : (th.wx r v).m = th.m := by
  unfold Thread.wx; split <;> rfl
@[simp] theorem wx_q (r : XReg) (v : VWord 64) : (th.wx r v).q = th.q := by
  unfold Thread.wx; split <;> rfl
@[simp] theorem wx_k (r : XReg) (v : VWord 64) : (th.wx r v).k = th.k := by
  unfold Thread.wx; split <;> rfl
@[simp] theorem wx_fflags (r : XReg) (v : VWord 64) : (th.wx r v).fflags = th.fflags := by
  unfold Thread.wx; split <;> rfl
@[simp] theorem wx_frm (r : XReg) (v : VWord 64) : (th.wx r v).frm = th.frm := by
  unfold Thread.wx; split <;> rfl
@[simp] theorem wx_waittmo (r : XReg) (v : VWord 64) : (th.wx r v).waittmo = th.waittmo := by
  unfold Thread.wx; split <;> rfl
@[simp] theorem wx_vpred (r : XReg) (v : VWord 64) : (th.wx r v).vpred = th.vpred := by
  unfold Thread.wx; split <;> rfl
@[simp] theorem wx_cland (r : XReg) (v : VWord 64) : (th.wx r v).cland = th.cland := by
  unfold Thread.wx; split <;> rfl
@[simp] theorem wx_utvec (r : XReg) (v : VWord 64) : (th.wx r v).utvec = th.utvec := by
  unfold Thread.wx; split <;> rfl
@[simp] theorem wx_uepc (r : XReg) (v : VWord 64) : (th.wx r v).uepc = th.uepc := by
  unfold Thread.wx; split <;> rfl
@[simp] theorem wx_ucause (r : XReg) (v : VWord 64) : (th.wx r v).ucause = th.ucause := by
  unfold Thread.wx; split <;> rfl
@[simp] theorem wx_utval (r : XReg) (v : VWord 64) : (th.wx r v).utval = th.utval := by
  unfold Thread.wx; split <;> rfl
@[simp] theorem wx_voidseen (r : XReg) (v : VWord 64) : (th.wx r v).voidseen = th.voidseen := by
  unfold Thread.wx; split <;> rfl
@[simp] theorem wx_shieldn (r : XReg) (v : VWord 64) : (th.wx r v).shieldn = th.shieldn := by
  unfold Thread.wx; split <;> rfl
@[simp] theorem wx_stream (r : XReg) (v : VWord 64) : (th.wx r v).stream = th.stream := by
  unfold Thread.wx; split <;> rfl
@[simp] theorem wx_seedkey (r : XReg) (v : VWord 64) : (th.wx r v).seedkey = th.seedkey := by
  unfold Thread.wx; split <;> rfl
@[simp] theorem wx_cancel (r : XReg) (v : VWord 64) : (th.wx r v).cancel = th.cancel := by
  unfold Thread.wx; split <;> rfl
@[simp] theorem wx_armed (r : XReg) (v : VWord 64) : (th.wx r v).armed = th.armed := by
  unfold Thread.wx; split <;> rfl
@[simp] theorem wx_ver (r : XReg) (v : VWord 64) : (th.wx r v).ver = th.ver := by
  unfold Thread.wx; split <;> rfl
@[simp] theorem wx_mode (r : XReg) (v : VWord 64) : (th.wx r v).mode = th.mode := by
  unfold Thread.wx; split <;> rfl
@[simp] theorem wx_mepc (r : XReg) (v : VWord 64) : (th.wx r v).mepc = th.mepc := by
  unfold Thread.wx; split <;> rfl
@[simp] theorem wx_mie (r : XReg) (v : VWord 64) : (th.wx r v).mie = th.mie := by
  unfold Thread.wx; split <;> rfl
@[simp] theorem wx_mpie (r : XReg) (v : VWord 64) : (th.wx r v).mpie = th.mpie := by
  unfold Thread.wx; split <;> rfl
@[simp] theorem wx_mpp (r : XReg) (v : VWord 64) : (th.wx r v).mpp = th.mpp := by
  unfold Thread.wx; split <;> rfl
@[simp] theorem wx_cls (r : XReg) (v : VWord 64) : (th.wx r v).cls = th.cls := by
  unfold Thread.wx; split <;> rfl
@[simp] theorem wx_tile (r : XReg) (v : VWord 64) : (th.wx r v).tile = th.tile := by
  unfold Thread.wx; split <;> rfl
@[simp] theorem wx_loc (r : XReg) (v : VWord 64) : (th.wx r v).loc = th.loc := by
  unfold Thread.wx; split <;> rfl
@[simp] theorem wx_saving (r : XReg) (v : VWord 64) : (th.wx r v).saving = th.saving := by
  unfold Thread.wx; split <;> rfl
@[simp] theorem wx_wait (r : XReg) (v : VWord 64) : (th.wx r v).wait = th.wait := by
  unfold Thread.wx; split <;> rfl
@[simp] theorem wx_stalled (r : XReg) (v : VWord 64) : (th.wx r v).stalled = th.stalled := by
  unfold Thread.wx; split <;> rfl
@[simp] theorem wx_remoteOut (r : XReg) (v : VWord 64) : (th.wx r v).remoteOut = th.remoteOut := by
  unfold Thread.wx; split <;> rfl
@[simp] theorem wx_peer (r : XReg) (v : VWord 64) : (th.wx r v).peer = th.peer := by
  unfold Thread.wx; split <;> rfl
@[simp] theorem wx_windows (r : XReg) (v : VWord 64) : (th.wx r v).windows = th.windows := by
  unfold Thread.wx; split <;> rfl
@[simp] theorem wx_saved (r : XReg) (v : VWord 64) : (th.wx r v).saved = th.saved := by
  unfold Thread.wx; split <;> rfl
@[simp] theorem wx_savingFor (r : XReg) (v : VWord 64) : (th.wx r v).savingFor = th.savingFor := by
  unfold Thread.wx; split <;> rfl
@[simp] theorem wx_inbox (r : XReg) (v : VWord 64) : (th.wx r v).inbox = th.inbox := by
  unfold Thread.wx; split <;> rfl
@[simp] theorem wx_overflow (r : XReg) (v : VWord 64) : (th.wx r v).overflow = th.overflow := by
  unfold Thread.wx; split <;> rfl
@[simp] theorem wx_prio (r : XReg) (v : VWord 64) : (th.wx r v).prio = th.prio := by
  unfold Thread.wx; split <;> rfl
@[simp] theorem wx_slice (r : XReg) (v : VWord 64) : (th.wx r v).slice = th.slice := by
  unfold Thread.wx; split <;> rfl
@[simp] theorem wx_latlim (r : XReg) (v : VWord 64) : (th.wx r v).latlim = th.latlim := by
  unfold Thread.wx; split <;> rfl
@[simp] theorem wx_sliceStart (r : XReg) (v : VWord 64) : (th.wx r v).sliceStart = th.sliceStart := by
  unfold Thread.wx; split <;> rfl
@[simp] theorem wx_dispatched (r : XReg) (v : VWord 64) : (th.wx r v).dispatched = th.dispatched := by
  unfold Thread.wx; split <;> rfl
@[simp] theorem wx_watch (r : XReg) (v : VWord 64) : (th.wx r v).watch = th.watch := by
  unfold Thread.wx; split <;> rfl
@[simp] theorem wx_service (r : XReg) (v : VWord 64) : (th.wx r v).service = th.service := by
  unfold Thread.wx; split <;> rfl
@[simp] theorem wx_task (r : XReg) (v : VWord 64) : (th.wx r v).task = th.task := by
  unfold Thread.wx; split <;> rfl
@[simp] theorem wx_aspace (r : XReg) (v : VWord 64) : (th.wx r v).aspace = th.aspace := by
  unfold Thread.wx; split <;> rfl
@[simp] theorem wx_cmd (r : XReg) (v : VWord 64) : (th.wx r v).cmd = th.cmd := by
  unfold Thread.wx; split <;> rfl
@[simp] theorem wx_bp (r : XReg) (v : VWord 64) : (th.wx r v).bp = th.bp := by
  unfold Thread.wx; split <;> rfl
@[simp] theorem wx_bpBy (r : XReg) (v : VWord 64) : (th.wx r v).bpBy = th.bpBy := by
  unfold Thread.wx; split <;> rfl
@[simp] theorem wx_wp (r : XReg) (v : VWord 64) : (th.wx r v).wp = th.wp := by
  unfold Thread.wx; split <;> rfl
@[simp] theorem wx_wpBy (r : XReg) (v : VWord 64) : (th.wx r v).wpBy = th.wpBy := by
  unfold Thread.wx; split <;> rfl
@[simp] theorem wx_halted (r : XReg) (v : VWord 64) : (th.wx r v).halted = th.halted := by
  unfold Thread.wx; split <;> rfl
@[simp] theorem wx_haltedBy (r : XReg) (v : VWord 64) : (th.wx r v).haltedBy = th.haltedBy := by
  unfold Thread.wx; split <;> rfl
@[simp] theorem wx_halting (r : XReg) (v : VWord 64) : (th.wx r v).halting = th.halting := by
  unfold Thread.wx; split <;> rfl
@[simp] theorem wx_skipCheck (r : XReg) (v : VWord 64) : (th.wx r v).skipCheck = th.skipCheck := by
  unfold Thread.wx; split <;> rfl
@[simp] theorem wx_stepping (r : XReg) (v : VWord 64) : (th.wx r v).stepping = th.stepping := by
  unfold Thread.wx; split <;> rfl
@[simp] theorem wx_mxCancelled (r : XReg) (v : VWord 64) : (th.wx r v).mxCancelled = th.mxCancelled := by
  unfold Thread.wx; split <;> rfl
@[simp] theorem wx_mxFailed (r : XReg) (v : VWord 64) : (th.wx r v).mxFailed = th.mxFailed := by
  unfold Thread.wx; split <;> rfl
@[simp] theorem wx_pendMx (r : XReg) (v : VWord 64) : (th.wx r v).pendMx = th.pendMx := by
  unfold Thread.wx; split <;> rfl
@[simp] theorem wx_ending (r : XReg) (v : VWord 64) : (th.wx r v).ending = th.ending := by
  unfold Thread.wx; split <;> rfl

@[simp] theorem wf_reuse (r : FReg) (v : VWord 32) : (th.wf r v).reuse = th.reuse := rfl
@[simp] theorem wf_pc (r : FReg) (v : VWord 32) : (th.wf r v).pc = th.pc := rfl
@[simp] theorem wf_x (r : FReg) (v : VWord 32) : (th.wf r v).x = th.x := rfl
@[simp] theorem wf_v (r : FReg) (v : VWord 32) : (th.wf r v).v = th.v := rfl
@[simp] theorem wf_m (r : FReg) (v : VWord 32) : (th.wf r v).m = th.m := rfl
@[simp] theorem wf_q (r : FReg) (v : VWord 32) : (th.wf r v).q = th.q := rfl
@[simp] theorem wf_k (r : FReg) (v : VWord 32) : (th.wf r v).k = th.k := rfl
@[simp] theorem wf_fflags (r : FReg) (v : VWord 32) : (th.wf r v).fflags = th.fflags := rfl
@[simp] theorem wf_frm (r : FReg) (v : VWord 32) : (th.wf r v).frm = th.frm := rfl
@[simp] theorem wf_waittmo (r : FReg) (v : VWord 32) : (th.wf r v).waittmo = th.waittmo := rfl
@[simp] theorem wf_vpred (r : FReg) (v : VWord 32) : (th.wf r v).vpred = th.vpred := rfl
@[simp] theorem wf_cland (r : FReg) (v : VWord 32) : (th.wf r v).cland = th.cland := rfl
@[simp] theorem wf_utvec (r : FReg) (v : VWord 32) : (th.wf r v).utvec = th.utvec := rfl
@[simp] theorem wf_uepc (r : FReg) (v : VWord 32) : (th.wf r v).uepc = th.uepc := rfl
@[simp] theorem wf_ucause (r : FReg) (v : VWord 32) : (th.wf r v).ucause = th.ucause := rfl
@[simp] theorem wf_utval (r : FReg) (v : VWord 32) : (th.wf r v).utval = th.utval := rfl
@[simp] theorem wf_voidseen (r : FReg) (v : VWord 32) : (th.wf r v).voidseen = th.voidseen := rfl
@[simp] theorem wf_shieldn (r : FReg) (v : VWord 32) : (th.wf r v).shieldn = th.shieldn := rfl
@[simp] theorem wf_stream (r : FReg) (v : VWord 32) : (th.wf r v).stream = th.stream := rfl
@[simp] theorem wf_seedkey (r : FReg) (v : VWord 32) : (th.wf r v).seedkey = th.seedkey := rfl
@[simp] theorem wf_cancel (r : FReg) (v : VWord 32) : (th.wf r v).cancel = th.cancel := rfl
@[simp] theorem wf_armed (r : FReg) (v : VWord 32) : (th.wf r v).armed = th.armed := rfl
@[simp] theorem wf_ver (r : FReg) (v : VWord 32) : (th.wf r v).ver = th.ver := rfl
@[simp] theorem wf_mode (r : FReg) (v : VWord 32) : (th.wf r v).mode = th.mode := rfl
@[simp] theorem wf_mepc (r : FReg) (v : VWord 32) : (th.wf r v).mepc = th.mepc := rfl
@[simp] theorem wf_mie (r : FReg) (v : VWord 32) : (th.wf r v).mie = th.mie := rfl
@[simp] theorem wf_mpie (r : FReg) (v : VWord 32) : (th.wf r v).mpie = th.mpie := rfl
@[simp] theorem wf_mpp (r : FReg) (v : VWord 32) : (th.wf r v).mpp = th.mpp := rfl
@[simp] theorem wf_cls (r : FReg) (v : VWord 32) : (th.wf r v).cls = th.cls := rfl
@[simp] theorem wf_tile (r : FReg) (v : VWord 32) : (th.wf r v).tile = th.tile := rfl
@[simp] theorem wf_loc (r : FReg) (v : VWord 32) : (th.wf r v).loc = th.loc := rfl
@[simp] theorem wf_saving (r : FReg) (v : VWord 32) : (th.wf r v).saving = th.saving := rfl
@[simp] theorem wf_wait (r : FReg) (v : VWord 32) : (th.wf r v).wait = th.wait := rfl
@[simp] theorem wf_stalled (r : FReg) (v : VWord 32) : (th.wf r v).stalled = th.stalled := rfl
@[simp] theorem wf_remoteOut (r : FReg) (v : VWord 32) : (th.wf r v).remoteOut = th.remoteOut := rfl
@[simp] theorem wf_peer (r : FReg) (v : VWord 32) : (th.wf r v).peer = th.peer := rfl
@[simp] theorem wf_windows (r : FReg) (v : VWord 32) : (th.wf r v).windows = th.windows := rfl
@[simp] theorem wf_saved (r : FReg) (v : VWord 32) : (th.wf r v).saved = th.saved := rfl
@[simp] theorem wf_savingFor (r : FReg) (v : VWord 32) : (th.wf r v).savingFor = th.savingFor := rfl
@[simp] theorem wf_inbox (r : FReg) (v : VWord 32) : (th.wf r v).inbox = th.inbox := rfl
@[simp] theorem wf_overflow (r : FReg) (v : VWord 32) : (th.wf r v).overflow = th.overflow := rfl
@[simp] theorem wf_prio (r : FReg) (v : VWord 32) : (th.wf r v).prio = th.prio := rfl
@[simp] theorem wf_slice (r : FReg) (v : VWord 32) : (th.wf r v).slice = th.slice := rfl
@[simp] theorem wf_latlim (r : FReg) (v : VWord 32) : (th.wf r v).latlim = th.latlim := rfl
@[simp] theorem wf_sliceStart (r : FReg) (v : VWord 32) : (th.wf r v).sliceStart = th.sliceStart := rfl
@[simp] theorem wf_dispatched (r : FReg) (v : VWord 32) : (th.wf r v).dispatched = th.dispatched := rfl
@[simp] theorem wf_watch (r : FReg) (v : VWord 32) : (th.wf r v).watch = th.watch := rfl
@[simp] theorem wf_service (r : FReg) (v : VWord 32) : (th.wf r v).service = th.service := rfl
@[simp] theorem wf_task (r : FReg) (v : VWord 32) : (th.wf r v).task = th.task := rfl
@[simp] theorem wf_aspace (r : FReg) (v : VWord 32) : (th.wf r v).aspace = th.aspace := rfl
@[simp] theorem wf_cmd (r : FReg) (v : VWord 32) : (th.wf r v).cmd = th.cmd := rfl
@[simp] theorem wf_bp (r : FReg) (v : VWord 32) : (th.wf r v).bp = th.bp := rfl
@[simp] theorem wf_bpBy (r : FReg) (v : VWord 32) : (th.wf r v).bpBy = th.bpBy := rfl
@[simp] theorem wf_wp (r : FReg) (v : VWord 32) : (th.wf r v).wp = th.wp := rfl
@[simp] theorem wf_wpBy (r : FReg) (v : VWord 32) : (th.wf r v).wpBy = th.wpBy := rfl
@[simp] theorem wf_halted (r : FReg) (v : VWord 32) : (th.wf r v).halted = th.halted := rfl
@[simp] theorem wf_haltedBy (r : FReg) (v : VWord 32) : (th.wf r v).haltedBy = th.haltedBy := rfl
@[simp] theorem wf_halting (r : FReg) (v : VWord 32) : (th.wf r v).halting = th.halting := rfl
@[simp] theorem wf_skipCheck (r : FReg) (v : VWord 32) : (th.wf r v).skipCheck = th.skipCheck := rfl
@[simp] theorem wf_stepping (r : FReg) (v : VWord 32) : (th.wf r v).stepping = th.stepping := rfl
@[simp] theorem wf_mxCancelled (r : FReg) (v : VWord 32) : (th.wf r v).mxCancelled = th.mxCancelled := rfl
@[simp] theorem wf_mxFailed (r : FReg) (v : VWord 32) : (th.wf r v).mxFailed = th.mxFailed := rfl
@[simp] theorem wf_pendMx (r : FReg) (v : VWord 32) : (th.wf r v).pendMx = th.pendMx := rfl
@[simp] theorem wf_ending (r : FReg) (v : VWord 32) : (th.wf r v).ending = th.ending := rfl

@[simp] theorem wv_reuse (r : VReg) (v : Vector (VWord 32) 64) : (th.wv r v).reuse = th.reuse := rfl
@[simp] theorem wv_pc (r : VReg) (v : Vector (VWord 32) 64) : (th.wv r v).pc = th.pc := rfl
@[simp] theorem wv_x (r : VReg) (v : Vector (VWord 32) 64) : (th.wv r v).x = th.x := rfl
@[simp] theorem wv_f (r : VReg) (v : Vector (VWord 32) 64) : (th.wv r v).f = th.f := rfl
@[simp] theorem wv_m (r : VReg) (v : Vector (VWord 32) 64) : (th.wv r v).m = th.m := rfl
@[simp] theorem wv_q (r : VReg) (v : Vector (VWord 32) 64) : (th.wv r v).q = th.q := rfl
@[simp] theorem wv_k (r : VReg) (v : Vector (VWord 32) 64) : (th.wv r v).k = th.k := rfl
@[simp] theorem wv_fflags (r : VReg) (v : Vector (VWord 32) 64) : (th.wv r v).fflags = th.fflags := rfl
@[simp] theorem wv_frm (r : VReg) (v : Vector (VWord 32) 64) : (th.wv r v).frm = th.frm := rfl
@[simp] theorem wv_waittmo (r : VReg) (v : Vector (VWord 32) 64) : (th.wv r v).waittmo = th.waittmo := rfl
@[simp] theorem wv_vpred (r : VReg) (v : Vector (VWord 32) 64) : (th.wv r v).vpred = th.vpred := rfl
@[simp] theorem wv_cland (r : VReg) (v : Vector (VWord 32) 64) : (th.wv r v).cland = th.cland := rfl
@[simp] theorem wv_utvec (r : VReg) (v : Vector (VWord 32) 64) : (th.wv r v).utvec = th.utvec := rfl
@[simp] theorem wv_uepc (r : VReg) (v : Vector (VWord 32) 64) : (th.wv r v).uepc = th.uepc := rfl
@[simp] theorem wv_ucause (r : VReg) (v : Vector (VWord 32) 64) : (th.wv r v).ucause = th.ucause := rfl
@[simp] theorem wv_utval (r : VReg) (v : Vector (VWord 32) 64) : (th.wv r v).utval = th.utval := rfl
@[simp] theorem wv_voidseen (r : VReg) (v : Vector (VWord 32) 64) : (th.wv r v).voidseen = th.voidseen := rfl
@[simp] theorem wv_shieldn (r : VReg) (v : Vector (VWord 32) 64) : (th.wv r v).shieldn = th.shieldn := rfl
@[simp] theorem wv_stream (r : VReg) (v : Vector (VWord 32) 64) : (th.wv r v).stream = th.stream := rfl
@[simp] theorem wv_seedkey (r : VReg) (v : Vector (VWord 32) 64) : (th.wv r v).seedkey = th.seedkey := rfl
@[simp] theorem wv_cancel (r : VReg) (v : Vector (VWord 32) 64) : (th.wv r v).cancel = th.cancel := rfl
@[simp] theorem wv_armed (r : VReg) (v : Vector (VWord 32) 64) : (th.wv r v).armed = th.armed := rfl
@[simp] theorem wv_ver (r : VReg) (v : Vector (VWord 32) 64) : (th.wv r v).ver = th.ver := rfl
@[simp] theorem wv_mode (r : VReg) (v : Vector (VWord 32) 64) : (th.wv r v).mode = th.mode := rfl
@[simp] theorem wv_mepc (r : VReg) (v : Vector (VWord 32) 64) : (th.wv r v).mepc = th.mepc := rfl
@[simp] theorem wv_mie (r : VReg) (v : Vector (VWord 32) 64) : (th.wv r v).mie = th.mie := rfl
@[simp] theorem wv_mpie (r : VReg) (v : Vector (VWord 32) 64) : (th.wv r v).mpie = th.mpie := rfl
@[simp] theorem wv_mpp (r : VReg) (v : Vector (VWord 32) 64) : (th.wv r v).mpp = th.mpp := rfl
@[simp] theorem wv_cls (r : VReg) (v : Vector (VWord 32) 64) : (th.wv r v).cls = th.cls := rfl
@[simp] theorem wv_tile (r : VReg) (v : Vector (VWord 32) 64) : (th.wv r v).tile = th.tile := rfl
@[simp] theorem wv_loc (r : VReg) (v : Vector (VWord 32) 64) : (th.wv r v).loc = th.loc := rfl
@[simp] theorem wv_saving (r : VReg) (v : Vector (VWord 32) 64) : (th.wv r v).saving = th.saving := rfl
@[simp] theorem wv_wait (r : VReg) (v : Vector (VWord 32) 64) : (th.wv r v).wait = th.wait := rfl
@[simp] theorem wv_stalled (r : VReg) (v : Vector (VWord 32) 64) : (th.wv r v).stalled = th.stalled := rfl
@[simp] theorem wv_remoteOut (r : VReg) (v : Vector (VWord 32) 64) : (th.wv r v).remoteOut = th.remoteOut := rfl
@[simp] theorem wv_peer (r : VReg) (v : Vector (VWord 32) 64) : (th.wv r v).peer = th.peer := rfl
@[simp] theorem wv_windows (r : VReg) (v : Vector (VWord 32) 64) : (th.wv r v).windows = th.windows := rfl
@[simp] theorem wv_saved (r : VReg) (v : Vector (VWord 32) 64) : (th.wv r v).saved = th.saved := rfl
@[simp] theorem wv_savingFor (r : VReg) (v : Vector (VWord 32) 64) : (th.wv r v).savingFor = th.savingFor := rfl
@[simp] theorem wv_inbox (r : VReg) (v : Vector (VWord 32) 64) : (th.wv r v).inbox = th.inbox := rfl
@[simp] theorem wv_overflow (r : VReg) (v : Vector (VWord 32) 64) : (th.wv r v).overflow = th.overflow := rfl
@[simp] theorem wv_prio (r : VReg) (v : Vector (VWord 32) 64) : (th.wv r v).prio = th.prio := rfl
@[simp] theorem wv_slice (r : VReg) (v : Vector (VWord 32) 64) : (th.wv r v).slice = th.slice := rfl
@[simp] theorem wv_latlim (r : VReg) (v : Vector (VWord 32) 64) : (th.wv r v).latlim = th.latlim := rfl
@[simp] theorem wv_sliceStart (r : VReg) (v : Vector (VWord 32) 64) : (th.wv r v).sliceStart = th.sliceStart := rfl
@[simp] theorem wv_dispatched (r : VReg) (v : Vector (VWord 32) 64) : (th.wv r v).dispatched = th.dispatched := rfl
@[simp] theorem wv_watch (r : VReg) (v : Vector (VWord 32) 64) : (th.wv r v).watch = th.watch := rfl
@[simp] theorem wv_service (r : VReg) (v : Vector (VWord 32) 64) : (th.wv r v).service = th.service := rfl
@[simp] theorem wv_task (r : VReg) (v : Vector (VWord 32) 64) : (th.wv r v).task = th.task := rfl
@[simp] theorem wv_aspace (r : VReg) (v : Vector (VWord 32) 64) : (th.wv r v).aspace = th.aspace := rfl
@[simp] theorem wv_cmd (r : VReg) (v : Vector (VWord 32) 64) : (th.wv r v).cmd = th.cmd := rfl
@[simp] theorem wv_bp (r : VReg) (v : Vector (VWord 32) 64) : (th.wv r v).bp = th.bp := rfl
@[simp] theorem wv_bpBy (r : VReg) (v : Vector (VWord 32) 64) : (th.wv r v).bpBy = th.bpBy := rfl
@[simp] theorem wv_wp (r : VReg) (v : Vector (VWord 32) 64) : (th.wv r v).wp = th.wp := rfl
@[simp] theorem wv_wpBy (r : VReg) (v : Vector (VWord 32) 64) : (th.wv r v).wpBy = th.wpBy := rfl
@[simp] theorem wv_halted (r : VReg) (v : Vector (VWord 32) 64) : (th.wv r v).halted = th.halted := rfl
@[simp] theorem wv_haltedBy (r : VReg) (v : Vector (VWord 32) 64) : (th.wv r v).haltedBy = th.haltedBy := rfl
@[simp] theorem wv_halting (r : VReg) (v : Vector (VWord 32) 64) : (th.wv r v).halting = th.halting := rfl
@[simp] theorem wv_skipCheck (r : VReg) (v : Vector (VWord 32) 64) : (th.wv r v).skipCheck = th.skipCheck := rfl
@[simp] theorem wv_stepping (r : VReg) (v : Vector (VWord 32) 64) : (th.wv r v).stepping = th.stepping := rfl
@[simp] theorem wv_mxCancelled (r : VReg) (v : Vector (VWord 32) 64) : (th.wv r v).mxCancelled = th.mxCancelled := rfl
@[simp] theorem wv_mxFailed (r : VReg) (v : Vector (VWord 32) 64) : (th.wv r v).mxFailed = th.mxFailed := rfl
@[simp] theorem wv_pendMx (r : VReg) (v : Vector (VWord 32) 64) : (th.wv r v).pendMx = th.pendMx := rfl
@[simp] theorem wv_ending (r : VReg) (v : Vector (VWord 32) 64) : (th.wv r v).ending = th.ending := rfl

@[simp] theorem wm_reuse (r : MReg) (v : Word) : (th.wm r v).reuse = th.reuse := by
  unfold Thread.wm; split <;> rfl
@[simp] theorem wm_pc (r : MReg) (v : Word) : (th.wm r v).pc = th.pc := by
  unfold Thread.wm; split <;> rfl
@[simp] theorem wm_x (r : MReg) (v : Word) : (th.wm r v).x = th.x := by
  unfold Thread.wm; split <;> rfl
@[simp] theorem wm_f (r : MReg) (v : Word) : (th.wm r v).f = th.f := by
  unfold Thread.wm; split <;> rfl
@[simp] theorem wm_v (r : MReg) (v : Word) : (th.wm r v).v = th.v := by
  unfold Thread.wm; split <;> rfl
@[simp] theorem wm_q (r : MReg) (v : Word) : (th.wm r v).q = th.q := by
  unfold Thread.wm; split <;> rfl
@[simp] theorem wm_k (r : MReg) (v : Word) : (th.wm r v).k = th.k := by
  unfold Thread.wm; split <;> rfl
@[simp] theorem wm_fflags (r : MReg) (v : Word) : (th.wm r v).fflags = th.fflags := by
  unfold Thread.wm; split <;> rfl
@[simp] theorem wm_frm (r : MReg) (v : Word) : (th.wm r v).frm = th.frm := by
  unfold Thread.wm; split <;> rfl
@[simp] theorem wm_waittmo (r : MReg) (v : Word) : (th.wm r v).waittmo = th.waittmo := by
  unfold Thread.wm; split <;> rfl
@[simp] theorem wm_vpred (r : MReg) (v : Word) : (th.wm r v).vpred = th.vpred := by
  unfold Thread.wm; split <;> rfl
@[simp] theorem wm_cland (r : MReg) (v : Word) : (th.wm r v).cland = th.cland := by
  unfold Thread.wm; split <;> rfl
@[simp] theorem wm_utvec (r : MReg) (v : Word) : (th.wm r v).utvec = th.utvec := by
  unfold Thread.wm; split <;> rfl
@[simp] theorem wm_uepc (r : MReg) (v : Word) : (th.wm r v).uepc = th.uepc := by
  unfold Thread.wm; split <;> rfl
@[simp] theorem wm_ucause (r : MReg) (v : Word) : (th.wm r v).ucause = th.ucause := by
  unfold Thread.wm; split <;> rfl
@[simp] theorem wm_utval (r : MReg) (v : Word) : (th.wm r v).utval = th.utval := by
  unfold Thread.wm; split <;> rfl
@[simp] theorem wm_voidseen (r : MReg) (v : Word) : (th.wm r v).voidseen = th.voidseen := by
  unfold Thread.wm; split <;> rfl
@[simp] theorem wm_shieldn (r : MReg) (v : Word) : (th.wm r v).shieldn = th.shieldn := by
  unfold Thread.wm; split <;> rfl
@[simp] theorem wm_stream (r : MReg) (v : Word) : (th.wm r v).stream = th.stream := by
  unfold Thread.wm; split <;> rfl
@[simp] theorem wm_seedkey (r : MReg) (v : Word) : (th.wm r v).seedkey = th.seedkey := by
  unfold Thread.wm; split <;> rfl
@[simp] theorem wm_cancel (r : MReg) (v : Word) : (th.wm r v).cancel = th.cancel := by
  unfold Thread.wm; split <;> rfl
@[simp] theorem wm_armed (r : MReg) (v : Word) : (th.wm r v).armed = th.armed := by
  unfold Thread.wm; split <;> rfl
@[simp] theorem wm_ver (r : MReg) (v : Word) : (th.wm r v).ver = th.ver := by
  unfold Thread.wm; split <;> rfl
@[simp] theorem wm_mode (r : MReg) (v : Word) : (th.wm r v).mode = th.mode := by
  unfold Thread.wm; split <;> rfl
@[simp] theorem wm_mepc (r : MReg) (v : Word) : (th.wm r v).mepc = th.mepc := by
  unfold Thread.wm; split <;> rfl
@[simp] theorem wm_mie (r : MReg) (v : Word) : (th.wm r v).mie = th.mie := by
  unfold Thread.wm; split <;> rfl
@[simp] theorem wm_mpie (r : MReg) (v : Word) : (th.wm r v).mpie = th.mpie := by
  unfold Thread.wm; split <;> rfl
@[simp] theorem wm_mpp (r : MReg) (v : Word) : (th.wm r v).mpp = th.mpp := by
  unfold Thread.wm; split <;> rfl
@[simp] theorem wm_cls (r : MReg) (v : Word) : (th.wm r v).cls = th.cls := by
  unfold Thread.wm; split <;> rfl
@[simp] theorem wm_tile (r : MReg) (v : Word) : (th.wm r v).tile = th.tile := by
  unfold Thread.wm; split <;> rfl
@[simp] theorem wm_loc (r : MReg) (v : Word) : (th.wm r v).loc = th.loc := by
  unfold Thread.wm; split <;> rfl
@[simp] theorem wm_saving (r : MReg) (v : Word) : (th.wm r v).saving = th.saving := by
  unfold Thread.wm; split <;> rfl
@[simp] theorem wm_wait (r : MReg) (v : Word) : (th.wm r v).wait = th.wait := by
  unfold Thread.wm; split <;> rfl
@[simp] theorem wm_stalled (r : MReg) (v : Word) : (th.wm r v).stalled = th.stalled := by
  unfold Thread.wm; split <;> rfl
@[simp] theorem wm_remoteOut (r : MReg) (v : Word) : (th.wm r v).remoteOut = th.remoteOut := by
  unfold Thread.wm; split <;> rfl
@[simp] theorem wm_peer (r : MReg) (v : Word) : (th.wm r v).peer = th.peer := by
  unfold Thread.wm; split <;> rfl
@[simp] theorem wm_windows (r : MReg) (v : Word) : (th.wm r v).windows = th.windows := by
  unfold Thread.wm; split <;> rfl
@[simp] theorem wm_saved (r : MReg) (v : Word) : (th.wm r v).saved = th.saved := by
  unfold Thread.wm; split <;> rfl
@[simp] theorem wm_savingFor (r : MReg) (v : Word) : (th.wm r v).savingFor = th.savingFor := by
  unfold Thread.wm; split <;> rfl
@[simp] theorem wm_inbox (r : MReg) (v : Word) : (th.wm r v).inbox = th.inbox := by
  unfold Thread.wm; split <;> rfl
@[simp] theorem wm_overflow (r : MReg) (v : Word) : (th.wm r v).overflow = th.overflow := by
  unfold Thread.wm; split <;> rfl
@[simp] theorem wm_prio (r : MReg) (v : Word) : (th.wm r v).prio = th.prio := by
  unfold Thread.wm; split <;> rfl
@[simp] theorem wm_slice (r : MReg) (v : Word) : (th.wm r v).slice = th.slice := by
  unfold Thread.wm; split <;> rfl
@[simp] theorem wm_latlim (r : MReg) (v : Word) : (th.wm r v).latlim = th.latlim := by
  unfold Thread.wm; split <;> rfl
@[simp] theorem wm_sliceStart (r : MReg) (v : Word) : (th.wm r v).sliceStart = th.sliceStart := by
  unfold Thread.wm; split <;> rfl
@[simp] theorem wm_dispatched (r : MReg) (v : Word) : (th.wm r v).dispatched = th.dispatched := by
  unfold Thread.wm; split <;> rfl
@[simp] theorem wm_watch (r : MReg) (v : Word) : (th.wm r v).watch = th.watch := by
  unfold Thread.wm; split <;> rfl
@[simp] theorem wm_service (r : MReg) (v : Word) : (th.wm r v).service = th.service := by
  unfold Thread.wm; split <;> rfl
@[simp] theorem wm_task (r : MReg) (v : Word) : (th.wm r v).task = th.task := by
  unfold Thread.wm; split <;> rfl
@[simp] theorem wm_aspace (r : MReg) (v : Word) : (th.wm r v).aspace = th.aspace := by
  unfold Thread.wm; split <;> rfl
@[simp] theorem wm_cmd (r : MReg) (v : Word) : (th.wm r v).cmd = th.cmd := by
  unfold Thread.wm; split <;> rfl
@[simp] theorem wm_bp (r : MReg) (v : Word) : (th.wm r v).bp = th.bp := by
  unfold Thread.wm; split <;> rfl
@[simp] theorem wm_bpBy (r : MReg) (v : Word) : (th.wm r v).bpBy = th.bpBy := by
  unfold Thread.wm; split <;> rfl
@[simp] theorem wm_wp (r : MReg) (v : Word) : (th.wm r v).wp = th.wp := by
  unfold Thread.wm; split <;> rfl
@[simp] theorem wm_wpBy (r : MReg) (v : Word) : (th.wm r v).wpBy = th.wpBy := by
  unfold Thread.wm; split <;> rfl
@[simp] theorem wm_halted (r : MReg) (v : Word) : (th.wm r v).halted = th.halted := by
  unfold Thread.wm; split <;> rfl
@[simp] theorem wm_haltedBy (r : MReg) (v : Word) : (th.wm r v).haltedBy = th.haltedBy := by
  unfold Thread.wm; split <;> rfl
@[simp] theorem wm_halting (r : MReg) (v : Word) : (th.wm r v).halting = th.halting := by
  unfold Thread.wm; split <;> rfl
@[simp] theorem wm_skipCheck (r : MReg) (v : Word) : (th.wm r v).skipCheck = th.skipCheck := by
  unfold Thread.wm; split <;> rfl
@[simp] theorem wm_stepping (r : MReg) (v : Word) : (th.wm r v).stepping = th.stepping := by
  unfold Thread.wm; split <;> rfl
@[simp] theorem wm_mxCancelled (r : MReg) (v : Word) : (th.wm r v).mxCancelled = th.mxCancelled := by
  unfold Thread.wm; split <;> rfl
@[simp] theorem wm_mxFailed (r : MReg) (v : Word) : (th.wm r v).mxFailed = th.mxFailed := by
  unfold Thread.wm; split <;> rfl
@[simp] theorem wm_pendMx (r : MReg) (v : Word) : (th.wm r v).pendMx = th.pendMx := by
  unfold Thread.wm; split <;> rfl
@[simp] theorem wm_ending (r : MReg) (v : Word) : (th.wm r v).ending = th.ending := by
  unfold Thread.wm; split <;> rfl

@[simp] theorem wq_reuse (r : QReg) (v : Word) : (th.wq r v).reuse = th.reuse := rfl
@[simp] theorem wq_pc (r : QReg) (v : Word) : (th.wq r v).pc = th.pc := rfl
@[simp] theorem wq_x (r : QReg) (v : Word) : (th.wq r v).x = th.x := rfl
@[simp] theorem wq_f (r : QReg) (v : Word) : (th.wq r v).f = th.f := rfl
@[simp] theorem wq_v (r : QReg) (v : Word) : (th.wq r v).v = th.v := rfl
@[simp] theorem wq_m (r : QReg) (v : Word) : (th.wq r v).m = th.m := rfl
@[simp] theorem wq_k (r : QReg) (v : Word) : (th.wq r v).k = th.k := rfl
@[simp] theorem wq_fflags (r : QReg) (v : Word) : (th.wq r v).fflags = th.fflags := rfl
@[simp] theorem wq_frm (r : QReg) (v : Word) : (th.wq r v).frm = th.frm := rfl
@[simp] theorem wq_waittmo (r : QReg) (v : Word) : (th.wq r v).waittmo = th.waittmo := rfl
@[simp] theorem wq_vpred (r : QReg) (v : Word) : (th.wq r v).vpred = th.vpred := rfl
@[simp] theorem wq_cland (r : QReg) (v : Word) : (th.wq r v).cland = th.cland := rfl
@[simp] theorem wq_utvec (r : QReg) (v : Word) : (th.wq r v).utvec = th.utvec := rfl
@[simp] theorem wq_uepc (r : QReg) (v : Word) : (th.wq r v).uepc = th.uepc := rfl
@[simp] theorem wq_ucause (r : QReg) (v : Word) : (th.wq r v).ucause = th.ucause := rfl
@[simp] theorem wq_utval (r : QReg) (v : Word) : (th.wq r v).utval = th.utval := rfl
@[simp] theorem wq_voidseen (r : QReg) (v : Word) : (th.wq r v).voidseen = th.voidseen := rfl
@[simp] theorem wq_shieldn (r : QReg) (v : Word) : (th.wq r v).shieldn = th.shieldn := rfl
@[simp] theorem wq_stream (r : QReg) (v : Word) : (th.wq r v).stream = th.stream := rfl
@[simp] theorem wq_seedkey (r : QReg) (v : Word) : (th.wq r v).seedkey = th.seedkey := rfl
@[simp] theorem wq_cancel (r : QReg) (v : Word) : (th.wq r v).cancel = th.cancel := rfl
@[simp] theorem wq_armed (r : QReg) (v : Word) : (th.wq r v).armed = th.armed := rfl
@[simp] theorem wq_ver (r : QReg) (v : Word) : (th.wq r v).ver = th.ver := rfl
@[simp] theorem wq_mode (r : QReg) (v : Word) : (th.wq r v).mode = th.mode := rfl
@[simp] theorem wq_mepc (r : QReg) (v : Word) : (th.wq r v).mepc = th.mepc := rfl
@[simp] theorem wq_mie (r : QReg) (v : Word) : (th.wq r v).mie = th.mie := rfl
@[simp] theorem wq_mpie (r : QReg) (v : Word) : (th.wq r v).mpie = th.mpie := rfl
@[simp] theorem wq_mpp (r : QReg) (v : Word) : (th.wq r v).mpp = th.mpp := rfl
@[simp] theorem wq_cls (r : QReg) (v : Word) : (th.wq r v).cls = th.cls := rfl
@[simp] theorem wq_tile (r : QReg) (v : Word) : (th.wq r v).tile = th.tile := rfl
@[simp] theorem wq_loc (r : QReg) (v : Word) : (th.wq r v).loc = th.loc := rfl
@[simp] theorem wq_saving (r : QReg) (v : Word) : (th.wq r v).saving = th.saving := rfl
@[simp] theorem wq_wait (r : QReg) (v : Word) : (th.wq r v).wait = th.wait := rfl
@[simp] theorem wq_stalled (r : QReg) (v : Word) : (th.wq r v).stalled = th.stalled := rfl
@[simp] theorem wq_remoteOut (r : QReg) (v : Word) : (th.wq r v).remoteOut = th.remoteOut := rfl
@[simp] theorem wq_peer (r : QReg) (v : Word) : (th.wq r v).peer = th.peer := rfl
@[simp] theorem wq_windows (r : QReg) (v : Word) : (th.wq r v).windows = th.windows := rfl
@[simp] theorem wq_saved (r : QReg) (v : Word) : (th.wq r v).saved = th.saved := rfl
@[simp] theorem wq_savingFor (r : QReg) (v : Word) : (th.wq r v).savingFor = th.savingFor := rfl
@[simp] theorem wq_inbox (r : QReg) (v : Word) : (th.wq r v).inbox = th.inbox := rfl
@[simp] theorem wq_overflow (r : QReg) (v : Word) : (th.wq r v).overflow = th.overflow := rfl
@[simp] theorem wq_prio (r : QReg) (v : Word) : (th.wq r v).prio = th.prio := rfl
@[simp] theorem wq_slice (r : QReg) (v : Word) : (th.wq r v).slice = th.slice := rfl
@[simp] theorem wq_latlim (r : QReg) (v : Word) : (th.wq r v).latlim = th.latlim := rfl
@[simp] theorem wq_sliceStart (r : QReg) (v : Word) : (th.wq r v).sliceStart = th.sliceStart := rfl
@[simp] theorem wq_dispatched (r : QReg) (v : Word) : (th.wq r v).dispatched = th.dispatched := rfl
@[simp] theorem wq_watch (r : QReg) (v : Word) : (th.wq r v).watch = th.watch := rfl
@[simp] theorem wq_service (r : QReg) (v : Word) : (th.wq r v).service = th.service := rfl
@[simp] theorem wq_task (r : QReg) (v : Word) : (th.wq r v).task = th.task := rfl
@[simp] theorem wq_aspace (r : QReg) (v : Word) : (th.wq r v).aspace = th.aspace := rfl
@[simp] theorem wq_cmd (r : QReg) (v : Word) : (th.wq r v).cmd = th.cmd := rfl
@[simp] theorem wq_bp (r : QReg) (v : Word) : (th.wq r v).bp = th.bp := rfl
@[simp] theorem wq_bpBy (r : QReg) (v : Word) : (th.wq r v).bpBy = th.bpBy := rfl
@[simp] theorem wq_wp (r : QReg) (v : Word) : (th.wq r v).wp = th.wp := rfl
@[simp] theorem wq_wpBy (r : QReg) (v : Word) : (th.wq r v).wpBy = th.wpBy := rfl
@[simp] theorem wq_halted (r : QReg) (v : Word) : (th.wq r v).halted = th.halted := rfl
@[simp] theorem wq_haltedBy (r : QReg) (v : Word) : (th.wq r v).haltedBy = th.haltedBy := rfl
@[simp] theorem wq_halting (r : QReg) (v : Word) : (th.wq r v).halting = th.halting := rfl
@[simp] theorem wq_skipCheck (r : QReg) (v : Word) : (th.wq r v).skipCheck = th.skipCheck := rfl
@[simp] theorem wq_stepping (r : QReg) (v : Word) : (th.wq r v).stepping = th.stepping := rfl
@[simp] theorem wq_mxCancelled (r : QReg) (v : Word) : (th.wq r v).mxCancelled = th.mxCancelled := rfl
@[simp] theorem wq_mxFailed (r : QReg) (v : Word) : (th.wq r v).mxFailed = th.mxFailed := rfl
@[simp] theorem wq_pendMx (r : QReg) (v : Word) : (th.wq r v).pendMx = th.pendMx := rfl
@[simp] theorem wq_ending (r : QReg) (v : Word) : (th.wq r v).ending = th.ending := rfl

@[simp] theorem wk_reuse (r : KReg) (h : Handle) : (th.wk r h).reuse = th.reuse := rfl
@[simp] theorem wk_pc (r : KReg) (h : Handle) : (th.wk r h).pc = th.pc := rfl
@[simp] theorem wk_x (r : KReg) (h : Handle) : (th.wk r h).x = th.x := rfl
@[simp] theorem wk_f (r : KReg) (h : Handle) : (th.wk r h).f = th.f := rfl
@[simp] theorem wk_v (r : KReg) (h : Handle) : (th.wk r h).v = th.v := rfl
@[simp] theorem wk_m (r : KReg) (h : Handle) : (th.wk r h).m = th.m := rfl
@[simp] theorem wk_q (r : KReg) (h : Handle) : (th.wk r h).q = th.q := rfl
@[simp] theorem wk_fflags (r : KReg) (h : Handle) : (th.wk r h).fflags = th.fflags := rfl
@[simp] theorem wk_frm (r : KReg) (h : Handle) : (th.wk r h).frm = th.frm := rfl
@[simp] theorem wk_waittmo (r : KReg) (h : Handle) : (th.wk r h).waittmo = th.waittmo := rfl
@[simp] theorem wk_vpred (r : KReg) (h : Handle) : (th.wk r h).vpred = th.vpred := rfl
@[simp] theorem wk_cland (r : KReg) (h : Handle) : (th.wk r h).cland = th.cland := rfl
@[simp] theorem wk_utvec (r : KReg) (h : Handle) : (th.wk r h).utvec = th.utvec := rfl
@[simp] theorem wk_uepc (r : KReg) (h : Handle) : (th.wk r h).uepc = th.uepc := rfl
@[simp] theorem wk_ucause (r : KReg) (h : Handle) : (th.wk r h).ucause = th.ucause := rfl
@[simp] theorem wk_utval (r : KReg) (h : Handle) : (th.wk r h).utval = th.utval := rfl
@[simp] theorem wk_voidseen (r : KReg) (h : Handle) : (th.wk r h).voidseen = th.voidseen := rfl
@[simp] theorem wk_shieldn (r : KReg) (h : Handle) : (th.wk r h).shieldn = th.shieldn := rfl
@[simp] theorem wk_stream (r : KReg) (h : Handle) : (th.wk r h).stream = th.stream := rfl
@[simp] theorem wk_seedkey (r : KReg) (h : Handle) : (th.wk r h).seedkey = th.seedkey := rfl
@[simp] theorem wk_cancel (r : KReg) (h : Handle) : (th.wk r h).cancel = th.cancel := rfl
@[simp] theorem wk_armed (r : KReg) (h : Handle) : (th.wk r h).armed = th.armed := rfl
@[simp] theorem wk_ver (r : KReg) (h : Handle) : (th.wk r h).ver = th.ver := rfl
@[simp] theorem wk_mode (r : KReg) (h : Handle) : (th.wk r h).mode = th.mode := rfl
@[simp] theorem wk_mepc (r : KReg) (h : Handle) : (th.wk r h).mepc = th.mepc := rfl
@[simp] theorem wk_mie (r : KReg) (h : Handle) : (th.wk r h).mie = th.mie := rfl
@[simp] theorem wk_mpie (r : KReg) (h : Handle) : (th.wk r h).mpie = th.mpie := rfl
@[simp] theorem wk_mpp (r : KReg) (h : Handle) : (th.wk r h).mpp = th.mpp := rfl
@[simp] theorem wk_cls (r : KReg) (h : Handle) : (th.wk r h).cls = th.cls := rfl
@[simp] theorem wk_tile (r : KReg) (h : Handle) : (th.wk r h).tile = th.tile := rfl
@[simp] theorem wk_loc (r : KReg) (h : Handle) : (th.wk r h).loc = th.loc := rfl
@[simp] theorem wk_saving (r : KReg) (h : Handle) : (th.wk r h).saving = th.saving := rfl
@[simp] theorem wk_wait (r : KReg) (h : Handle) : (th.wk r h).wait = th.wait := rfl
@[simp] theorem wk_stalled (r : KReg) (h : Handle) : (th.wk r h).stalled = th.stalled := rfl
@[simp] theorem wk_remoteOut (r : KReg) (h : Handle) : (th.wk r h).remoteOut = th.remoteOut := rfl
@[simp] theorem wk_peer (r : KReg) (h : Handle) : (th.wk r h).peer = th.peer := rfl
@[simp] theorem wk_windows (r : KReg) (h : Handle) : (th.wk r h).windows = th.windows := rfl
@[simp] theorem wk_saved (r : KReg) (h : Handle) : (th.wk r h).saved = th.saved := rfl
@[simp] theorem wk_savingFor (r : KReg) (h : Handle) : (th.wk r h).savingFor = th.savingFor := rfl
@[simp] theorem wk_inbox (r : KReg) (h : Handle) : (th.wk r h).inbox = th.inbox := rfl
@[simp] theorem wk_overflow (r : KReg) (h : Handle) : (th.wk r h).overflow = th.overflow := rfl
@[simp] theorem wk_prio (r : KReg) (h : Handle) : (th.wk r h).prio = th.prio := rfl
@[simp] theorem wk_slice (r : KReg) (h : Handle) : (th.wk r h).slice = th.slice := rfl
@[simp] theorem wk_latlim (r : KReg) (h : Handle) : (th.wk r h).latlim = th.latlim := rfl
@[simp] theorem wk_sliceStart (r : KReg) (h : Handle) : (th.wk r h).sliceStart = th.sliceStart := rfl
@[simp] theorem wk_dispatched (r : KReg) (h : Handle) : (th.wk r h).dispatched = th.dispatched := rfl
@[simp] theorem wk_watch (r : KReg) (h : Handle) : (th.wk r h).watch = th.watch := rfl
@[simp] theorem wk_service (r : KReg) (h : Handle) : (th.wk r h).service = th.service := rfl
@[simp] theorem wk_task (r : KReg) (h : Handle) : (th.wk r h).task = th.task := rfl
@[simp] theorem wk_aspace (r : KReg) (h : Handle) : (th.wk r h).aspace = th.aspace := rfl
@[simp] theorem wk_cmd (r : KReg) (h : Handle) : (th.wk r h).cmd = th.cmd := rfl
@[simp] theorem wk_bp (r : KReg) (h : Handle) : (th.wk r h).bp = th.bp := rfl
@[simp] theorem wk_bpBy (r : KReg) (h : Handle) : (th.wk r h).bpBy = th.bpBy := rfl
@[simp] theorem wk_wp (r : KReg) (h : Handle) : (th.wk r h).wp = th.wp := rfl
@[simp] theorem wk_wpBy (r : KReg) (h : Handle) : (th.wk r h).wpBy = th.wpBy := rfl
@[simp] theorem wk_halted (r : KReg) (h : Handle) : (th.wk r h).halted = th.halted := rfl
@[simp] theorem wk_haltedBy (r : KReg) (h : Handle) : (th.wk r h).haltedBy = th.haltedBy := rfl
@[simp] theorem wk_halting (r : KReg) (h : Handle) : (th.wk r h).halting = th.halting := rfl
@[simp] theorem wk_skipCheck (r : KReg) (h : Handle) : (th.wk r h).skipCheck = th.skipCheck := rfl
@[simp] theorem wk_stepping (r : KReg) (h : Handle) : (th.wk r h).stepping = th.stepping := rfl
@[simp] theorem wk_mxCancelled (r : KReg) (h : Handle) : (th.wk r h).mxCancelled = th.mxCancelled := rfl
@[simp] theorem wk_mxFailed (r : KReg) (h : Handle) : (th.wk r h).mxFailed = th.mxFailed := rfl
@[simp] theorem wk_pendMx (r : KReg) (h : Handle) : (th.wk r h).pendMx = th.pendMx := rfl
@[simp] theorem wk_ending (r : KReg) (h : Handle) : (th.wk r h).ending = th.ending := rfl

@[simp] theorem see_reuse (bits : BitVec 6) : (th.see bits).reuse = th.reuse := rfl
@[simp] theorem see_pc (bits : BitVec 6) : (th.see bits).pc = th.pc := rfl
@[simp] theorem see_x (bits : BitVec 6) : (th.see bits).x = th.x := rfl
@[simp] theorem see_f (bits : BitVec 6) : (th.see bits).f = th.f := rfl
@[simp] theorem see_v (bits : BitVec 6) : (th.see bits).v = th.v := rfl
@[simp] theorem see_m (bits : BitVec 6) : (th.see bits).m = th.m := rfl
@[simp] theorem see_q (bits : BitVec 6) : (th.see bits).q = th.q := rfl
@[simp] theorem see_k (bits : BitVec 6) : (th.see bits).k = th.k := rfl
@[simp] theorem see_fflags (bits : BitVec 6) : (th.see bits).fflags = th.fflags := rfl
@[simp] theorem see_frm (bits : BitVec 6) : (th.see bits).frm = th.frm := rfl
@[simp] theorem see_waittmo (bits : BitVec 6) : (th.see bits).waittmo = th.waittmo := rfl
@[simp] theorem see_vpred (bits : BitVec 6) : (th.see bits).vpred = th.vpred := rfl
@[simp] theorem see_cland (bits : BitVec 6) : (th.see bits).cland = th.cland := rfl
@[simp] theorem see_utvec (bits : BitVec 6) : (th.see bits).utvec = th.utvec := rfl
@[simp] theorem see_uepc (bits : BitVec 6) : (th.see bits).uepc = th.uepc := rfl
@[simp] theorem see_ucause (bits : BitVec 6) : (th.see bits).ucause = th.ucause := rfl
@[simp] theorem see_utval (bits : BitVec 6) : (th.see bits).utval = th.utval := rfl
@[simp] theorem see_shieldn (bits : BitVec 6) : (th.see bits).shieldn = th.shieldn := rfl
@[simp] theorem see_stream (bits : BitVec 6) : (th.see bits).stream = th.stream := rfl
@[simp] theorem see_seedkey (bits : BitVec 6) : (th.see bits).seedkey = th.seedkey := rfl
@[simp] theorem see_cancel (bits : BitVec 6) : (th.see bits).cancel = th.cancel := rfl
@[simp] theorem see_armed (bits : BitVec 6) : (th.see bits).armed = th.armed := rfl
@[simp] theorem see_ver (bits : BitVec 6) : (th.see bits).ver = th.ver := rfl
@[simp] theorem see_mode (bits : BitVec 6) : (th.see bits).mode = th.mode := rfl
@[simp] theorem see_mepc (bits : BitVec 6) : (th.see bits).mepc = th.mepc := rfl
@[simp] theorem see_mie (bits : BitVec 6) : (th.see bits).mie = th.mie := rfl
@[simp] theorem see_mpie (bits : BitVec 6) : (th.see bits).mpie = th.mpie := rfl
@[simp] theorem see_mpp (bits : BitVec 6) : (th.see bits).mpp = th.mpp := rfl
@[simp] theorem see_cls (bits : BitVec 6) : (th.see bits).cls = th.cls := rfl
@[simp] theorem see_tile (bits : BitVec 6) : (th.see bits).tile = th.tile := rfl
@[simp] theorem see_loc (bits : BitVec 6) : (th.see bits).loc = th.loc := rfl
@[simp] theorem see_saving (bits : BitVec 6) : (th.see bits).saving = th.saving := rfl
@[simp] theorem see_wait (bits : BitVec 6) : (th.see bits).wait = th.wait := rfl
@[simp] theorem see_stalled (bits : BitVec 6) : (th.see bits).stalled = th.stalled := rfl
@[simp] theorem see_remoteOut (bits : BitVec 6) : (th.see bits).remoteOut = th.remoteOut := rfl
@[simp] theorem see_peer (bits : BitVec 6) : (th.see bits).peer = th.peer := rfl
@[simp] theorem see_windows (bits : BitVec 6) : (th.see bits).windows = th.windows := rfl
@[simp] theorem see_saved (bits : BitVec 6) : (th.see bits).saved = th.saved := rfl
@[simp] theorem see_savingFor (bits : BitVec 6) : (th.see bits).savingFor = th.savingFor := rfl
@[simp] theorem see_inbox (bits : BitVec 6) : (th.see bits).inbox = th.inbox := rfl
@[simp] theorem see_overflow (bits : BitVec 6) : (th.see bits).overflow = th.overflow := rfl
@[simp] theorem see_prio (bits : BitVec 6) : (th.see bits).prio = th.prio := rfl
@[simp] theorem see_slice (bits : BitVec 6) : (th.see bits).slice = th.slice := rfl
@[simp] theorem see_latlim (bits : BitVec 6) : (th.see bits).latlim = th.latlim := rfl
@[simp] theorem see_sliceStart (bits : BitVec 6) : (th.see bits).sliceStart = th.sliceStart := rfl
@[simp] theorem see_dispatched (bits : BitVec 6) : (th.see bits).dispatched = th.dispatched := rfl
@[simp] theorem see_watch (bits : BitVec 6) : (th.see bits).watch = th.watch := rfl
@[simp] theorem see_service (bits : BitVec 6) : (th.see bits).service = th.service := rfl
@[simp] theorem see_task (bits : BitVec 6) : (th.see bits).task = th.task := rfl
@[simp] theorem see_aspace (bits : BitVec 6) : (th.see bits).aspace = th.aspace := rfl
@[simp] theorem see_cmd (bits : BitVec 6) : (th.see bits).cmd = th.cmd := rfl
@[simp] theorem see_bp (bits : BitVec 6) : (th.see bits).bp = th.bp := rfl
@[simp] theorem see_bpBy (bits : BitVec 6) : (th.see bits).bpBy = th.bpBy := rfl
@[simp] theorem see_wp (bits : BitVec 6) : (th.see bits).wp = th.wp := rfl
@[simp] theorem see_wpBy (bits : BitVec 6) : (th.see bits).wpBy = th.wpBy := rfl
@[simp] theorem see_halted (bits : BitVec 6) : (th.see bits).halted = th.halted := rfl
@[simp] theorem see_haltedBy (bits : BitVec 6) : (th.see bits).haltedBy = th.haltedBy := rfl
@[simp] theorem see_halting (bits : BitVec 6) : (th.see bits).halting = th.halting := rfl
@[simp] theorem see_skipCheck (bits : BitVec 6) : (th.see bits).skipCheck = th.skipCheck := rfl
@[simp] theorem see_stepping (bits : BitVec 6) : (th.see bits).stepping = th.stepping := rfl
@[simp] theorem see_mxCancelled (bits : BitVec 6) : (th.see bits).mxCancelled = th.mxCancelled := rfl
@[simp] theorem see_mxFailed (bits : BitVec 6) : (th.see bits).mxFailed = th.mxFailed := rfl
@[simp] theorem see_pendMx (bits : BitVec 6) : (th.see bits).pendMx = th.pendMx := rfl
@[simp] theorem see_ending (bits : BitVec 6) : (th.see bits).ending = th.ending := rfl

@[simp] theorem advance_reuse : th.advance.reuse = th.reuse := rfl
@[simp] theorem advance_x : th.advance.x = th.x := rfl
@[simp] theorem advance_f : th.advance.f = th.f := rfl
@[simp] theorem advance_v : th.advance.v = th.v := rfl
@[simp] theorem advance_m : th.advance.m = th.m := rfl
@[simp] theorem advance_q : th.advance.q = th.q := rfl
@[simp] theorem advance_k : th.advance.k = th.k := rfl
@[simp] theorem advance_fflags : th.advance.fflags = th.fflags := rfl
@[simp] theorem advance_frm : th.advance.frm = th.frm := rfl
@[simp] theorem advance_waittmo : th.advance.waittmo = th.waittmo := rfl
@[simp] theorem advance_vpred : th.advance.vpred = th.vpred := rfl
@[simp] theorem advance_cland : th.advance.cland = th.cland := rfl
@[simp] theorem advance_utvec : th.advance.utvec = th.utvec := rfl
@[simp] theorem advance_uepc : th.advance.uepc = th.uepc := rfl
@[simp] theorem advance_ucause : th.advance.ucause = th.ucause := rfl
@[simp] theorem advance_utval : th.advance.utval = th.utval := rfl
@[simp] theorem advance_voidseen : th.advance.voidseen = th.voidseen := rfl
@[simp] theorem advance_shieldn : th.advance.shieldn = th.shieldn := rfl
@[simp] theorem advance_stream : th.advance.stream = th.stream := rfl
@[simp] theorem advance_seedkey : th.advance.seedkey = th.seedkey := rfl
@[simp] theorem advance_cancel : th.advance.cancel = th.cancel := rfl
@[simp] theorem advance_armed : th.advance.armed = th.armed := rfl
@[simp] theorem advance_ver : th.advance.ver = th.ver := rfl
@[simp] theorem advance_mode : th.advance.mode = th.mode := rfl
@[simp] theorem advance_mepc : th.advance.mepc = th.mepc := rfl
@[simp] theorem advance_mie : th.advance.mie = th.mie := rfl
@[simp] theorem advance_mpie : th.advance.mpie = th.mpie := rfl
@[simp] theorem advance_mpp : th.advance.mpp = th.mpp := rfl
@[simp] theorem advance_cls : th.advance.cls = th.cls := rfl
@[simp] theorem advance_tile : th.advance.tile = th.tile := rfl
@[simp] theorem advance_loc : th.advance.loc = th.loc := rfl
@[simp] theorem advance_saving : th.advance.saving = th.saving := rfl
@[simp] theorem advance_wait : th.advance.wait = th.wait := rfl
@[simp] theorem advance_remoteOut : th.advance.remoteOut = th.remoteOut := rfl
@[simp] theorem advance_windows : th.advance.windows = th.windows := rfl
@[simp] theorem advance_saved : th.advance.saved = th.saved := rfl
@[simp] theorem advance_savingFor : th.advance.savingFor = th.savingFor := rfl
@[simp] theorem advance_inbox : th.advance.inbox = th.inbox := rfl
@[simp] theorem advance_overflow : th.advance.overflow = th.overflow := rfl
@[simp] theorem advance_prio : th.advance.prio = th.prio := rfl
@[simp] theorem advance_slice : th.advance.slice = th.slice := rfl
@[simp] theorem advance_latlim : th.advance.latlim = th.latlim := rfl
@[simp] theorem advance_sliceStart : th.advance.sliceStart = th.sliceStart := rfl
@[simp] theorem advance_dispatched : th.advance.dispatched = th.dispatched := rfl
@[simp] theorem advance_watch : th.advance.watch = th.watch := rfl
@[simp] theorem advance_service : th.advance.service = th.service := rfl
@[simp] theorem advance_task : th.advance.task = th.task := rfl
@[simp] theorem advance_aspace : th.advance.aspace = th.aspace := rfl
@[simp] theorem advance_cmd : th.advance.cmd = th.cmd := rfl
@[simp] theorem advance_bp : th.advance.bp = th.bp := rfl
@[simp] theorem advance_bpBy : th.advance.bpBy = th.bpBy := rfl
@[simp] theorem advance_wp : th.advance.wp = th.wp := rfl
@[simp] theorem advance_wpBy : th.advance.wpBy = th.wpBy := rfl
@[simp] theorem advance_halted : th.advance.halted = th.halted := rfl
@[simp] theorem advance_haltedBy : th.advance.haltedBy = th.haltedBy := rfl
@[simp] theorem advance_halting : th.advance.halting = th.halting := rfl
@[simp] theorem advance_skipCheck : th.advance.skipCheck = false := rfl
@[simp] theorem advance_stepping : th.advance.stepping = th.stepping := rfl
@[simp] theorem advance_mxCancelled : th.advance.mxCancelled = th.mxCancelled := rfl
@[simp] theorem advance_mxFailed : th.advance.mxFailed = th.mxFailed := rfl
@[simp] theorem advance_pendMx : th.advance.pendMx = th.pendMx := rfl
@[simp] theorem advance_ending : th.advance.ending = th.ending := rfl
@[simp] theorem advance_pc : th.advance.pc = th.pc + 4 := rfl
@[simp] theorem advance_stalled : th.advance.stalled = false := rfl
@[simp] theorem advance_peer : th.advance.peer = [] := rfl

end Registers

end Thread

end Sys2Proof.Machine
end

