-- ==== Sys2Proof/Laws/Ops.lean ====
section
/-! SUPPORT. What the shared operations of Machine/Ops.lean do, said once. -/

namespace Sys2Proof.Machine

namespace State

@[simp] theorem thread?_setTh_self (s : State) (t : Nat) (th : Thread) : (s.setTh t th).thread? t = some th :=
  tfind_tset_self ..
@[simp] theorem thread?_setTh_ne (s : State) {t u : Nat} (th : Thread) (h : u ≠ t) :
    (s.setTh t th).thread? u = s.thread? u := tfind_tset_ne _ _ h
@[simp] theorem thread?_done_self (s : State) (t : Nat) (th : Thread) :
    (s.done t th).thread? t = some th.advance := tfind_tset_self ..
@[simp] theorem thread?_done_ne (s : State) {t u : Nat} (th : Thread) (h : u ≠ t) :
    (s.done t th).thread? u = s.thread? u := tfind_tset_ne _ _ h
@[simp] theorem tile_setTile_self (s : State) (l : Nat) (x : Tile) : (s.setTile l x).tile l = x := by
  simp [tile, setTile]
@[simp] theorem tile_setTile_ne (s : State) {l k : Nat} (x : Tile) (h : k ≠ l) :
    (s.setTile l x).tile k = s.tile k := by simp [tile, setTile, h]
@[simp] theorem cluster_setCluster_self (s : State) (l : Nat) (x : Cluster) :
    (s.setCluster l x).cluster l = x := by simp [cluster, setCluster]
@[simp] theorem cluster_setCluster_ne (s : State) {l k : Nat} (x : Cluster) (h : k ≠ l) :
    (s.setCluster l x).cluster k = s.cluster k := by simp [cluster, setCluster, h]
@[simp] theorem die_setDie_self (s : State) (l : Nat) (x : Die) : (s.setDie l x).die l = x := by
  simp [die, setDie]
@[simp] theorem die_setDie_ne (s : State) {l k : Nat} (x : Die) (h : k ≠ l) :
    (s.setDie l x).die k = s.die k := by simp [die, setDie, h]
@[simp] theorem func_setFunc_self (s : State) (f : Nat) (x : Func) : (s.setFunc f x).func f = x := by
  simp [func, setFunc]
@[simp] theorem func_setFunc_ne (s : State) {f g : Nat} (x : Func) (h : g ≠ f) :
    (s.setFunc f x).func g = s.func g := by simp [func, setFunc, h]
@[simp] theorem queue_setQueue_self (s : State) (q : Nat) (x : Queue) : (s.setQueue q x).queue q = x := by
  simp [queue, setQueue]
@[simp] theorem queue_setQueue_ne (s : State) {q r : Nat} (x : Queue) (h : r ≠ q) :
    (s.setQueue q x).queue r = s.queue r := by simp [queue, setQueue, h]

end State

namespace Thread

@[simp] theorem rx_zero (th : Thread) : th.rx 0 = ⟨0, false⟩ := rfl
@[simp] theorem wx_zero (th : Thread) (v : VWord 64) : th.wx 0 v = th := rfl
theorem rx_wx (th : Thread) (r q : XReg) (v : VWord 64) :
    (th.wx r v).rx q = if q = 0 then ⟨0, false⟩ else if q = r then v else th.rx q := by
  unfold rx wx
  by_cases hq : q = 0
  · simp [hq]
  · simp only [hq, if_false]
    by_cases hr : r = 0
    · subst hr; simp only [hq, if_true, if_false]
    · simp only [hr, if_false, Vector.getElem_set]
      by_cases e : q = r
      · subst e; simp
      · have : r.toNat ≠ q.toNat := fun h => e (BitVec.eq_of_toNat_eq h.symm)
        simp [e, this]
theorem rf_wf (th : Thread) (r q : FReg) (v : VWord 32) :
    (th.wf r v).rf q = if q = r then v else th.rf q := by
  unfold rf wf
  simp only [Vector.getElem_set]
  by_cases e : q = r
  · subst e; simp
  · have : r.toNat ≠ q.toNat := fun h => e (BitVec.eq_of_toNat_eq h.symm)
    simp [e, this]
theorem rv_wv (th : Thread) (r q : VReg) (v : Vector (VWord 32) 64) :
    (th.wv r v).rv q = if q = r then v else th.rv q := by
  unfold rv wv
  simp only [Vector.getElem_set]
  by_cases e : q = r
  · subst e; simp
  · have : r.toNat ≠ q.toNat := fun h => e (BitVec.eq_of_toNat_eq h.symm)
    simp [e, this]
theorem rq_wq (th : Thread) (r q : QReg) (v : Word) :
    (th.wq r v).rq q = if q = r then v else th.rq q := by
  unfold rq wq
  simp only [Vector.getElem_set]
  by_cases e : q = r
  · subst e; simp
  · have : r.toNat ≠ q.toNat := fun h => e (BitVec.eq_of_toNat_eq h.symm)
    simp [e, this]
theorem rk_wk (th : Thread) (r q : KReg) (v : Handle) :
    (th.wk r v).rk q = if q = r then v else th.rk q := by
  unfold rk wk
  simp only [Vector.getElem_set]
  by_cases e : q = r
  · subst e; simp
  · have : r.toNat ≠ q.toNat := fun h => e (BitVec.eq_of_toNat_eq h.symm)
    simp [e, this]
theorem rm_wm (th : Thread) (r q : MReg) (v : Word) :
    (th.wm r v).rm q = if q = 0 then BitVec.allOnes 64 else if q = r then v else th.rm q := by
  unfold rm wm
  by_cases hq : q = 0
  · simp [hq]
  · simp only [hq, if_false]
    by_cases hr : r = 0
    · subst hr; simp only [hq, if_true, if_false]
    · simp only [hr, if_false, Vector.getElem_set]
      by_cases e : q = r
      · subst e; simp
      · have : r.toNat ≠ q.toNat := fun h => e (BitVec.eq_of_toNat_eq h.symm)
        simp [e, this]

end Thread

namespace State

/-! While no clock step stalls a link, none holds anything back. -/

theorem treeHeld_of_still {s : State} (h : s.anyStall = false) (d sid : Nat) : s.treeHeld d sid = false := by
  simp [treeHeld, h]
theorem othersHeld_of_still {s : State} (h : s.anyStall = false) (d sid tid : Nat) :
    s.othersHeld d sid tid = false := by simp [othersHeld, h]
theorem mapHeld_of_still {s : State} (h : s.anyStall = false) (l : Nat) : s.mapHeld l = false := by
  simp [mapHeld, h]
theorem haltFar_of_still {s : State} (h : s.anyStall = false) (d sid : Nat) : s.haltFar d sid = false := by
  simp [haltFar, h]
/-- A fault leads to its own state, or a link holds back one that ends its thread. -/
theorem orHeld_cases (s s' : State) (t : Nat) (th : Thread) (alt : State) :
    s.orHeld s' t th alt = s' ∨ (s.endsHeld s' t th = true ∧ s.orHeld s' t th alt = alt) := by
  unfold orHeld; split <;> simp_all
/-- What leaves the thread running waits for no link. -/
theorem orHeld_of_live {s s' : State} {t : Nat} {th x : Thread} {alt : State} (h : s'.thread? t = some x)
    (hx : x.ending = false) : s.orHeld s' t th alt = s' := by simp [orHeld, endsHeld, h, hx]

end State

/-- A meaning of the current thread's instruction answers a next state. -/
theorem withTh_of {s : State} {t : Nat} {th : Thread} (hc : s.cur = some t) (ht : s.thread? t = some th)
    (k : Nat → Thread → State) : withTh s k = .next (k t th) := by
  unfold withTh; rw [hc]; dsimp only; rw [ht]

/-- What a meaning answers, and when it faults. -/
theorem withTh_cases {s s' : State} {k : Nat → Thread → State} (h : withTh s k = .next s') :
    ∃ t th, s.cur = some t ∧ s.thread? t = some th ∧ s' = k t th := by
  unfold withTh at h
  split at h
  · cases h
  · rename_i t hc
    split at h
    · cases h
    · rename_i th ht
      cases h
      exact ⟨t, th, hc, ht, rfl⟩

end Sys2Proof.Machine
end

