-- ==== Sys2Proof/Laws/Words.lean ====
section
/-! SUPPORT. The words of the statements in terms of the shared operations, and what the operations that many
instructions share can do: the two arithmetic forms, a cancellation point, a compute-core guard. -/

namespace Sys2Proof.Machine

theorem goesOn_eq (s : State) (t : Nat) (th : Thread) : goesOn s t th = .next (s.done t th) := rfl
theorem voidsX_eq (s : State) (t : Nat) (th : Thread) (rd : XReg) (bits : BitVec 6) :
    voidsX s t th rd bits = .next (s.nullifyX t th rd bits) := by
  unfold voidsX State.nullifyX Thread.see; rw [goesOn_eq]; simp [VWord.voidword]
theorem voids_eq (s : State) (t : Nat) (th : Thread) (bits : BitVec 6) :
    voids s t th bits = .next (s.nullify t th bits) := rfl
theorem divertsTo_eq (s : State) (t : Nat) (th : Thread) : divertsTo s t th = .next (s.divert t th) := rfl
theorem stallsHere_eq (s : State) (t : Nat) (th : Thread) : stallsHere s t th = .next (s.stall t th) := rfl
theorem seen_eq (th : Thread) : State.pointSeen th = seen th := rfl

/-- A meaning of the executing thread's instruction answers what its body gives. -/
theorem Executing.run {s : State} {t : Nat} {th : Thread} (h : Executing s t th) (k : Nat → Thread → State) :
    withTh s k = .next (k t th) := withTh_of h.1 h.2 k

/-- A cancellation point that does not divert goes on, and one that diverts does nothing else. -/
theorem point_go {s : State} {th : Thread} (h : s.diverts th = false) (t : Nat) (k : Thread → State) :
    s.point t th k = k (seen th) := by unfold State.point; rw [h]; rfl
theorem point_div {s : State} {th : Thread} (h : s.diverts th = true) (t : Nat) (k : Thread → State) :
    s.point t th k = s.divert t th := by unfold State.point; rw [h]; rfl

section Arithmetic
variable {s : State} {t : Nat} {th : Thread} (h : Executing s t th) (rd rs1 rs2 : XReg)
include h

theorem aluRR_ok (f : Word → Word → Word) (ha : (th.rx rs1).void = false) (hb : (th.rx rs2).void = false) :
    aluRR rd rs1 rs2 f s = goesOn s t (th.wx rd (.of (f (th.rx rs1).val (th.rx rs2).val))) := by
  unfold aluRR; rw [h.run, goesOn_eq]; simp [ha, hb]
theorem aluRR_void (f : Word → Word → Word) (hv : (th.rx rs1).void = true ∨ (th.rx rs2).void = true) :
    aluRR rd rs1 rs2 f s = voidsX s t th rd 1 := by
  unfold aluRR; rw [h.run, voidsX_eq]
  have : ((th.rx rs1).void || (th.rx rs2).void) = true := by simpa using hv
  simp [this, sawProp]
theorem aluRI_ok (f : Word → Word) (ha : (th.rx rs1).void = false) :
    aluRI rd rs1 f s = goesOn s t (th.wx rd (.of (f (th.rx rs1).val))) := by
  unfold aluRI; rw [h.run, goesOn_eq]; simp [ha]
theorem aluRI_void (f : Word → Word) (hv : (th.rx rs1).void = true) :
    aluRI rd rs1 f s = voidsX s t th rd 1 := by
  unfold aluRI; rw [h.run, voidsX_eq]; simp [hv, sawProp]

end Arithmetic

end Sys2Proof.Machine
end

