-- ==== Sys2Proof/Laws/Access.lean ====
section
/-! SUPPORT. Reading and writing numbers in memory, and what loads and stores of a thread can do (R1, R165). -/

namespace Sys2Proof.Machine

/-! ### Little-endian numbers -/

theorem leNat_map (f : Nat → Byte) (n : Nat) :
    leNat ((List.range n).map f) = ((List.range n).map (fun i => (f i).toNat * 256 ^ i)).sum := by
  induction n generalizing f with
  | zero => rfl
  | succ n ih =>
    rw [List.range_succ_eq_map, List.map_cons, List.map_map, leNat, ih, List.map_cons, List.map_map, List.sum_cons]
    simp only [pow_zero, mul_one, Function.comp_def, Nat.succ_eq_add_one, pow_succ]
    rw [← List.sum_map_mul_left]; congr 1; congr 1; apply List.map_congr_left; intro i _; ring
/-- A number read is the sum of its bytes. -/
theorem numAt_eq {s : State} (h : s.memOk) (a n : Nat) : s.numAt a n = leAt s a n := by
  unfold State.numAt State.bytesAt
  rw [Memory.reads_eq ((Memory.wf_iff _).1 h), leNat_map]; rfl
theorem leBytes_length (n v : Nat) : (leBytes n v).length = n := by
  induction n generalizing v with
  | zero => rfl
  | succ n ih => simp [leBytes, ih]
theorem leBytes_get (n v i : Nat) (h : i < n) :
    (leBytes n v)[i]'(by rw [leBytes_length]; exact h) = BitVec.ofNat 8 (v / 256 ^ i) := by
  induction n generalizing v i with
  | zero => omega
  | succ n ih =>
    cases i with
    | zero => simp [leBytes]
    | succ i =>
      simp only [leBytes, List.getElem_cons_succ]
      rw [ih _ _ (by omega), Nat.div_div_eq_div_mul, pow_succ, Nat.mul_comm]
/-- What writing a number leaves in memory. -/
theorem putNum_stored {s : State} (h : s.memOk) (x n v : Nat) : Stored s (s.putNum x n v) x n v := by
  have ho := (Memory.wf_iff _).1 h
  refine ⟨rfl, Memory.write_wf h _ _, fun a => ?_⟩
  show Memory.read (Memory.write s.mem x (leBytes n v)) a = _
  split
  · have := Memory.read_write_in ho x (leBytes n v) (a - x) (by rw [leBytes_length]; omega)
    rw [show x + (a - x) = a by omega] at this
    rw [this, leBytes_get _ _ _ (by omega)]
  · exact Memory.read_write_out ho _ _ _ (by rw [leBytes_length]; omega)

theorem signExtend_eq (imm : BitVec 12) : BitVec.ofInt 64 imm.toInt = imm.signExtend 64 := by
  simp [BitVec.signExtend]

/-! ### The page an access touches keeps memory in its form -/

theorem logDirty_memOk {s : State} (h : s.memOk) (as va : Nat) : (s.logDirty as va).memOk := by
  unfold State.logDirty
  split
  · exact Memory.write_wf h _ _
  · exact h
theorem touch_memOk {s : State} (h : s.memOk) (l as va : Nat) (st : Bool) : (s.touch l as va st).memOk := by
  unfold State.touch
  split
  · exact h
  split
  · exact h
  split
  · dsimp only
    split
    · refine logDirty_memOk ?_ as _
      split
      · exact Memory.write_wf h _ _
      · exact h
    · exact h
  · split <;> exact h
theorem touched_memOk {s : State} (h : s.memOk) (th : Thread) (st : Bool) (vas : List Word) :
    (s.touched th st vas).memOk := by
  unfold State.touched
  induction vas generalizing s with
  | nil => exact h
  | cons va vas ih => exact ih (touch_memOk h ..)

/-! ### Loads and stores -/

/-- The first check of R165: no misaligned access goes further. -/
theorem access_misaligned (s : State) (th : Thread) (va : Word) (n : Nat) (u : Use) (k : Kind) (d : Option Word)
    (hn : va.toNat % n ≠ 0) : s.access th va n u k d = .error (.trap (if u = .store then 6 else 4) va) := by
  unfold State.access; simp [hn]
theorem readVal_loc {s : State} {th : Thread} {va : Word} {n x : Nat} {k : Kind}
    (h : s.access th va n .load k = .ok (.loc x)) : s.readVal th va n k = .ok (s.numAt x n) := by
  unfold State.readVal; rw [h]; rfl
theorem readVal_err {s : State} {th : Thread} {va : Word} {n : Nat} {k : Kind} {e : Stop}
    (h : s.access th va n .load k = .error e) : s.readVal th va n k = .error e := by
  unfold State.readVal; rw [h]; rfl

section Forms
variable {s : State} {t : Nat} {th : Thread} (h : Executing s t th)
include h

/-- What a base load can do. -/
theorem load_cases (rd rs1 : XReg) (imm : BitVec 12) (n : Nat) (ext : Nat → Word) :
    let va := (th.rx rs1).val + BitVec.ofInt 64 imm.toInt
    ((th.rx rs1).void = true → load rd rs1 imm n ext s = voidsX s t th rd 3) ∧
    ((th.rx rs1).void = false →
      (∀ v, s.readVal th va n .base = .ok v →
        load rd rs1 imm n ext s = goesOn (s.touched th false [va]) t (th.wx rd (.of (ext v)))) ∧
      (∀ e, s.readVal th va n .base = .error e → load rd rs1 imm n ext s = .next (s.stop t th e))) := by
  intro va
  have hva : va = (th.rx rs1).val + imm.signExtend 64 := by rw [← signExtend_eq]
  unfold load; rw [h.run]
  refine ⟨fun hv => ?_, fun hv => ⟨fun v hr => ?_, fun e hr => ?_⟩⟩
  · rw [voidsX_eq]; simp [hv, sawProp, sawMem]
  · rw [hva] at hr; simp only [hv, Bool.false_eq_true, if_false, hr, goesOn_eq, hva]
  · rw [hva] at hr; simp only [hv, Bool.false_eq_true, if_false, hr]
/-- What an LDA can do. -/
theorem lda_cases (rd rs1 : XReg) (r : Reach) (z : Size) :
    let va := (th.rx rs1).val
    ((th.rx rs1).void = true → execLda r z rd rs1 s = voidsX s t th rd 3) ∧
    ((th.rx rs1).void = false →
      (∀ v, s.readVal th va z.bytes .base = .ok v → execLda r z rd rs1 s =
        goesOn (s.touched th false [va]) t (th.wx rd (.of (sextN (8 * z.bytes) v)))) ∧
      (∀ e, s.readVal th va z.bytes .base = .error e → execLda r z rd rs1 s = .next (s.stop t th e))) := by
  intro va
  unfold execLda; rw [h.run]
  refine ⟨fun hv => ?_, fun hv => ⟨fun v hr => ?_, fun e hr => ?_⟩⟩
  · rw [voidsX_eq]; simp [hv, sawProp, sawMem]
  · simp only [hv, Bool.false_eq_true, if_false, goesOn_eq]; simp only [va] at hr; rw [hr]
  · simp only [hv, Bool.false_eq_true, if_false]; simp only [va] at hr; rw [hr]
/-- What a base store can do. -/
theorem store_cases (hm : s.memOk) (rs1 rs2 : XReg) (imm : BitVec 12) (n : Nat) :
    let va := (th.rx rs1).val + BitVec.ofInt 64 imm.toInt
    ((th.rx rs1).void = true ∨ (th.rx rs2).void = true → store rs1 rs2 imm n s = voids s t th 2) ∧
    ((th.rx rs1).void = false → (th.rx rs2).void = false →
      (∀ x, s.access th va n .store .base (some (th.rx rs2).val) = .ok (.loc x) →
        ∃ s', Stored (s.touched th true [va]) s' x n (th.rx rs2).val.toNat ∧ store rs1 rs2 imm n s = goesOn s' t th) ∧
      (∀ c v, s.access th va n .store .base (some (th.rx rs2).val) = .error (.trap c v) →
        store rs1 rs2 imm n s = .next (s.trap t th c v))) := by
  intro va
  have hva : va = (th.rx rs1).val + imm.signExtend 64 := by rw [← signExtend_eq]
  unfold store; rw [h.run]
  refine ⟨fun hv => ?_, fun hv hv2 => ⟨fun v hr => ?_, fun c v hr => ?_⟩⟩
  · rw [voids_eq]
    have : ((th.rx rs1).void || (th.rx rs2).void) = true := by simpa using hv
    simp [this, sawMem]
  · rw [hva] at hr
    refine ⟨(s.touched th true [va]).putNum v n (th.rx rs2).val.toNat, putNum_stored (touch_memOk hm ..) _ _ _, ?_⟩
    simp only [hv, hv2, Bool.or_self, Bool.false_eq_true, if_false, hr, goesOn_eq, State.performWrite]; rw [hva]; rfl
  · rw [hva] at hr; simp only [hv, hv2, Bool.or_self, Bool.false_eq_true, if_false, hr]; rfl
/-- What an STL can do. -/
theorem stl_cases (hm : s.memOk) (r : Reach) (z : Size) (rs1 rs2 : XReg) :
    let va := (th.rx rs1).val
    ((th.rx rs1).void = true ∨ (th.rx rs2).void = true → execStl r z rs1 rs2 s = voids s t th 2) ∧
    ((th.rx rs1).void = false → (th.rx rs2).void = false →
      (∀ x, s.access th va z.bytes .store .base (some (th.rx rs2).val) = .ok (.loc x) →
        (s.releaseHeld (Reach.num r) = true → execStl r z rs1 rs2 s = stallsHere s t th) ∧
        (s.releaseHeld (Reach.num r) = false →
          ∃ s', Stored (s.touched th true [va]) s' x z.bytes (th.rx rs2).val.toNat ∧
            execStl r z rs1 rs2 s = goesOn s' t th)) ∧
      (∀ c v, s.access th va z.bytes .store .base (some (th.rx rs2).val) = .error (.trap c v) →
        execStl r z rs1 rs2 s = .next (s.trap t th c v))) := by
  intro va
  unfold execStl; rw [h.run]
  refine ⟨fun hv => ?_, fun hv hv2 => ⟨fun v hr => ?_, fun c v hr => ?_⟩⟩
  · rw [voids_eq]
    have : ((th.rx rs1).void || (th.rx rs2).void) = true := by simpa using hv
    simp [this, sawMem]
  · simp only [va] at hr
    refine ⟨fun hh => ?_, fun hh => ⟨(s.touched th true [va]).putNum v z.bytes (th.rx rs2).val.toNat,
      putNum_stored (touch_memOk hm ..) _ _ _, ?_⟩⟩
    · simp only [hv, hv2, Bool.or_self, Bool.false_eq_true, if_false, hr, hh, if_true, stallsHere_eq]
    · simp only [hv, hv2, Bool.or_self, Bool.false_eq_true, if_false, hr, hh, goesOn_eq, State.performWrite]; rfl
  · simp only [va] at hr; simp only [hv, hv2, Bool.or_self, Bool.false_eq_true, if_false, hr]; rfl

end Forms

end Sys2Proof.Machine
end

