-- ==== Sys2Proof/Laws/Arith.lean ====
section
/-! SUPPORT. The scalar arithmetic of the model as exact arithmetic on numbers, narrowed at the end (R140). -/

namespace Sys2Proof.Machine

variable {n : Nat} (a b : BitVec n)

theorem add_ofNat (a b : Word) : a + b = BitVec.ofNat 64 (a.toNat + b.toNat) := by
  apply BitVec.eq_of_toNat_eq; simp [BitVec.toNat_add]
theorem add_ofInt : a + b = BitVec.ofInt n (a.toInt + b.toInt) := by
  rw [← BitVec.toInt_inj]; simp [BitVec.toInt_add]
theorem sub_ofInt : a - b = BitVec.ofInt n (a.toInt - b.toInt) := by
  rw [← BitVec.toInt_inj]; simp [BitVec.toInt_sub]
theorem mul_ofInt : a * b = BitVec.ofInt n (a.toInt * b.toInt) := by
  rw [← BitVec.toInt_inj]; simp [BitVec.toInt_mul]
theorem shl_ofNat (k : Nat) : a <<< k = BitVec.ofNat n (a.toNat * 2 ^ k) := by
  apply BitVec.eq_of_toNat_eq; simp [BitVec.toNat_shiftLeft, Nat.shiftLeft_eq]
theorem shr_ofNat (k : Nat) : a >>> k = BitVec.ofNat n (a.toNat / 2 ^ k) := by
  apply BitVec.eq_of_toNat_eq
  rw [BitVec.toNat_ushiftRight, Nat.shiftRight_eq_div_pow, BitVec.toNat_ofNat, Nat.mod_eq_of_lt]
  exact Nat.lt_of_le_of_lt (Nat.div_le_self _ _) a.isLt
theorem sar_ofInt (k : Nat) : a.sshiftRight k = BitVec.ofInt n (a.toInt / 2 ^ k) := by
  rw [BitVec.sshiftRight]; congr 1
  rw [Int.shiftRight_eq_div_pow]; simp
theorem boolW_slt : boolW (a.slt b) = if a.toInt < b.toInt then 1 else 0 := by
  unfold boolW BitVec.slt; simp
theorem boolW_ult : boolW (a.ult b) = if a.toNat < b.toNat then 1 else 0 := by
  unfold boolW BitVec.ult; simp
theorem mulHigh_ofInt (p : Int) : mulHigh p = BitVec.ofInt 64 (p / 2 ^ 64) := by
  unfold mulHigh; congr 1; rw [Int.shiftRight_eq_div_pow]; norm_cast
theorem eq_zero_iff : b = 0#n ↔ b.toNat = 0 := by
  constructor
  · rintro rfl; simp
  · intro h; apply BitVec.eq_of_toNat_eq; simpa using h
theorem ofInt_neg_one : BitVec.ofInt n (-1) = BitVec.allOnes n := by
  rw [BitVec.ofInt_neg, ← BitVec.neg_one_eq_allOnes]; rfl
theorem divS_ofInt :
    divS a b = if b.toNat = 0 then BitVec.ofInt n (-1) else BitVec.ofInt n (a.toInt.tdiv b.toInt) := by
  have : BitVec.ofInt n (-1) = BitVec.allOnes n := ofInt_neg_one
  unfold divS; rw [this]; exact if_congr (eq_zero_iff b) rfl rfl
theorem remS_ofInt : remS a b = if b.toNat = 0 then a else BitVec.ofInt n (a.toInt.tmod b.toInt) := by
  unfold remS; exact if_congr (eq_zero_iff b) rfl rfl
theorem divU_ofNat :
    divU a b = if b.toNat = 0 then BitVec.ofInt n (-1) else BitVec.ofNat n (a.toNat / b.toNat) := by
  have : BitVec.ofInt n (-1) = BitVec.allOnes n := ofInt_neg_one
  unfold divU; rw [this]
  refine if_congr (eq_zero_iff b) rfl ?_
  apply BitVec.eq_of_toNat_eq
  rw [BitVec.toNat_udiv, BitVec.toNat_ofNat, Nat.mod_eq_of_lt]
  exact Nat.lt_of_le_of_lt (Nat.div_le_self _ _) a.isLt
theorem remU_ofNat : remU a b = if b.toNat = 0 then a else BitVec.ofNat n (a.toNat % b.toNat) := by
  unfold remU
  refine if_congr (eq_zero_iff b) rfl ?_
  apply BitVec.eq_of_toNat_eq
  rw [BitVec.toNat_umod, BitVec.toNat_ofNat]
  exact (Nat.mod_eq_of_lt (Nat.lt_of_le_of_lt (Nat.mod_le _ _) a.isLt)).symm
theorem ofNat_eq_ofInt (m : Nat) : BitVec.ofNat n m = BitVec.ofInt n (m : Int) := by simp

end Sys2Proof.Machine
end

