-- ==== Sys2Proof/Laws/Fields.lean ====
section
/-! SUPPORT. The fields of a word that was put together from fields (R123, R124). -/

namespace Sys2Proof

section LayoutR
variable (f7 : BitVec 7) (b a : BitVec 5) (f3 : BitVec 3) (d : BitVec 5) (op : BitVec 7)
@[simp] theorem fOp_mkR : fOp (mkR f7 b a f3 d op) = op := by
  unfold fOp mkR; ext i hi
  simp only [BitVec.getElem_extractLsb', BitVec.getLsbD_extractLsb', BitVec.getLsbD_append, BitVec.getElem_append]
  grind
@[simp] theorem fRd_mkR : fRd (mkR f7 b a f3 d op) = d := by
  unfold fRd mkR; ext i hi
  simp only [BitVec.getElem_extractLsb', BitVec.getLsbD_extractLsb', BitVec.getLsbD_append, BitVec.getElem_append]
  grind
@[simp] theorem fF3_mkR : fF3 (mkR f7 b a f3 d op) = f3 := by
  unfold fF3 mkR; ext i hi
  simp only [BitVec.getElem_extractLsb', BitVec.getLsbD_extractLsb', BitVec.getLsbD_append, BitVec.getElem_append]
  grind
@[simp] theorem fRs1_mkR : fRs1 (mkR f7 b a f3 d op) = a := by
  unfold fRs1 mkR; ext i hi
  simp only [BitVec.getElem_extractLsb', BitVec.getLsbD_extractLsb', BitVec.getLsbD_append, BitVec.getElem_append]
  grind
@[simp] theorem fRs2_mkR : fRs2 (mkR f7 b a f3 d op) = b := by
  unfold fRs2 mkR; ext i hi
  simp only [BitVec.getElem_extractLsb', BitVec.getLsbD_extractLsb', BitVec.getLsbD_append, BitVec.getElem_append]
  grind
@[simp] theorem fF7_mkR : fF7 (mkR f7 b a f3 d op) = f7 := by
  unfold fF7 mkR; ext i hi
  simp only [BitVec.getElem_extractLsb', BitVec.getLsbD_extractLsb', BitVec.getLsbD_append, BitVec.getElem_append]
  grind
end LayoutR

section LayoutR4
variable (c : BitVec 5) (f2 : BitVec 2) (b a : BitVec 5) (f3 : BitVec 3) (d : BitVec 5) (op : BitVec 7)
@[simp] theorem fOp_mkR4 : fOp (mkR4 c f2 b a f3 d op) = op := by
  unfold fOp mkR4; ext i hi
  simp only [BitVec.getElem_extractLsb', BitVec.getLsbD_extractLsb', BitVec.getLsbD_append, BitVec.getElem_append]
  grind
@[simp] theorem fRd_mkR4 : fRd (mkR4 c f2 b a f3 d op) = d := by
  unfold fRd mkR4; ext i hi
  simp only [BitVec.getElem_extractLsb', BitVec.getLsbD_extractLsb', BitVec.getLsbD_append, BitVec.getElem_append]
  grind
@[simp] theorem fF3_mkR4 : fF3 (mkR4 c f2 b a f3 d op) = f3 := by
  unfold fF3 mkR4; ext i hi
  simp only [BitVec.getElem_extractLsb', BitVec.getLsbD_extractLsb', BitVec.getLsbD_append, BitVec.getElem_append]
  grind
@[simp] theorem fRs1_mkR4 : fRs1 (mkR4 c f2 b a f3 d op) = a := by
  unfold fRs1 mkR4; ext i hi
  simp only [BitVec.getElem_extractLsb', BitVec.getLsbD_extractLsb', BitVec.getLsbD_append, BitVec.getElem_append]
  grind
@[simp] theorem fRs2_mkR4 : fRs2 (mkR4 c f2 b a f3 d op) = b := by
  unfold fRs2 mkR4; ext i hi
  simp only [BitVec.getElem_extractLsb', BitVec.getLsbD_extractLsb', BitVec.getLsbD_append, BitVec.getElem_append]
  grind
@[simp] theorem fF2_mkR4 : fF2 (mkR4 c f2 b a f3 d op) = f2 := by
  unfold fF2 mkR4; ext i hi
  simp only [BitVec.getElem_extractLsb', BitVec.getLsbD_extractLsb', BitVec.getLsbD_append, BitVec.getElem_append]
  grind
@[simp] theorem fRs3_mkR4 : fRs3 (mkR4 c f2 b a f3 d op) = c := by
  unfold fRs3 mkR4; ext i hi
  simp only [BitVec.getElem_extractLsb', BitVec.getLsbD_extractLsb', BitVec.getLsbD_append, BitVec.getElem_append]
  grind
end LayoutR4

section LayoutI
variable (m : BitVec 12) (a : BitVec 5) (f3 : BitVec 3) (d : BitVec 5) (op : BitVec 7)
@[simp] theorem fOp_mkI : fOp (mkI m a f3 d op) = op := by
  unfold fOp mkI; ext i hi
  simp only [BitVec.getElem_extractLsb', BitVec.getLsbD_extractLsb', BitVec.getLsbD_append, BitVec.getElem_append]
  grind
@[simp] theorem fRd_mkI : fRd (mkI m a f3 d op) = d := by
  unfold fRd mkI; ext i hi
  simp only [BitVec.getElem_extractLsb', BitVec.getLsbD_extractLsb', BitVec.getLsbD_append, BitVec.getElem_append]
  grind
@[simp] theorem fF3_mkI : fF3 (mkI m a f3 d op) = f3 := by
  unfold fF3 mkI; ext i hi
  simp only [BitVec.getElem_extractLsb', BitVec.getLsbD_extractLsb', BitVec.getLsbD_append, BitVec.getElem_append]
  grind
@[simp] theorem fRs1_mkI : fRs1 (mkI m a f3 d op) = a := by
  unfold fRs1 mkI; ext i hi
  simp only [BitVec.getElem_extractLsb', BitVec.getLsbD_extractLsb', BitVec.getLsbD_append, BitVec.getElem_append]
  grind
@[simp] theorem fImmI_mkI : fImmI (mkI m a f3 d op) = m := by
  unfold fImmI mkI; ext i hi
  simp only [BitVec.getElem_extractLsb', BitVec.getLsbD_extractLsb', BitVec.getLsbD_append, BitVec.getElem_append]
  grind
end LayoutI

section LayoutS
variable (m : BitVec 12) (b a : BitVec 5) (f3 : BitVec 3) (op : BitVec 7)
@[simp] theorem fOp_mkS : fOp (mkS m b a f3 op) = op := by
  unfold fOp mkS; ext i hi
  simp only [BitVec.getElem_extractLsb', BitVec.getLsbD_extractLsb', BitVec.getLsbD_append, BitVec.getElem_append]
  grind
@[simp] theorem fF3_mkS : fF3 (mkS m b a f3 op) = f3 := by
  unfold fF3 mkS; ext i hi
  simp only [BitVec.getElem_extractLsb', BitVec.getLsbD_extractLsb', BitVec.getLsbD_append, BitVec.getElem_append]
  grind
@[simp] theorem fRs1_mkS : fRs1 (mkS m b a f3 op) = a := by
  unfold fRs1 mkS; ext i hi
  simp only [BitVec.getElem_extractLsb', BitVec.getLsbD_extractLsb', BitVec.getLsbD_append, BitVec.getElem_append]
  grind
@[simp] theorem fRs2_mkS : fRs2 (mkS m b a f3 op) = b := by
  unfold fRs2 mkS; ext i hi
  simp only [BitVec.getElem_extractLsb', BitVec.getLsbD_extractLsb', BitVec.getLsbD_append, BitVec.getElem_append]
  grind
@[simp] theorem fImmS_mkS : fImmS (mkS m b a f3 op) = m := by
  unfold fImmS mkS; ext i hi
  simp only [BitVec.getElem_extractLsb', BitVec.getLsbD_extractLsb', BitVec.getLsbD_append, BitVec.getElem_append]
  grind
end LayoutS

section LayoutB
variable (m : BitVec 12) (b a : BitVec 5) (f3 : BitVec 3) (op : BitVec 7)
@[simp] theorem fOp_mkB : fOp (mkB m b a f3 op) = op := by
  unfold fOp mkB; ext i hi
  simp only [BitVec.getElem_extractLsb', BitVec.getLsbD_extractLsb', BitVec.getLsbD_append, BitVec.getElem_append]
  grind
@[simp] theorem fF3_mkB : fF3 (mkB m b a f3 op) = f3 := by
  unfold fF3 mkB; ext i hi
  simp only [BitVec.getElem_extractLsb', BitVec.getLsbD_extractLsb', BitVec.getLsbD_append, BitVec.getElem_append]
  grind
@[simp] theorem fRs1_mkB : fRs1 (mkB m b a f3 op) = a := by
  unfold fRs1 mkB; ext i hi
  simp only [BitVec.getElem_extractLsb', BitVec.getLsbD_extractLsb', BitVec.getLsbD_append, BitVec.getElem_append]
  grind
@[simp] theorem fRs2_mkB : fRs2 (mkB m b a f3 op) = b := by
  unfold fRs2 mkB; ext i hi
  simp only [BitVec.getElem_extractLsb', BitVec.getLsbD_extractLsb', BitVec.getLsbD_append, BitVec.getElem_append]
  grind
@[simp] theorem fImmB_mkB : fImmB (mkB m b a f3 op) = m := by
  unfold fImmB mkB; ext i hi
  simp only [BitVec.getElem_extractLsb', BitVec.getLsbD_extractLsb', BitVec.getLsbD_append, BitVec.getElem_append]
  grind
end LayoutB

section LayoutU
variable (m : BitVec 20) (d : BitVec 5) (op : BitVec 7)
@[simp] theorem fOp_mkU : fOp (mkU m d op) = op := by
  unfold fOp mkU; ext i hi
  simp only [BitVec.getElem_extractLsb', BitVec.getLsbD_extractLsb', BitVec.getLsbD_append, BitVec.getElem_append]
  grind
@[simp] theorem fRd_mkU : fRd (mkU m d op) = d := by
  unfold fRd mkU; ext i hi
  simp only [BitVec.getElem_extractLsb', BitVec.getLsbD_extractLsb', BitVec.getLsbD_append, BitVec.getElem_append]
  grind
@[simp] theorem fImmU_mkU : fImmU (mkU m d op) = m := by
  unfold fImmU mkU; ext i hi
  simp only [BitVec.getElem_extractLsb', BitVec.getLsbD_extractLsb', BitVec.getLsbD_append, BitVec.getElem_append]
  grind
end LayoutU

section LayoutJ
variable (m : BitVec 20) (d : BitVec 5) (op : BitVec 7)
@[simp] theorem fOp_mkJ : fOp (mkJ m d op) = op := by
  unfold fOp mkJ; ext i hi
  simp only [BitVec.getElem_extractLsb', BitVec.getLsbD_extractLsb', BitVec.getLsbD_append, BitVec.getElem_append]
  grind
@[simp] theorem fRd_mkJ : fRd (mkJ m d op) = d := by
  unfold fRd mkJ; ext i hi
  simp only [BitVec.getElem_extractLsb', BitVec.getLsbD_extractLsb', BitVec.getLsbD_append, BitVec.getElem_append]
  grind
@[simp] theorem fImmJ_mkJ : fImmJ (mkJ m d op) = m := by
  unfold fImmJ mkJ; ext i hi
  simp only [BitVec.getElem_extractLsb', BitVec.getLsbD_extractLsb', BitVec.getLsbD_append, BitVec.getElem_append]
  grind
end LayoutJ

end Sys2Proof
end

