-- ==== Sys2Proof/Laws/Decoding.lean ====
section
/-! SUPPORT. Which part of the decoder reads a word of each major opcode (R122), the coded operands
read back (R125, R131, R135, R137, R243), and the parts of a field that hold several operands. -/

namespace Sys2Proof

theorem raw63 (draw : W32 → Option Instr) (v : Version) (w : W32) (h : fOp w = 0x63) :
    decodeRaw draw v w = decodeBranch w := by
  unfold decodeRaw; rw [h]; rfl
theorem raw03 (draw : W32 → Option Instr) (v : Version) (w : W32) (h : fOp w = 0x03) :
    decodeRaw draw v w = decodeLoad w := by
  unfold decodeRaw; rw [h]; rfl
theorem raw23 (draw : W32 → Option Instr) (v : Version) (w : W32) (h : fOp w = 0x23) :
    decodeRaw draw v w = decodeStore w := by
  unfold decodeRaw; rw [h]; rfl
theorem raw13 (draw : W32 → Option Instr) (v : Version) (w : W32) (h : fOp w = 0x13) :
    decodeRaw draw v w = decodeOpImm w := by
  unfold decodeRaw; rw [h]; rfl
theorem raw1B (draw : W32 → Option Instr) (v : Version) (w : W32) (h : fOp w = 0x1B) :
    decodeRaw draw v w = decodeOpImm32 w := by
  unfold decodeRaw; rw [h]; rfl
theorem raw33 (draw : W32 → Option Instr) (v : Version) (w : W32) (h : fOp w = 0x33) :
    decodeRaw draw v w = decodeOpR w := by
  unfold decodeRaw; rw [h]; rfl
theorem raw3B (draw : W32 → Option Instr) (v : Version) (w : W32) (h : fOp w = 0x3B) :
    decodeRaw draw v w = decodeOp32 w := by
  unfold decodeRaw; rw [h]; rfl
theorem raw73 (draw : W32 → Option Instr) (v : Version) (w : W32) (h : fOp w = 0x73) :
    decodeRaw draw v w = decodeSystem w := by
  unfold decodeRaw; rw [h]; rfl
theorem raw43 (draw : W32 → Option Instr) (v : Version) (w : W32) (h : fOp w = 0x43) :
    decodeRaw draw v w = decodeFused Instr.fmaddS w := by
  unfold decodeRaw; rw [h]; rfl
theorem raw47 (draw : W32 → Option Instr) (v : Version) (w : W32) (h : fOp w = 0x47) :
    decodeRaw draw v w = decodeFused Instr.fmsubS w := by
  unfold decodeRaw; rw [h]; rfl
theorem raw4B (draw : W32 → Option Instr) (v : Version) (w : W32) (h : fOp w = 0x4B) :
    decodeRaw draw v w = decodeFused Instr.fnmsubS w := by
  unfold decodeRaw; rw [h]; rfl
theorem raw4F (draw : W32 → Option Instr) (v : Version) (w : W32) (h : fOp w = 0x4F) :
    decodeRaw draw v w = decodeFused Instr.fnmaddS w := by
  unfold decodeRaw; rw [h]; rfl
theorem raw53 (draw : W32 → Option Instr) (v : Version) (w : W32) (h : fOp w = 0x53) :
    decodeRaw draw v w = decodeOpFp w := by
  unfold decodeRaw; rw [h]; rfl
theorem raw0B (draw : W32 → Option Instr) (v : Version) (w : W32) (h : fOp w = 0x0B) :
    decodeRaw draw v w = decodeC0 v w := by
  unfold decodeRaw; rw [h]; rfl
theorem raw2B (draw : W32 → Option Instr) (v : Version) (w : W32) (h : fOp w = 0x2B) :
    decodeRaw draw v w = decodeC1 w := by
  unfold decodeRaw; rw [h]; rfl
theorem raw5B (draw : W32 → Option Instr) (v : Version) (w : W32) (h : fOp w = 0x5B) :
    decodeRaw draw v w = decodeC2 w := by
  unfold decodeRaw; rw [h]; rfl
theorem raw7B (draw : W32 → Option Instr) (v : Version) (w : W32) (h : fOp w = 0x7B) :
    decodeRaw draw v w = decodeC3 draw w := by
  unfold decodeRaw; rw [h]; rfl
theorem raw37 (draw : W32 → Option Instr) (v : Version) (w : W32) (h : fOp w = 0x37) :
    decodeRaw draw v w = some (.lui (fRd w) (fImmU w)) := by
  unfold decodeRaw; rw [h]; rfl
theorem raw17 (draw : W32 → Option Instr) (v : Version) (w : W32) (h : fOp w = 0x17) :
    decodeRaw draw v w = some (.auipc (fRd w) (fImmU w)) := by
  unfold decodeRaw; rw [h]; rfl
theorem raw6F (draw : W32 → Option Instr) (v : Version) (w : W32) (h : fOp w = 0x6F) :
    decodeRaw draw v w = some (.jal (fRd w) (fImmJ w)) := by
  unfold decodeRaw; rw [h]; rfl
theorem raw67 (draw : W32 → Option Instr) (v : Version) (w : W32) (h : fOp w = 0x67) :
    decodeRaw draw v w = if fF3 w = 0 then some (.jalr (fRd w) (fRs1 w) (fImmI w)) else none := by
  unfold decodeRaw; rw [h]; rfl
theorem raw07 (draw : W32 → Option Instr) (v : Version) (w : W32) (h : fOp w = 0x07) :
    decodeRaw draw v w = if fF3 w = 2 then some (.flw (fRd w) (fRs1 w) (fImmI w)) else none := by
  unfold decodeRaw; rw [h]; rfl
theorem raw27 (draw : W32 → Option Instr) (v : Version) (w : W32) (h : fOp w = 0x27) :
    decodeRaw draw v w = if fF3 w = 2 then some (.fsw (fRs1 w) (fRs2 w) (fImmS w)) else none := by
  unfold decodeRaw; rw [h]; rfl
theorem raw0F (draw : W32 → Option Instr) (v : Version) (w : W32) (h : fOp w = 0x0F) :
    decodeRaw draw v w = if fF3 w = 0 then
      some (.fence (w.extractLsb' 28 4) (w.extractLsb' 24 4) (w.extractLsb' 20 4) (fRd w) (fRs1 w))
      else none := by
  unfold decodeRaw; rw [h]; rfl

theorem decode_of_raw {v : Version} {w : W32} {i : Instr} (hw : i.wf = true) (hv : i.inVersion v = true)
    (h : decodeRaw decodeDraw v w = some i) : decode v w = some i := by
  unfold decode decodeWith; rw [h]; simp [Option.filter, hw, hv]

@[simp] theorem reg3_wide3 (b : BitVec 3) : reg3 (wide3 b) = some b := by revert b; decide
@[simp] theorem reg4_wide4 (b : BitVec 4) : reg4 (wide4 b) = some b := by revert b; decide
@[simp] theorem reg2_wide2 (b : BitVec 2) : reg2 (wide2 b) = some b := by revert b; decide
@[simp] theorem unused_zero (i : Option Instr) : unused 0 i = i := rfl
@[simp] theorem Rm.ofBits_bits (r : Rm) : Rm.ofBits r.bits = some r := by cases r <;> rfl
@[simp] theorem Reach.ofBits_bits (r : Reach) : Reach.ofBits r.bits = some r := by cases r <;> rfl
@[simp] theorem Size.ofBits_bits (z : Size) : Size.ofBits z.bits = z := by cases z <;> rfl
@[simp] theorem AWidth.ofBit_bit (z : AWidth) : AWidth.ofBit z.bit = z := by cases z <;> rfl
@[simp] theorem ETy.ofBits_bits (t : ETy) : ETy.ofBits t.bits = t := by cases t <;> rfl
@[simp] theorem Pair.ofCode_code (p : Pair) : Pair.ofCode p.code = some p := by cases p <;> rfl
@[simp] theorem Cvt.ofCode_code (c : Cvt) : Cvt.ofCode c.code = some c := by cases c <;> rfl

section Parts
variable (b a : BitVec 5) (f3 : BitVec 3) (d : BitVec 5) (op : BitVec 7)

theorem mkR_ty_hi (t : BitVec 2) (k : BitVec 5) : (mkR (t ++ k) b a f3 d op).extractLsb' 30 2 = t := by
  unfold mkR; ext i hi
  simp only [BitVec.getElem_extractLsb', BitVec.getLsbD_extractLsb', BitVec.getLsbD_append, BitVec.getElem_append]
  grind
theorem mkR_ty_lo (t : BitVec 2) (k : BitVec 5) : (mkR (t ++ k) b a f3 d op).extractLsb' 25 5 = k := by
  unfold mkR; ext i hi
  simp only [BitVec.getElem_extractLsb', BitVec.getLsbD_extractLsb', BitVec.getLsbD_append, BitVec.getElem_append]
  grind
theorem mkR_amo_r (r : BitVec 3) (z : BitVec 1) (k : BitVec 3) : (mkR (r ++ z ++ k) b a f3 d op).extractLsb' 29 3 = r := by
  unfold mkR; ext i hi
  simp only [BitVec.getElem_extractLsb', BitVec.getLsbD_extractLsb', BitVec.getLsbD_append, BitVec.getElem_append]
  grind
theorem mkR_amo_z (r : BitVec 3) (z : BitVec 1) (k : BitVec 3) : (mkR (r ++ z ++ k) b a f3 d op).extractLsb' 28 1 = z := by
  unfold mkR; ext i hi
  simp only [BitVec.getElem_extractLsb', BitVec.getLsbD_extractLsb', BitVec.getLsbD_append, BitVec.getElem_append]
  grind
theorem mkR_amo_k (r : BitVec 3) (z : BitVec 1) (k : BitVec 3) : (mkR (r ++ z ++ k) b a f3 d op).extractLsb' 25 3 = k := by
  unfold mkR; ext i hi
  simp only [BitVec.getElem_extractLsb', BitVec.getLsbD_extractLsb', BitVec.getLsbD_append, BitVec.getElem_append]
  grind
theorem mkR_ord_r (r : BitVec 3) (z k : BitVec 2) : (mkR (r ++ z ++ k) b a f3 d op).extractLsb' 29 3 = r := by
  unfold mkR; ext i hi
  simp only [BitVec.getElem_extractLsb', BitVec.getLsbD_extractLsb', BitVec.getLsbD_append, BitVec.getElem_append]
  grind
theorem mkR_ord_z (r : BitVec 3) (z k : BitVec 2) : (mkR (r ++ z ++ k) b a f3 d op).extractLsb' 27 2 = z := by
  unfold mkR; ext i hi
  simp only [BitVec.getElem_extractLsb', BitVec.getLsbD_extractLsb', BitVec.getLsbD_append, BitVec.getElem_append]
  grind
theorem mkR_ord_k (r : BitVec 3) (z k : BitVec 2) : (mkR (r ++ z ++ k) b a f3 d op).extractLsb' 25 2 = k := by
  unfold mkR; ext i hi
  simp only [BitVec.getElem_extractLsb', BitVec.getLsbD_extractLsb', BitVec.getLsbD_append, BitVec.getElem_append]
  grind
theorem mkI_sh_hi (z s : BitVec 6) : (mkI (z ++ s) a f3 d op).extractLsb' 26 6 = z := by
  unfold mkI; ext i hi
  simp only [BitVec.getElem_extractLsb', BitVec.getLsbD_extractLsb', BitVec.getLsbD_append, BitVec.getElem_append]
  grind
theorem mkI_sh_lo (z s : BitVec 6) : (mkI (z ++ s) a f3 d op).extractLsb' 20 6 = s := by
  unfold mkI; ext i hi
  simp only [BitVec.getElem_extractLsb', BitVec.getLsbD_extractLsb', BitVec.getLsbD_append, BitVec.getElem_append]
  grind
theorem mkI_reach (r p s z : BitVec 3) : (mkI (r ++ p ++ s ++ z) a f3 d op).extractLsb' 29 3 = r := by
  unfold mkI; ext i hi
  simp only [BitVec.getElem_extractLsb', BitVec.getLsbD_extractLsb', BitVec.getLsbD_append, BitVec.getElem_append]
  grind
theorem mkI_pred (r p s z : BitVec 3) : (mkI (r ++ p ++ s ++ z) a f3 d op).extractLsb' 26 3 = p := by
  unfold mkI; ext i hi
  simp only [BitVec.getElem_extractLsb', BitVec.getLsbD_extractLsb', BitVec.getLsbD_append, BitVec.getElem_append]
  grind
theorem mkI_succ (r p s z : BitVec 3) : (mkI (r ++ p ++ s ++ z) a f3 d op).extractLsb' 23 3 = s := by
  unfold mkI; ext i hi
  simp only [BitVec.getElem_extractLsb', BitVec.getLsbD_extractLsb', BitVec.getLsbD_append, BitVec.getElem_append]
  grind
theorem mkI_zero (r p s z : BitVec 3) : (mkI (r ++ p ++ s ++ z) a f3 d op).extractLsb' 20 3 = z := by
  unfold mkI; ext i hi
  simp only [BitVec.getElem_extractLsb', BitVec.getLsbD_extractLsb', BitVec.getLsbD_append, BitVec.getElem_append]
  grind
theorem mkI_fm (r p s : BitVec 4) : (mkI (r ++ p ++ s) a f3 d op).extractLsb' 28 4 = r := by
  unfold mkI; ext i hi
  simp only [BitVec.getElem_extractLsb', BitVec.getLsbD_extractLsb', BitVec.getLsbD_append, BitVec.getElem_append]
  grind
theorem mkI_fpred (r p s : BitVec 4) : (mkI (r ++ p ++ s) a f3 d op).extractLsb' 24 4 = p := by
  unfold mkI; ext i hi
  simp only [BitVec.getElem_extractLsb', BitVec.getLsbD_extractLsb', BitVec.getLsbD_append, BitVec.getElem_append]
  grind
theorem mkI_fsucc (r p s : BitVec 4) : (mkI (r ++ p ++ s) a f3 d op).extractLsb' 20 4 = s := by
  unfold mkI; ext i hi
  simp only [BitVec.getElem_extractLsb', BitVec.getLsbD_extractLsb', BitVec.getLsbD_append, BitVec.getElem_append]
  grind
theorem mkR4_low (c : BitVec 5) (h k : BitVec 1) : (mkR4 c (h ++ k) b a f3 d op).extractLsb' 25 1 = k := by
  unfold mkR4; ext i hi
  simp only [BitVec.getElem_extractLsb', BitVec.getLsbD_extractLsb', BitVec.getLsbD_append, BitVec.getElem_append]
  grind
theorem mkR4_acc (c : BitVec 5) (f2 : BitVec 2) (p : BitVec 3) (s : BitVec 2) : (mkR4 c f2 b a f3 (p ++ s) op).extractLsb' 7 2 = s := by
  unfold mkR4; ext i hi
  simp only [BitVec.getElem_extractLsb', BitVec.getLsbD_extractLsb', BitVec.getLsbD_append, BitVec.getElem_append]
  grind
theorem fTag_mkR4 (c : BitVec 5) (k : BitVec 1) (t : Tag) : fTag (mkR4 c (t.extractLsb' 5 1 ++ k) b a f3 (t.extractLsb' 0 5) op) = t := by
  unfold mkR4 fTag; ext i hi
  simp only [BitVec.getElem_extractLsb', BitVec.getLsbD_extractLsb', BitVec.getLsbD_append, BitVec.getElem_append]
  grind
theorem mkR4_pair (c : BitVec 5) (p : BitVec 5) (s : BitVec 2) : (mkR4 c (p.extractLsb' 0 2) b a f3 (p.extractLsb' 2 3 ++ s) op).extractLsb' 9 3 ++
    (mkR4 c (p.extractLsb' 0 2) b a f3 (p.extractLsb' 2 3 ++ s) op).extractLsb' 25 2 = p := by
  unfold mkR4; ext i hi
  simp only [BitVec.getElem_extractLsb', BitVec.getLsbD_extractLsb', BitVec.getLsbD_append, BitVec.getElem_append]
  grind

end Parts

end Sys2Proof
end

