-- ==== Sys2Proof/Laws/Keeps.lean ====
section
/-! SUPPORT. The shared operations that do not write memory, said once each: memory is as before. -/

namespace Sys2Proof.Machine
namespace State

/-- Steps that leave memory alone, one after another, leave it alone. -/
theorem foldl_mem {α : Type} (f : State → α → State) (l : List α) (s : State)
    (h : ∀ s a, (f s a).mem = s.mem) : (l.foldl f s).mem = s.mem := by
  induction l generalizing s with
  | nil => rfl
  | cons a l ih => rw [List.foldl_cons, ih, h]

/-! ### Machine/Ops.lean -/

@[simp] theorem deliver_mem (s : State) (p : Post) : (s.deliver p).mem = s.mem := by
  unfold deliver; (repeat' split) <;> simp
@[simp] theorem toHost_mem (s : State) (d : Nat) (p : Post) : (s.toHost d p).mem = s.mem := by
  unfold toHost; split <;> simp
@[simp] theorem drainPosts_mem (s : State) : s.drainPosts.mem = s.mem := by
  unfold drainPosts; refine (foldl_mem _ _ _ fun s p => ?_).trans rfl; simp
@[simp] theorem event_mem (s : State) (d b : Nat) : (s.event d b).mem = s.mem := by
  unfold event; split <;> simp
@[simp] theorem nullify_mem (s : State) (t : Nat) (th : Thread) (bits : BitVec 6) :
    (s.nullify t th bits).mem = s.mem := rfl
@[simp] theorem nullifyX_mem (s : State) (t : Nat) (th : Thread) (rd : XReg) (bits : BitVec 6) :
    (s.nullifyX t th rd bits).mem = s.mem := rfl
@[simp] theorem divert_mem (s : State) (t : Nat) (th : Thread) : (s.divert t th).mem = s.mem := rfl
@[simp] theorem giveBack_mem (s : State) (d sid w : Nat) :
    (s.giveBack d sid w).mem = s.mem := by
  unfold giveBack; split <;> rfl
@[simp] theorem birth_mem (s : State) (th : Thread) (k : KReg) :
    (s.birth th k).2.2.mem = s.mem := by
  unfold birth; dsimp only; (repeat' split) <;> simp
@[simp] theorem openScope_mem (s : State) (rec parent depth opener pw cmd group : Nat) (canc : Bool) :
    (s.openScope rec parent depth opener pw cmd group canc).2.mem = s.mem := rfl
@[simp] theorem settle_mem (s : State) (sid : Nat) :
    (s.settle sid).mem = s.mem := by
  unfold settle; (repeat' split) <;> first | rfl | simp
@[simp] theorem report_mem (s : State) (sid : Nat) :
    (s.report sid).mem = s.mem := by
  unfold report; split <;> simp
@[simp] theorem closeScope_mem (s : State) (d sid w : Nat) :
    (s.closeScope d sid w).mem = s.mem := by
  unfold closeScope; (repeat' split) <;> first | rfl | simp
@[simp] theorem enqueue_mem (s : State) (cl : Nat) (it : Item) : (s.enqueue cl it).mem = s.mem := rfl
@[simp] theorem unqueue_mem (s : State) (cl : Nat) (isTask : Bool) (rec : Nat) :
    (s.unqueue cl isTask rec).mem = s.mem := rfl
@[simp] theorem readyThread_mem (s : State) (t : Nat) (th : Thread) (place : Option Nat) (at_ : Nat) :
    (s.readyThread t th place at_).mem = s.mem := rfl
@[simp] theorem readyTask_mem (s : State) (k : Nat) (x : Task) : (s.readyTask k x).mem = s.mem := rfl
@[simp] theorem discardTask_mem (s : State) (k : Nat) (x : Task) : (s.discardTask k x).mem = s.mem := rfl
@[simp] theorem freeDiscarded_mem (s : State) (sid : Nat) : (s.freeDiscarded sid).mem = s.mem := rfl
@[simp] theorem cancelWork_mem (s : State) (hit : Nat → Nat → Bool) : (s.cancelWork hit).mem = s.mem := rfl
@[simp] theorem discardTasks_mem (s : State) (hit : Nat → Nat → Bool) :
    (s.discardTasks hit).mem = s.mem := by
  unfold discardTasks; refine foldl_mem _ _ _ fun s p => ?_; (repeat' split) <;> simp
@[simp] theorem cancelThreads_mem (s : State) (hit : Nat → Nat → Bool) :
    (s.cancelThreads hit).mem = s.mem := rfl
@[simp] theorem cancelGroup_mem (s : State) (g : Nat) :
    (s.cancelGroup g).mem = s.mem := by
  unfold cancelGroup; (repeat' split) <;> first | rfl | simp
@[simp] theorem cancelTree_mem (s : State) (sid : Nat) :
    (s.cancelTree sid).mem = s.mem := by
  unfold cancelTree; dsimp only; refine (foldl_mem _ _ _ fun s p => ?_).trans ?_ <;> (repeat' split) <;> simp
@[simp] theorem cancelOthers_mem (s : State) (sid tid : Nat) :
    (s.cancelOthers sid tid).mem = s.mem := by
  unfold cancelOthers; dsimp only; refine (foldl_mem _ _ _ fun s p => ?_).trans ?_ <;> (repeat' split) <;> simp
@[simp] theorem seat_mem (s : State) (t : Nat) (th : Thread) (l ctx : Nat) :
    (s.seat t th l ctx).mem = s.mem := rfl
@[simp] theorem placeOn_mem (s : State) (t : Nat) (th : Thread) (l : Nat) :
    (s.placeOn t th l).mem = s.mem := by
  unfold placeOn; split <;> rfl
@[simp] theorem placeIn_mem (s : State) (t : Nat) (th : Thread) (cl : Nat) :
    (s.placeIn t th cl).mem = s.mem := by
  unfold placeIn; (repeat' split) <;> first | rfl | simp
@[simp] theorem placeThread_mem (s : State) (t : Nat) (th : Thread) (mode l spawner : Nat) :
    (s.placeThread t th mode l spawner).mem = s.mem := by
  unfold placeThread; (repeat' split) <;> first | rfl | simp
@[simp] theorem answerStep_mem (s : State) (d f tid status : Nat) : (s.answerStep d f tid status).mem = s.mem := by
  unfold answerStep; simp
@[simp] theorem boundary_mem (s : State) (t : Nat) (th : Thread) (status : Nat) :
    (s.boundary t th status).mem = s.mem := by
  unfold boundary; (repeat' split) <;> simp
@[simp] theorem dropSteal_mem (s : State) (t : Nat) (th : Thread) :
    (s.dropSteal t th).mem = s.mem := by
  unfold dropSteal; dsimp only; (repeat' split) <;> simp
@[simp] theorem halt_mem (s : State) (f t : Nat) (th : Thread) : (s.halt f t th).mem = s.mem := by
  unfold halt; split <;> simp
@[simp] theorem ended_mem (s : State) (t : Nat) (old : Thread) : (s.ended t old).mem = s.mem := by
  unfold ended; (repeat' split) <;> simp
@[simp] theorem answerThief_mem (s : State) (tid first count : Nat) :
    (s.answerThief tid first count).mem = s.mem := by
  unfold answerThief; dsimp only; (repeat' split) <;> simp
@[simp] theorem unbindRanges_mem (s : State) (l : Nat) :
    (s.unbindRanges l).mem = s.mem := by
  unfold unbindRanges; dsimp only; split <;> simp
@[simp] theorem dropHandles_mem (s : State) (d : Nat) (hs : List Handle) :
    (s.dropHandles d hs).mem = s.mem := by
  unfold dropHandles; refine foldl_mem _ _ _ fun s p => ?_; (repeat' split) <;> simp
@[simp] theorem closeThread_mem (s : State) (t : Nat) (th : Thread) :
    (s.closeThread t th).mem = s.mem := by
  unfold closeThread; dsimp only; refine (foldl_mem _ _ _ fun s p => ?_).trans ?_ <;> (repeat' split) <;> simp
@[simp] theorem taskDone_mem (s : State) (task : Option Nat) :
    (s.taskDone task).mem = s.mem := by
  unfold taskDone; (repeat' split) <;> first | rfl | simp
@[simp] theorem retire_mem (s : State) (t : Nat) (th : Thread) :
    (s.retire t th).mem = s.mem := by
  unfold retire; simp
@[simp] theorem endThread_mem (s : State) (t : Nat) (th : Thread) :
    (s.endThread t th).mem = s.mem := by
  unfold endThread; dsimp only; split <;> simp
@[simp] theorem markFault_mem (s : State) (sid cause : Nat) :
    (s.markFault sid cause).mem = s.mem := by
  unfold markFault; (repeat' split) <;> first | rfl | simp
@[simp] theorem scopeFault_mem (s : State) (sid cause : Nat) :
    (s.scopeFault sid cause).mem = s.mem := by
  unfold scopeFault; simp
@[simp] theorem faultThread_mem (s : State) (t cause : Nat) :
    (s.faultThread t cause).mem = s.mem := by
  unfold faultThread; dsimp only; (repeat' split) <;> simp
@[simp] theorem finishCopy_mem (s : State) (l : Nat) (c : Copy) (status : Nat) :
    (s.finishCopy l c status).mem = s.mem := by
  unfold finishCopy; split <;> simp
@[simp] theorem handlerReturn_mem (s : State) (t : Nat) (th : Thread) :
    (s.handlerReturn t th).mem = s.mem := rfl
@[simp] theorem haltScope_mem (s : State) (f sid : Nat) :
    (s.haltScope f sid).mem = s.mem := by
  have e : ∀ (l : List (Nat × Thread)), (l.foldl (fun s p => s.halt f p.1 p.2) s).mem = s.mem :=
    fun l => foldl_mem _ _ _ fun s p => halt_mem ..
  unfold haltScope; dsimp only; split <;> simp [e]
@[simp] theorem undoReads_mem (s : State) (th : Thread) : (s.undoReads th).2.mem = s.mem := by
  unfold undoReads; dsimp only; (repeat' split) <;> simp
@[simp] theorem haltThread_mem (s : State) (t : Nat) (th : Thread) (why : HaltReason) (scope : Bool) (f : Nat) :
    (s.haltThread t th why scope f).mem = s.mem := by
  unfold haltThread; dsimp only; (repeat' split) <;> simp

/-! ### Machine/Operands.lean -/

@[simp] theorem fill_mem (s : State) (l as : Nat) (f : Leaf) : (s.fill l as f).mem = s.mem := rfl
@[simp] theorem startRemote_mem (s : State) (t : Nat) (th : Thread) (va n dev addr : Nat) (kind : RemoteKind) :
    (s.startRemote t th va n dev addr kind).2.2.mem = s.mem := by
  unfold startRemote; simp

/-! ### Machine/Issue.lean -/

@[simp] theorem issued_mem (s : State) (l : Nat) (c : CoreClass) (x t : Nat) : (s.issued l c x t).mem = s.mem := by
  rfl
@[simp] theorem restarts_mem (s : State) (t : Nat) : (s.restarts t).mem = s.mem := by
  unfold restarts; (repeat' split) <;> rfl
@[simp] theorem afterIssue_mem (s : State) (t : Nat) (old : Thread) :
    (s.afterIssue t old).mem = s.mem := by
  unfold afterIssue; simp
@[simp] theorem ageThreads_mem (s : State) (n : Nat) : (s.ageThreads n).mem = s.mem := rfl
@[simp] theorem timeFlits_mem (s : State) (old : Nat) : (s.timeFlits old).mem = s.mem := by
  unfold timeFlits; split
  · rfl
  · exact foldl_mem _ _ _ fun s i => foldl_mem _ _ _ fun s p => rfl
@[simp] theorem tick_mem (s : State) (n : Nat) : (s.tick n).mem = s.mem := by unfold tick; simp

/-! ### Machine/ScopeOps.lean -/

@[simp] theorem closeReturn_mem (s : State) (t : Nat) (th : Thread) (sid : Nat) (k : KReg) (rd : XReg) :
    (s.closeReturn t th sid k rd).mem = s.mem := by
  unfold closeReturn; simp

/-! ### Machine/CopyOps.lean -/

@[simp] theorem copyRemote_mem (s : State) (l : Nat) (c : Copy) (dev addr va n : Nat) (kind : RemoteKind) :
    (s.copyRemote l c dev addr va n kind).mem = s.mem := rfl
@[simp] theorem setCopy_mem (s : State) (l : Nat) (c : Copy) : (s.setCopy l c).mem = s.mem := rfl

/-! ### Machine/MatrixOps.lean -/

@[simp] theorem tellIssuer_mem (s : State) (c : ArrayCmd) (f : Thread → Thread) :
    (s.tellIssuer c f).mem = s.mem := by
  unfold tellIssuer; (repeat' split) <;> first | rfl | simp
@[simp] theorem failCmd_mem (s : State) (l : Nat) (c : ArrayCmd) (x : Tile) (word : Word) :
    (s.failCmd l c x word).mem = s.mem := by
  unfold failCmd; simp

/-! ### Machine/WaitOps.lean -/

@[simp] theorem queueMsg_mem (s : State) (r : Nat) (rt : Thread) (m : Msg) :
    (s.queueMsg r rt m).mem = s.mem := by
  unfold queueMsg; dsimp only; (repeat' split) <;> simp
@[simp] theorem sendMsg_mem (s : State) (t : Nat) (th : Thread) (d : Word) (ws : List Word) :
    (s.sendMsg t th d ws).mem = s.mem := by
  unfold sendMsg; dsimp only; (repeat' split) <;> simp

/-! ### Machine/RefOps.lean -/

@[simp] theorem invalidate_mem (s : State) (heap i : Nat) : (s.invalidate heap i).mem = s.mem := rfl
@[simp] theorem resolve_mem (s : State) (cl : Nat) (r : Word) :
    (s.resolve cl r).2.mem = s.mem := by
  unfold resolve; dsimp only; (repeat' split) <;> simp
@[simp] theorem setReloc_mem (s : State) (die : Nat) (r : Reloc) : (s.setReloc die r).mem = s.mem := rfl
@[simp] theorem markDirty_mem (s : State) (die heap i slice : Nat) :
    (s.markDirty die heap i slice).mem = s.mem := by
  unfold markDirty; (repeat' split) <;> first | rfl | simp
@[simp] theorem dropReloc_mem (s : State) (die : Nat) (r : Reloc) : (s.dropReloc die r).mem = s.mem := rfl

/-! ### Machine/PageOps.lean -/

@[simp] theorem freePage_mem (s : State) (p : Nat) : (s.freePage p).mem = s.mem := rfl
@[simp] theorem notePage_mem (s : State) (as p : Nat) :
    (s.notePage as p).mem = s.mem := by
  unfold notePage; split <;> rfl
@[simp] theorem dropTlb_mem (s : State) (as a n : Nat) : (s.dropTlb as a n).mem = s.mem := rfl

/-! ### Machine/StreamOps.lean -/

@[simp] theorem setStream_mem (s : State) (id : Nat) (st : Stream) : (s.setStream id st).mem = s.mem := rfl
@[simp] theorem streamStep_mem (s : State) (id : Nat) (st : Stream) : (s.streamStep id st).mem = s.mem := rfl

/-! ### Machine/PrefixOps.lean -/

@[simp] theorem mapPfx_mem (s : State) (es : List Nat) (f : Prefix → Prefix) :
    (s.mapPfx es f).mem = s.mem := rfl
@[simp] theorem refill_mem (s : State) (d : Nat) (st : Stream) :
    (s.refill d st).2.mem = s.mem := by
  unfold refill; dsimp only; split <;> simp

/-! ### Machine/SchedOps.lean -/

@[simp] theorem wakeJoin_mem (s : State) (sid : Nat) :
    (s.wakeJoin sid).mem = s.mem := by
  unfold wakeJoin; refine foldl_mem _ _ _ fun s p => ?_; (repeat' split) <;> simp
@[simp] theorem flrDone_mem (s : State) (f : Nat) :
    (s.flrDone f).mem = s.mem := by
  unfold flrDone; dsimp only; split <;> simp
@[simp] theorem rootJoined_mem (s : State) (id : Nat) (w : Word) :
    (s.rootJoined id w).mem = s.mem := by
  unfold rootJoined; dsimp only; (repeat' split) <;> simp
@[simp] theorem joinScope_mem (s : State) (sid : Nat) :
    (s.joinScope sid).mem = s.mem := by
  unfold joinScope; dsimp only; (repeat' split) <;> simp
@[simp] theorem trackerWeight_mem (s : State) (l : Nat) (e : Track) : (s.trackerWeight l e).mem = s.mem := by
  unfold trackerWeight; simp
@[simp] theorem retireHeld_mem (s : State) (l : Nat) :
    (s.retireHeld l).mem = s.mem := by
  unfold retireHeld; (repeat' split) <;> first | rfl | simp
@[simp] theorem skipped_mem (s : State) (cl : Nat) (over_ : List Item) : (s.skipped cl over_).mem = s.mem := rfl
@[simp] theorem resume_mem (s : State) (t : Nat) (th : Thread) (l x : Nat) :
    (s.resume t th l x).mem = s.mem := by
  unfold resume; split <;> rfl
@[simp] theorem dispatch_mem (s : State) (cl : Nat) (it : Item) (l : Nat) :
    (s.dispatch cl it l).mem = s.mem := by
  unfold dispatch; dsimp only; (repeat' split) <;> simp
@[simp] theorem dispatchOver_mem (s : State) (cl : Nat) (q : List Item) (it : Item) (l : Nat) :
    (s.dispatchOver cl q it l).mem = s.mem := by
  unfold dispatchOver; simp
@[simp] theorem dispatchCycle_mem (s : State) (cl : Nat) :
    (s.dispatchCycle cl).mem = s.mem := by
  unfold dispatchCycle; dsimp only; (repeat' split) <;> simp

/-! ### Machine/KilnOps.lean -/

@[simp] theorem reserve_mem (s : State) (id : Nat) (r : LaunchRec) (l : Nat) :
    (s.reserve id r l).mem = s.mem := rfl
@[simp] theorem queueError_mem (s : State) (q v : Nat) : (s.queueError q v).mem = s.mem := rfl
@[simp] theorem finishCmd_mem (s : State) (id st v : Nat) :
    (s.finishCmd id st v).mem = s.mem := by
  unfold finishCmd; (repeat' split) <;> first | rfl | simp
@[simp] theorem settleQueue_mem (s : State) (q : Nat) :
    (s.settleQueue q).mem = s.mem := by
  unfold settleQueue; dsimp only; split <;> simp
@[simp] theorem announce_mem (s : State) (q : Nat) (c : Command) :
    (s.announce q c).mem = s.mem := by
  unfold announce; dsimp only; (repeat' split) <;> simp
@[simp] theorem stepClock_mem (s : State) (d mhz : Nat) :
    (s.stepClock d mhz).mem = s.mem := by
  unfold stepClock; dsimp only; split <;> simp

@[simp] theorem hostStep_mem (s : State) (d mhz : Nat) : (s.hostStep d mhz).mem = s.mem := by
  unfold hostStep; split <;> simp
@[simp] theorem clockDone_mem (s : State) (id : Nat) (c : Command) (d mhz : Nat) : (s.clockDone id c d mhz).mem = s.mem := by
  unfold clockDone; split <;> simp
@[simp] theorem readForCmd_mem (s : State) (id l : Nat) (r : Nat × Option Nat × Nat × Nat) :
    (s.readForCmd id l r).mem = s.mem := by
  unfold readForCmd; split <;> rfl
@[simp] theorem hardKill_mem (s : State) (id root cause : Nat) : (s.hardKill id root cause).mem = s.mem := by
  unfold hardKill; refine (foldl_mem _ _ _ fun s t => ?_).trans ?_ <;> simp
@[simp] theorem killTwice_mem (s : State) (id root cause : Nat) : (s.killTwice id root cause).mem = s.mem := by
  unfold killTwice; simp
@[simp] theorem dropNotify_mem (s : State) (f : Nat) : (s.dropNotify f).mem = s.mem := rfl
@[simp] theorem notify_mem (s : State) (q v : Nat) : (s.notify q v).mem = s.mem := by
  unfold notify; dsimp only; (repeat' split) <;> simp
@[simp] theorem afterTakeover_mem (s : State) : s.afterTakeover.mem = s.mem := by
  unfold afterTakeover; split
  · rfl
  · exact (foldl_mem _ _ _ fun s p => notify_mem ..).trans rfl
@[simp] theorem release_mem (s : State) (q id : Nat) : (s.release q id).mem = s.mem := rfl

/-! ### Machine/HostOps.lean -/

@[simp] theorem refuse_mem (s : State) (f : Nat) : (s.refuse f).mem = s.mem := rfl
@[simp] theorem silence_mem (s : State) (f : Nat) : (s.silence f).mem = s.mem := by
  unfold silence; refine (foldl_mem _ _ _ fun s p => ?_).trans rfl; dsimp only; (repeat' split) <;> first | rfl | simp
@[simp] theorem writeIde_mem (s : State) (f : Nat) (on : Bool) : (s.writeIde f on).mem = s.mem := by
  unfold writeIde; dsimp only; (repeat' split) <;> simp
@[simp] theorem endSession_mem (s : State) (f : Nat) :
    (s.endSession f).mem = s.mem := by
  unfold endSession; split <;> rfl
@[simp] theorem wipeQueues_mem (s : State) (f : Nat) : (s.wipeQueues f).mem = s.mem := rfl
@[simp] theorem resetFunc_mem (s : State) (f : Nat) :
    (s.resetFunc f).mem = s.mem := by
  unfold resetFunc; dsimp only; split <;> simp
@[simp] theorem writeReg_mem (s : State) (r : HostReg) (v : Word) :
    (s.writeReg r v).mem = s.mem := by
  unfold writeReg; dsimp only; (repeat' split) <;> simp

/-! ### Machine/FirmwareOps.lean -/

@[simp] theorem adopt_mem (s : State) : s.adopt.mem = s.mem := rfl
@[simp] theorem primaryFails_mem (s : State)  :
    (s.primaryFails).mem = s.mem := by
  unfold primaryFails; (repeat' split) <;> first | rfl | simp
@[simp] theorem damage_mem (s : State) (k : Nat) (st : Stream) :
    (s.damage k st).mem = s.mem := by
  unfold damage; dsimp only; (repeat' split) <;> simp
@[simp] theorem dropEntry_mem (s : State) (d a : Nat) : (s.dropEntry d a).mem = s.mem := rfl

/-! ### Machine/FabricOps.lean -/

@[simp] theorem remoteOver_mem (s : State) (r : Remote) :
    (s.remoteOver r).mem = s.mem := by
  unfold remoteOver; simp
@[simp] theorem remoteValue_mem (s : State) (r : Remote) (amo : Bool) (bs : List Byte) (ans : PeerAns) :
    (s.remoteValue r amo bs ans).mem = s.mem := by
  unfold remoteValue; split <;> rfl
@[simp] theorem remoteMem_mem (s : State) (f id : Nat) (g : Nat → DbgWait → DbgWait) :
    (s.remoteMem f id g).mem = s.mem := rfl
@[simp] theorem remoteCopy_mem (s : State) (r : Remote) (k : Nat) (f : Copy → Copy) :
    (s.remoteCopy r k f).mem = s.mem := by
  unfold remoteCopy; split <;> rfl
@[simp] theorem remoteCmd_mem (s : State) (r : Remote) (id : Nat) (bs : List Byte) (ans : PeerAns) :
    (s.remoteCmd r id bs ans).mem = s.mem := by
  unfold remoteCmd; split <;> rfl
@[simp] theorem remoteOk_mem (s : State) (r : Remote) (bs : List Byte) :
    (s.remoteOk r bs).mem = s.mem := by
  unfold remoteOk; split <;> simp

/-! ### Machine/ThermalOps.lean -/

@[simp] theorem sampleDie_mem (s : State) (d temp power : Nat) (limit : Bool) :
    (s.sampleDie d temp power limit).mem = s.mem := by
  unfold sampleDie; dsimp only; split <;> simp

/-! ### Machine/DebugOps.lean -/

@[simp] theorem respond_mem (s : State) (f status result : Nat) (block : List Word) :
    (s.respond f status result block).mem = s.mem := rfl
@[simp] theorem await_mem (s : State) (f : Nat) (k : DbgWait) : (s.await f k).mem = s.mem := rfl
@[simp] theorem haltAnswer_mem (s : State) (f n : Nat) (tids : List Nat) : (s.haltAnswer f n tids).mem = s.mem := by
  unfold haltAnswer; dsimp only; split <;> rfl
@[simp] theorem overtaken_mem (s : State) (f tid : Nat) : (s.overtaken f tid).mem = s.mem := by
  unfold overtaken; split <;> simp
@[simp] theorem unlisted_mem (s : State) (f : Nat) (r : DbgReq) : (s.unlisted f r).mem = s.mem := by
  unfold unlisted; split <;> rfl
@[simp] theorem unpark_mem (s : State) (t : Nat) : (s.unpark t).mem = s.mem := by
  unfold unpark; (repeat' split) <;> simp
@[simp] theorem mapUnder_mem (s : State) (sid : Nat) (f : Thread → Thread) :
    (s.mapUnder sid f).mem = s.mem := rfl
@[simp] theorem putEntry_mem (s : State) (f sid : Nat) (e : ScopeEntry) (same : ScopeEntry → Bool) :
    (s.putEntry f sid e same).mem = s.mem := rfl

end State
end Sys2Proof.Machine
end

