-- ==== Sys2Proof/Laws/Form.lean ====
section
/-! SUPPORT. The shared operations that write memory keep its canonical form (log 3), said once each, as rewriting
rules that a proof over all instructions can run through. -/

namespace Sys2Proof.Machine
namespace State

theorem foldl_wf {α : Type} (f : State → α → State) (l : List α) (s : State) (hs : Memory.wf s.mem = true)
    (h : ∀ s a, Memory.wf s.mem = true → Memory.wf (f s a).mem = true) : Memory.wf (l.foldl f s).mem = true := by
  induction l generalizing s with
  | nil => exact hs
  | cons a l ih => exact ih _ (h s a hs)

variable {s : State} (h : Memory.wf s.mem = true)
include h

/-! ### Bytes, numbers, pages -/

@[simp] theorem putBytes_wf (a : Nat) (bs : List Byte) : Memory.wf (s.putBytes a bs).mem = true := Memory.write_wf h _ _
@[simp] theorem putClean_wf (a : Nat) (bs : List Byte) : Memory.wf (s.putClean a bs).mem = true := Memory.write_wf h _ _
@[simp] theorem putNum_wf (a n v : Nat) : Memory.wf (s.putNum a n v).mem = true := Memory.write_wf h _ _
@[simp] theorem touch_wf (l as va : Nat) (st : Bool) : Memory.wf (s.touch l as va st).mem = true := touch_memOk h ..
@[simp] theorem touched_wf (th : Thread) (st : Bool) (vas : List Word) : Memory.wf (s.touched th st vas).mem = true :=
  touched_memOk h ..
@[simp] theorem touchSegs_wf (th : Thread) (st : Bool) (gs : List Seg) : Memory.wf (s.touchSegs th st gs).mem = true := by
  unfold touchSegs; exact foldl_wf _ _ _ h fun s p h => touch_wf h ..
@[simp] theorem logDirty_wf (as va : Nat) : Memory.wf (s.logDirty as va).mem = true := by
  unfold logDirty; split <;> simp [h]
@[simp] theorem hostWrite_wf (a : Nat) (bs : List Byte) : Memory.wf (s.hostWrite a bs).mem = true := by
  unfold hostWrite; split <;> simp [h]
@[simp] theorem wipe_wf (a n : Nat) : Memory.wf (s.wipe a n).mem = true := Memory.cut_wf h (Nat.le_add_right a n)
@[simp] theorem unmapPage_wf (as va : Nat) : Memory.wf (s.unmapPage as va).mem = true := by
  unfold unmapPage; dsimp only; (repeat' split) <;> simp [h]
theorem allocPage_wf {d : Nat} {x : Nat × State} (hx : s.allocPage d = some x) : Memory.wf x.2.mem = true := by
  unfold allocPage at hx; dsimp only at hx
  split at hx
  · obtain rfl := Option.some.inj hx; exact wipe_wf (s := s.setDie d _) h _ _
  · split at hx
    · obtain rfl := Option.some.inj hx; exact wipe_wf (s := s.setDie d _) h _ _
    · cases hx
@[simp] theorem performWrite_wf (t : Nat) (th : Thread) (p : Place) (va : Word) (n v : Nat) :
    Memory.wf (s.performWrite t th p va n v).2.mem = true := by
  unfold performWrite; split <;> simp [h]

/-! ### Faults and map-outs -/

@[simp] theorem mapOut_wf (l : Nat) : Memory.wf (s.mapOut l).mem = true := by
  unfold mapOut; split
  · exact h
  · have e : ∀ (s' : State), s'.mem = s.mem → Memory.wf (Memory.below s'.mem (tlLoc l 0) ++
        Memory.from_ s'.mem (tlLoc l 0x60000)) = true := fun s' hs => by
      rw [hs]; exact Memory.cut_wf h (by unfold tlLoc; omega)
    simp only [event_mem, setCluster_mem]
    refine e _ ?_
    simp only [setTile_mem]
    refine (foldl_mem _ _ _ fun s p => ?_).trans ((foldl_mem _ _ _ fun s p => ?_).trans rfl)
    · simp
    · split <;> simp
@[simp] theorem trap_wf (t : Nat) (th : Thread) (c : Nat) (v : Word) : Memory.wf (s.trap t th c v).mem = true := by
  unfold trap; split
  · simp [h]
  · split <;> simp [h]

/-! ### Heap descriptors, streams, prefixes -/

@[simp] theorem writeDesc_wf (a : Nat) (d : Desc) : Memory.wf (s.writeDesc a d).mem = true :=
  putNum_wf (putNum_wf (putNum_wf h ..) ..) ..
@[simp] theorem kvReturn_wf (pa : Nat) : Memory.wf (s.kvReturn pa).mem = true := by
  unfold kvReturn; simp [h]
@[simp] theorem trimOne_wf (st : Stream) : Memory.wf (s.trimOne st).2.mem = true := by
  unfold trimOne; dsimp only; (repeat' split) <;> simp [h]

end State
end Sys2Proof.Machine
end

