-- ==== Sys2Proof/Laws/PerInstr.lean ====
section
/-! SUPPORT. Per instruction: a well-formed instruction is what its word decodes to, in every version that
holds it (R121 to R140). -/

namespace Sys2Proof.Laws.Encodes

/-- Decoding an instruction's word gives it back, operands and all. -/
def Statement (i : Instr) : Prop :=
  ∀ v : Version, i.wf = true → i.inVersion v = true → decode v (encode i) = some i

/-- An event has no word. -/
theorem ofEvent {i : Instr} (h : i.wf = false) : Statement i := fun _ hw _ => by rw [h] at hw; cases hw

theorem lui d i : Statement (.lui d i) := by
  intro v hw hv
  refine decode_of_raw hw hv ((raw37 _ _ _ (fOp_mkU ..)).trans ?_)
  show (some (.lui (fRd (mkU i d 0x37)) (fImmU (mkU i d 0x37))) : Option Instr) = _
  simp only [fRd_mkU, fImmU_mkU]
  first | done | rfl
theorem auipc d i : Statement (.auipc d i) := by
  intro v hw hv
  refine decode_of_raw hw hv ((raw17 _ _ _ (fOp_mkU ..)).trans ?_)
  show (some (.auipc (fRd (mkU i d 0x17)) (fImmU (mkU i d 0x17))) : Option Instr) = _
  simp only [fRd_mkU, fImmU_mkU]
  first | done | rfl
theorem jal d i : Statement (.jal d i) := by
  intro v hw hv
  refine decode_of_raw hw hv ((raw6F _ _ _ (fOp_mkJ ..)).trans ?_)
  show (some (.jal (fRd (mkJ i d 0x6F)) (fImmJ (mkJ i d 0x6F))) : Option Instr) = _
  simp only [fRd_mkJ, fImmJ_mkJ]
  first | done | rfl
theorem jalr d a i : Statement (.jalr d a i) := by
  intro v hw hv
  refine decode_of_raw hw hv ((raw67 _ _ _ (fOp_mkI ..)).trans ?_)
  show (if fF3 (mkI i a 0 d 0x67) = 0 then some (.jalr (fRd (mkI i a 0 d 0x67)) (fRs1 (mkI i a 0 d 0x67)) (fImmI (mkI i a 0 d 0x67))) else none : Option Instr) = _
  simp only [fF3_mkI, fRd_mkI, fRs1_mkI, fImmI_mkI]
  first | done | rfl
theorem beq a b i : Statement (.beq a b i) := by
  intro v hw hv
  refine decode_of_raw hw hv ((raw63 _ _ _ (fOp_mkB ..)).trans ?_)
  show decodeBranch (mkB i b a 0 0x63) = _
  unfold decodeBranch
  simp only [fF3_mkB, fRs1_mkB, fRs2_mkB, fImmB_mkB]
  first | done | rfl
theorem bne a b i : Statement (.bne a b i) := by
  intro v hw hv
  refine decode_of_raw hw hv ((raw63 _ _ _ (fOp_mkB ..)).trans ?_)
  show decodeBranch (mkB i b a 1 0x63) = _
  unfold decodeBranch
  simp only [fF3_mkB, fRs1_mkB, fRs2_mkB, fImmB_mkB]
  first | done | rfl
theorem blt a b i : Statement (.blt a b i) := by
  intro v hw hv
  refine decode_of_raw hw hv ((raw63 _ _ _ (fOp_mkB ..)).trans ?_)
  show decodeBranch (mkB i b a 4 0x63) = _
  unfold decodeBranch
  simp only [fF3_mkB, fRs1_mkB, fRs2_mkB, fImmB_mkB]
  first | done | rfl
theorem bge a b i : Statement (.bge a b i) := by
  intro v hw hv
  refine decode_of_raw hw hv ((raw63 _ _ _ (fOp_mkB ..)).trans ?_)
  show decodeBranch (mkB i b a 5 0x63) = _
  unfold decodeBranch
  simp only [fF3_mkB, fRs1_mkB, fRs2_mkB, fImmB_mkB]
  first | done | rfl
theorem bltu a b i : Statement (.bltu a b i) := by
  intro v hw hv
  refine decode_of_raw hw hv ((raw63 _ _ _ (fOp_mkB ..)).trans ?_)
  show decodeBranch (mkB i b a 6 0x63) = _
  unfold decodeBranch
  simp only [fF3_mkB, fRs1_mkB, fRs2_mkB, fImmB_mkB]
  first | done | rfl
theorem bgeu a b i : Statement (.bgeu a b i) := by
  intro v hw hv
  refine decode_of_raw hw hv ((raw63 _ _ _ (fOp_mkB ..)).trans ?_)
  show decodeBranch (mkB i b a 7 0x63) = _
  unfold decodeBranch
  simp only [fF3_mkB, fRs1_mkB, fRs2_mkB, fImmB_mkB]
  first | done | rfl
theorem lb d a i : Statement (.lb d a i) := by
  intro v hw hv
  refine decode_of_raw hw hv ((raw03 _ _ _ (fOp_mkI ..)).trans ?_)
  show decodeLoad (mkI i a 0 d 0x03) = _
  unfold decodeLoad
  simp only [fF3_mkI, fRd_mkI, fRs1_mkI, fImmI_mkI]
  first | done | rfl
theorem lh d a i : Statement (.lh d a i) := by
  intro v hw hv
  refine decode_of_raw hw hv ((raw03 _ _ _ (fOp_mkI ..)).trans ?_)
  show decodeLoad (mkI i a 1 d 0x03) = _
  unfold decodeLoad
  simp only [fF3_mkI, fRd_mkI, fRs1_mkI, fImmI_mkI]
  first | done | rfl
theorem lw d a i : Statement (.lw d a i) := by
  intro v hw hv
  refine decode_of_raw hw hv ((raw03 _ _ _ (fOp_mkI ..)).trans ?_)
  show decodeLoad (mkI i a 2 d 0x03) = _
  unfold decodeLoad
  simp only [fF3_mkI, fRd_mkI, fRs1_mkI, fImmI_mkI]
  first | done | rfl
theorem ld d a i : Statement (.ld d a i) := by
  intro v hw hv
  refine decode_of_raw hw hv ((raw03 _ _ _ (fOp_mkI ..)).trans ?_)
  show decodeLoad (mkI i a 3 d 0x03) = _
  unfold decodeLoad
  simp only [fF3_mkI, fRd_mkI, fRs1_mkI, fImmI_mkI]
  first | done | rfl
theorem lbu d a i : Statement (.lbu d a i) := by
  intro v hw hv
  refine decode_of_raw hw hv ((raw03 _ _ _ (fOp_mkI ..)).trans ?_)
  show decodeLoad (mkI i a 4 d 0x03) = _
  unfold decodeLoad
  simp only [fF3_mkI, fRd_mkI, fRs1_mkI, fImmI_mkI]
  first | done | rfl
theorem lhu d a i : Statement (.lhu d a i) := by
  intro v hw hv
  refine decode_of_raw hw hv ((raw03 _ _ _ (fOp_mkI ..)).trans ?_)
  show decodeLoad (mkI i a 5 d 0x03) = _
  unfold decodeLoad
  simp only [fF3_mkI, fRd_mkI, fRs1_mkI, fImmI_mkI]
  first | done | rfl
theorem lwu d a i : Statement (.lwu d a i) := by
  intro v hw hv
  refine decode_of_raw hw hv ((raw03 _ _ _ (fOp_mkI ..)).trans ?_)
  show decodeLoad (mkI i a 6 d 0x03) = _
  unfold decodeLoad
  simp only [fF3_mkI, fRd_mkI, fRs1_mkI, fImmI_mkI]
  first | done | rfl
theorem sb a b i : Statement (.sb a b i) := by
  intro v hw hv
  refine decode_of_raw hw hv ((raw23 _ _ _ (fOp_mkS ..)).trans ?_)
  show decodeStore (mkS i b a 0 0x23) = _
  unfold decodeStore
  simp only [fF3_mkS, fRs1_mkS, fRs2_mkS, fImmS_mkS]
  first | done | rfl
theorem sh a b i : Statement (.sh a b i) := by
  intro v hw hv
  refine decode_of_raw hw hv ((raw23 _ _ _ (fOp_mkS ..)).trans ?_)
  show decodeStore (mkS i b a 1 0x23) = _
  unfold decodeStore
  simp only [fF3_mkS, fRs1_mkS, fRs2_mkS, fImmS_mkS]
  first | done | rfl
theorem sw a b i : Statement (.sw a b i) := by
  intro v hw hv
  refine decode_of_raw hw hv ((raw23 _ _ _ (fOp_mkS ..)).trans ?_)
  show decodeStore (mkS i b a 2 0x23) = _
  unfold decodeStore
  simp only [fF3_mkS, fRs1_mkS, fRs2_mkS, fImmS_mkS]
  first | done | rfl
theorem sd a b i : Statement (.sd a b i) := by
  intro v hw hv
  refine decode_of_raw hw hv ((raw23 _ _ _ (fOp_mkS ..)).trans ?_)
  show decodeStore (mkS i b a 3 0x23) = _
  unfold decodeStore
  simp only [fF3_mkS, fRs1_mkS, fRs2_mkS, fImmS_mkS]
  first | done | rfl
theorem addi d a i : Statement (.addi d a i) := by
  intro v hw hv
  refine decode_of_raw hw hv ((raw13 _ _ _ (fOp_mkI ..)).trans ?_)
  show decodeOpImm (mkI i a 0 d 0x13) = _
  unfold decodeOpImm
  simp only [fF3_mkI, fRd_mkI, fRs1_mkI, fImmI_mkI]
  first | done | rfl
theorem slti d a i : Statement (.slti d a i) := by
  intro v hw hv
  refine decode_of_raw hw hv ((raw13 _ _ _ (fOp_mkI ..)).trans ?_)
  show decodeOpImm (mkI i a 2 d 0x13) = _
  unfold decodeOpImm
  simp only [fF3_mkI, fRd_mkI, fRs1_mkI, fImmI_mkI]
  first | done | rfl
theorem sltiu d a i : Statement (.sltiu d a i) := by
  intro v hw hv
  refine decode_of_raw hw hv ((raw13 _ _ _ (fOp_mkI ..)).trans ?_)
  show decodeOpImm (mkI i a 3 d 0x13) = _
  unfold decodeOpImm
  simp only [fF3_mkI, fRd_mkI, fRs1_mkI, fImmI_mkI]
  first | done | rfl
theorem xori d a i : Statement (.xori d a i) := by
  intro v hw hv
  refine decode_of_raw hw hv ((raw13 _ _ _ (fOp_mkI ..)).trans ?_)
  show decodeOpImm (mkI i a 4 d 0x13) = _
  unfold decodeOpImm
  simp only [fF3_mkI, fRd_mkI, fRs1_mkI, fImmI_mkI]
  first | done | rfl
theorem ori d a i : Statement (.ori d a i) := by
  intro v hw hv
  refine decode_of_raw hw hv ((raw13 _ _ _ (fOp_mkI ..)).trans ?_)
  show decodeOpImm (mkI i a 6 d 0x13) = _
  unfold decodeOpImm
  simp only [fF3_mkI, fRd_mkI, fRs1_mkI, fImmI_mkI]
  first | done | rfl
theorem andi d a i : Statement (.andi d a i) := by
  intro v hw hv
  refine decode_of_raw hw hv ((raw13 _ _ _ (fOp_mkI ..)).trans ?_)
  show decodeOpImm (mkI i a 7 d 0x13) = _
  unfold decodeOpImm
  simp only [fF3_mkI, fRd_mkI, fRs1_mkI, fImmI_mkI]
  first | done | rfl
theorem slli d a s : Statement (.slli d a s) := by
  intro v hw hv
  refine decode_of_raw hw hv ((raw13 _ _ _ (fOp_mkI ..)).trans ?_)
  show decodeOpImm (mkI (0#6 ++ s) a 1 d 0x13) = _
  unfold decodeOpImm
  simp only [fF3_mkI, fRd_mkI, fRs1_mkI, fImmI_mkI, mkI_sh_hi, mkI_sh_lo]
  first | done | rfl
theorem srli d a s : Statement (.srli d a s) := by
  intro v hw hv
  refine decode_of_raw hw hv ((raw13 _ _ _ (fOp_mkI ..)).trans ?_)
  show decodeOpImm (mkI (0#6 ++ s) a 5 d 0x13) = _
  unfold decodeOpImm
  simp only [fF3_mkI, fRd_mkI, fRs1_mkI, fImmI_mkI, mkI_sh_hi, mkI_sh_lo]
  first | done | rfl
theorem srai d a s : Statement (.srai d a s) := by
  intro v hw hv
  refine decode_of_raw hw hv ((raw13 _ _ _ (fOp_mkI ..)).trans ?_)
  show decodeOpImm (mkI (0x10#6 ++ s) a 5 d 0x13) = _
  unfold decodeOpImm
  simp only [fF3_mkI, fRd_mkI, fRs1_mkI, fImmI_mkI, mkI_sh_hi, mkI_sh_lo]
  first | done | rfl
theorem addiw d a i : Statement (.addiw d a i) := by
  intro v hw hv
  refine decode_of_raw hw hv ((raw1B _ _ _ (fOp_mkI ..)).trans ?_)
  show decodeOpImm32 (mkI i a 0 d 0x1B) = _
  unfold decodeOpImm32
  simp only [fF3_mkI, fRd_mkI, fRs1_mkI, fImmI_mkI]
  first | done | rfl
theorem slliw d a s : Statement (.slliw d a s) := by
  intro v hw hv
  refine decode_of_raw hw hv ((raw1B _ _ _ (fOp_mkR ..)).trans ?_)
  show decodeOpImm32 (mkR 0 s a 1 d 0x1B) = _
  unfold decodeOpImm32
  simp only [fF7_mkR, fF3_mkR, fRd_mkR, fRs1_mkR, fRs2_mkR]
  first | done | rfl
theorem srliw d a s : Statement (.srliw d a s) := by
  intro v hw hv
  refine decode_of_raw hw hv ((raw1B _ _ _ (fOp_mkR ..)).trans ?_)
  show decodeOpImm32 (mkR 0 s a 5 d 0x1B) = _
  unfold decodeOpImm32
  simp only [fF7_mkR, fF3_mkR, fRd_mkR, fRs1_mkR, fRs2_mkR]
  first | done | rfl
theorem sraiw d a s : Statement (.sraiw d a s) := by
  intro v hw hv
  refine decode_of_raw hw hv ((raw1B _ _ _ (fOp_mkR ..)).trans ?_)
  show decodeOpImm32 (mkR 0x20 s a 5 d 0x1B) = _
  unfold decodeOpImm32
  simp only [fF7_mkR, fF3_mkR, fRd_mkR, fRs1_mkR, fRs2_mkR]
  first | done | rfl
theorem add d a b : Statement (.add d a b) := by
  intro v hw hv
  refine decode_of_raw hw hv ((raw33 _ _ _ (fOp_mkR ..)).trans ?_)
  show decodeOpR (mkR 0 b a 0 d 0x33) = _
  unfold decodeOpR
  simp only [fF7_mkR, fF3_mkR, fRd_mkR, fRs1_mkR, fRs2_mkR]
  first | done | rfl
theorem sub d a b : Statement (.sub d a b) := by
  intro v hw hv
  refine decode_of_raw hw hv ((raw33 _ _ _ (fOp_mkR ..)).trans ?_)
  show decodeOpR (mkR 32 b a 0 d 0x33) = _
  unfold decodeOpR
  simp only [fF7_mkR, fF3_mkR, fRd_mkR, fRs1_mkR, fRs2_mkR]
  first | done | rfl
theorem sll d a b : Statement (.sll d a b) := by
  intro v hw hv
  refine decode_of_raw hw hv ((raw33 _ _ _ (fOp_mkR ..)).trans ?_)
  show decodeOpR (mkR 0 b a 1 d 0x33) = _
  unfold decodeOpR
  simp only [fF7_mkR, fF3_mkR, fRd_mkR, fRs1_mkR, fRs2_mkR]
  first | done | rfl
theorem slt d a b : Statement (.slt d a b) := by
  intro v hw hv
  refine decode_of_raw hw hv ((raw33 _ _ _ (fOp_mkR ..)).trans ?_)
  show decodeOpR (mkR 0 b a 2 d 0x33) = _
  unfold decodeOpR
  simp only [fF7_mkR, fF3_mkR, fRd_mkR, fRs1_mkR, fRs2_mkR]
  first | done | rfl
theorem sltu d a b : Statement (.sltu d a b) := by
  intro v hw hv
  refine decode_of_raw hw hv ((raw33 _ _ _ (fOp_mkR ..)).trans ?_)
  show decodeOpR (mkR 0 b a 3 d 0x33) = _
  unfold decodeOpR
  simp only [fF7_mkR, fF3_mkR, fRd_mkR, fRs1_mkR, fRs2_mkR]
  first | done | rfl
theorem xor d a b : Statement (.xor d a b) := by
  intro v hw hv
  refine decode_of_raw hw hv ((raw33 _ _ _ (fOp_mkR ..)).trans ?_)
  show decodeOpR (mkR 0 b a 4 d 0x33) = _
  unfold decodeOpR
  simp only [fF7_mkR, fF3_mkR, fRd_mkR, fRs1_mkR, fRs2_mkR]
  first | done | rfl
theorem srl d a b : Statement (.srl d a b) := by
  intro v hw hv
  refine decode_of_raw hw hv ((raw33 _ _ _ (fOp_mkR ..)).trans ?_)
  show decodeOpR (mkR 0 b a 5 d 0x33) = _
  unfold decodeOpR
  simp only [fF7_mkR, fF3_mkR, fRd_mkR, fRs1_mkR, fRs2_mkR]
  first | done | rfl
theorem sra d a b : Statement (.sra d a b) := by
  intro v hw hv
  refine decode_of_raw hw hv ((raw33 _ _ _ (fOp_mkR ..)).trans ?_)
  show decodeOpR (mkR 32 b a 5 d 0x33) = _
  unfold decodeOpR
  simp only [fF7_mkR, fF3_mkR, fRd_mkR, fRs1_mkR, fRs2_mkR]
  first | done | rfl
theorem or d a b : Statement (.or d a b) := by
  intro v hw hv
  refine decode_of_raw hw hv ((raw33 _ _ _ (fOp_mkR ..)).trans ?_)
  show decodeOpR (mkR 0 b a 6 d 0x33) = _
  unfold decodeOpR
  simp only [fF7_mkR, fF3_mkR, fRd_mkR, fRs1_mkR, fRs2_mkR]
  first | done | rfl
theorem and d a b : Statement (.and d a b) := by
  intro v hw hv
  refine decode_of_raw hw hv ((raw33 _ _ _ (fOp_mkR ..)).trans ?_)
  show decodeOpR (mkR 0 b a 7 d 0x33) = _
  unfold decodeOpR
  simp only [fF7_mkR, fF3_mkR, fRd_mkR, fRs1_mkR, fRs2_mkR]
  first | done | rfl
theorem addw d a b : Statement (.addw d a b) := by
  intro v hw hv
  refine decode_of_raw hw hv ((raw3B _ _ _ (fOp_mkR ..)).trans ?_)
  show decodeOp32 (mkR 0 b a 0 d 0x3B) = _
  unfold decodeOp32
  simp only [fF7_mkR, fF3_mkR, fRd_mkR, fRs1_mkR, fRs2_mkR]
  first | done | rfl
theorem subw d a b : Statement (.subw d a b) := by
  intro v hw hv
  refine decode_of_raw hw hv ((raw3B _ _ _ (fOp_mkR ..)).trans ?_)
  show decodeOp32 (mkR 32 b a 0 d 0x3B) = _
  unfold decodeOp32
  simp only [fF7_mkR, fF3_mkR, fRd_mkR, fRs1_mkR, fRs2_mkR]
  first | done | rfl
theorem sllw d a b : Statement (.sllw d a b) := by
  intro v hw hv
  refine decode_of_raw hw hv ((raw3B _ _ _ (fOp_mkR ..)).trans ?_)
  show decodeOp32 (mkR 0 b a 1 d 0x3B) = _
  unfold decodeOp32
  simp only [fF7_mkR, fF3_mkR, fRd_mkR, fRs1_mkR, fRs2_mkR]
  first | done | rfl
theorem srlw d a b : Statement (.srlw d a b) := by
  intro v hw hv
  refine decode_of_raw hw hv ((raw3B _ _ _ (fOp_mkR ..)).trans ?_)
  show decodeOp32 (mkR 0 b a 5 d 0x3B) = _
  unfold decodeOp32
  simp only [fF7_mkR, fF3_mkR, fRd_mkR, fRs1_mkR, fRs2_mkR]
  first | done | rfl
theorem sraw d a b : Statement (.sraw d a b) := by
  intro v hw hv
  refine decode_of_raw hw hv ((raw3B _ _ _ (fOp_mkR ..)).trans ?_)
  show decodeOp32 (mkR 32 b a 5 d 0x3B) = _
  unfold decodeOp32
  simp only [fF7_mkR, fF3_mkR, fRd_mkR, fRs1_mkR, fRs2_mkR]
  first | done | rfl
theorem mul d a b : Statement (.mul d a b) := by
  intro v hw hv
  refine decode_of_raw hw hv ((raw33 _ _ _ (fOp_mkR ..)).trans ?_)
  show decodeOpR (mkR 1 b a 0 d 0x33) = _
  unfold decodeOpR
  simp only [fF7_mkR, fF3_mkR, fRd_mkR, fRs1_mkR, fRs2_mkR]
  first | done | rfl
theorem mulh d a b : Statement (.mulh d a b) := by
  intro v hw hv
  refine decode_of_raw hw hv ((raw33 _ _ _ (fOp_mkR ..)).trans ?_)
  show decodeOpR (mkR 1 b a 1 d 0x33) = _
  unfold decodeOpR
  simp only [fF7_mkR, fF3_mkR, fRd_mkR, fRs1_mkR, fRs2_mkR]
  first | done | rfl
theorem mulhsu d a b : Statement (.mulhsu d a b) := by
  intro v hw hv
  refine decode_of_raw hw hv ((raw33 _ _ _ (fOp_mkR ..)).trans ?_)
  show decodeOpR (mkR 1 b a 2 d 0x33) = _
  unfold decodeOpR
  simp only [fF7_mkR, fF3_mkR, fRd_mkR, fRs1_mkR, fRs2_mkR]
  first | done | rfl
theorem mulhu d a b : Statement (.mulhu d a b) := by
  intro v hw hv
  refine decode_of_raw hw hv ((raw33 _ _ _ (fOp_mkR ..)).trans ?_)
  show decodeOpR (mkR 1 b a 3 d 0x33) = _
  unfold decodeOpR
  simp only [fF7_mkR, fF3_mkR, fRd_mkR, fRs1_mkR, fRs2_mkR]
  first | done | rfl
theorem div d a b : Statement (.div d a b) := by
  intro v hw hv
  refine decode_of_raw hw hv ((raw33 _ _ _ (fOp_mkR ..)).trans ?_)
  show decodeOpR (mkR 1 b a 4 d 0x33) = _
  unfold decodeOpR
  simp only [fF7_mkR, fF3_mkR, fRd_mkR, fRs1_mkR, fRs2_mkR]
  first | done | rfl
theorem divu d a b : Statement (.divu d a b) := by
  intro v hw hv
  refine decode_of_raw hw hv ((raw33 _ _ _ (fOp_mkR ..)).trans ?_)
  show decodeOpR (mkR 1 b a 5 d 0x33) = _
  unfold decodeOpR
  simp only [fF7_mkR, fF3_mkR, fRd_mkR, fRs1_mkR, fRs2_mkR]
  first | done | rfl
theorem rem d a b : Statement (.rem d a b) := by
  intro v hw hv
  refine decode_of_raw hw hv ((raw33 _ _ _ (fOp_mkR ..)).trans ?_)
  show decodeOpR (mkR 1 b a 6 d 0x33) = _
  unfold decodeOpR
  simp only [fF7_mkR, fF3_mkR, fRd_mkR, fRs1_mkR, fRs2_mkR]
  first | done | rfl
theorem remu d a b : Statement (.remu d a b) := by
  intro v hw hv
  refine decode_of_raw hw hv ((raw33 _ _ _ (fOp_mkR ..)).trans ?_)
  show decodeOpR (mkR 1 b a 7 d 0x33) = _
  unfold decodeOpR
  simp only [fF7_mkR, fF3_mkR, fRd_mkR, fRs1_mkR, fRs2_mkR]
  first | done | rfl
theorem mulw d a b : Statement (.mulw d a b) := by
  intro v hw hv
  refine decode_of_raw hw hv ((raw3B _ _ _ (fOp_mkR ..)).trans ?_)
  show decodeOp32 (mkR 1 b a 0 d 0x3B) = _
  unfold decodeOp32
  simp only [fF7_mkR, fF3_mkR, fRd_mkR, fRs1_mkR, fRs2_mkR]
  first | done | rfl
theorem divw d a b : Statement (.divw d a b) := by
  intro v hw hv
  refine decode_of_raw hw hv ((raw3B _ _ _ (fOp_mkR ..)).trans ?_)
  show decodeOp32 (mkR 1 b a 4 d 0x3B) = _
  unfold decodeOp32
  simp only [fF7_mkR, fF3_mkR, fRd_mkR, fRs1_mkR, fRs2_mkR]
  first | done | rfl
theorem divuw d a b : Statement (.divuw d a b) := by
  intro v hw hv
  refine decode_of_raw hw hv ((raw3B _ _ _ (fOp_mkR ..)).trans ?_)
  show decodeOp32 (mkR 1 b a 5 d 0x3B) = _
  unfold decodeOp32
  simp only [fF7_mkR, fF3_mkR, fRd_mkR, fRs1_mkR, fRs2_mkR]
  first | done | rfl
theorem remw d a b : Statement (.remw d a b) := by
  intro v hw hv
  refine decode_of_raw hw hv ((raw3B _ _ _ (fOp_mkR ..)).trans ?_)
  show decodeOp32 (mkR 1 b a 6 d 0x3B) = _
  unfold decodeOp32
  simp only [fF7_mkR, fF3_mkR, fRd_mkR, fRs1_mkR, fRs2_mkR]
  first | done | rfl
theorem remuw d a b : Statement (.remuw d a b) := by
  intro v hw hv
  refine decode_of_raw hw hv ((raw3B _ _ _ (fOp_mkR ..)).trans ?_)
  show decodeOp32 (mkR 1 b a 7 d 0x3B) = _
  unfold decodeOp32
  simp only [fF7_mkR, fF3_mkR, fRd_mkR, fRs1_mkR, fRs2_mkR]
  first | done | rfl
theorem fence fm p s d a : Statement (.fence fm p s d a) := by
  intro v hw hv
  refine decode_of_raw hw hv ((raw0F _ _ _ (fOp_mkI ..)).trans ?_)
  show (if fF3 (mkI (fm ++ p ++ s) a 0 d 0x0F) = 0 then
      some (.fence ((mkI (fm ++ p ++ s) a 0 d 0x0F).extractLsb' 28 4) ((mkI (fm ++ p ++ s) a 0 d 0x0F).extractLsb' 24 4) ((mkI (fm ++ p ++ s) a 0 d 0x0F).extractLsb' 20 4) (fRd (mkI (fm ++ p ++ s) a 0 d 0x0F)) (fRs1 (mkI (fm ++ p ++ s) a 0 d 0x0F)))
      else none : Option Instr) = _
  simp only [fF3_mkI, fRd_mkI, fRs1_mkI, fImmI_mkI, mkI_fm, mkI_fpred, mkI_fsucc]
  first | done | rfl
theorem csrrw d a c : Statement (.csrrw d a c) := by
  intro v hw hv
  refine decode_of_raw hw hv ((raw73 _ _ _ (fOp_mkI ..)).trans ?_)
  show decodeSystem (mkI c a 1 d 0x73) = _
  unfold decodeSystem
  simp only [fF3_mkI, fRd_mkI, fRs1_mkI, fImmI_mkI]
  first | done | rfl
theorem csrrs d a c : Statement (.csrrs d a c) := by
  intro v hw hv
  refine decode_of_raw hw hv ((raw73 _ _ _ (fOp_mkI ..)).trans ?_)
  show decodeSystem (mkI c a 2 d 0x73) = _
  unfold decodeSystem
  simp only [fF3_mkI, fRd_mkI, fRs1_mkI, fImmI_mkI]
  first | done | rfl
theorem csrrc d a c : Statement (.csrrc d a c) := by
  intro v hw hv
  refine decode_of_raw hw hv ((raw73 _ _ _ (fOp_mkI ..)).trans ?_)
  show decodeSystem (mkI c a 3 d 0x73) = _
  unfold decodeSystem
  simp only [fF3_mkI, fRd_mkI, fRs1_mkI, fImmI_mkI]
  first | done | rfl
theorem csrrwi d a c : Statement (.csrrwi d a c) := by
  intro v hw hv
  refine decode_of_raw hw hv ((raw73 _ _ _ (fOp_mkI ..)).trans ?_)
  show decodeSystem (mkI c a 5 d 0x73) = _
  unfold decodeSystem
  simp only [fF3_mkI, fRd_mkI, fRs1_mkI, fImmI_mkI]
  first | done | rfl
theorem csrrsi d a c : Statement (.csrrsi d a c) := by
  intro v hw hv
  refine decode_of_raw hw hv ((raw73 _ _ _ (fOp_mkI ..)).trans ?_)
  show decodeSystem (mkI c a 6 d 0x73) = _
  unfold decodeSystem
  simp only [fF3_mkI, fRd_mkI, fRs1_mkI, fImmI_mkI]
  first | done | rfl
theorem csrrci d a c : Statement (.csrrci d a c) := by
  intro v hw hv
  refine decode_of_raw hw hv ((raw73 _ _ _ (fOp_mkI ..)).trans ?_)
  show decodeSystem (mkI c a 7 d 0x73) = _
  unfold decodeSystem
  simp only [fF3_mkI, fRd_mkI, fRs1_mkI, fImmI_mkI]
  first | done | rfl
theorem flw d a i : Statement (.flw d a i) := by
  intro v hw hv
  refine decode_of_raw hw hv ((raw07 _ _ _ (fOp_mkI ..)).trans ?_)
  show (if fF3 (mkI i a 2 d 0x07) = 2 then some (.flw (fRd (mkI i a 2 d 0x07)) (fRs1 (mkI i a 2 d 0x07)) (fImmI (mkI i a 2 d 0x07))) else none : Option Instr) = _
  simp only [fF3_mkI, fRd_mkI, fRs1_mkI, fImmI_mkI]
  first | done | rfl
theorem fsw a b i : Statement (.fsw a b i) := by
  intro v hw hv
  refine decode_of_raw hw hv ((raw27 _ _ _ (fOp_mkS ..)).trans ?_)
  show (if fF3 (mkS i b a 2 0x27) = 2 then some (.fsw (fRs1 (mkS i b a 2 0x27)) (fRs2 (mkS i b a 2 0x27)) (fImmS (mkS i b a 2 0x27))) else none : Option Instr) = _
  simp only [fF3_mkS, fRs1_mkS, fRs2_mkS, fImmS_mkS]
  first | done | rfl
theorem fmaddS d a b c rm : Statement (.fmaddS d a b c rm) := by
  intro v hw hv
  refine decode_of_raw hw hv ((raw43 _ _ _ (fOp_mkR4 ..)).trans ?_)
  show decodeFused Instr.fmaddS (mkR4 c 0 b a rm.bits d 0x43) = _
  unfold decodeFused
  simp only [fF2_mkR4, fF3_mkR4, fRd_mkR4, fRs1_mkR4, fRs2_mkR4, fRs3_mkR4, Rm.ofBits_bits]
  first | done | rfl
theorem fmsubS d a b c rm : Statement (.fmsubS d a b c rm) := by
  intro v hw hv
  refine decode_of_raw hw hv ((raw47 _ _ _ (fOp_mkR4 ..)).trans ?_)
  show decodeFused Instr.fmsubS (mkR4 c 0 b a rm.bits d 0x47) = _
  unfold decodeFused
  simp only [fF2_mkR4, fF3_mkR4, fRd_mkR4, fRs1_mkR4, fRs2_mkR4, fRs3_mkR4, Rm.ofBits_bits]
  first | done | rfl
theorem fnmsubS d a b c rm : Statement (.fnmsubS d a b c rm) := by
  intro v hw hv
  refine decode_of_raw hw hv ((raw4B _ _ _ (fOp_mkR4 ..)).trans ?_)
  show decodeFused Instr.fnmsubS (mkR4 c 0 b a rm.bits d 0x4B) = _
  unfold decodeFused
  simp only [fF2_mkR4, fF3_mkR4, fRd_mkR4, fRs1_mkR4, fRs2_mkR4, fRs3_mkR4, Rm.ofBits_bits]
  first | done | rfl
theorem fnmaddS d a b c rm : Statement (.fnmaddS d a b c rm) := by
  intro v hw hv
  refine decode_of_raw hw hv ((raw4F _ _ _ (fOp_mkR4 ..)).trans ?_)
  show decodeFused Instr.fnmaddS (mkR4 c 0 b a rm.bits d 0x4F) = _
  unfold decodeFused
  simp only [fF2_mkR4, fF3_mkR4, fRd_mkR4, fRs1_mkR4, fRs2_mkR4, fRs3_mkR4, Rm.ofBits_bits]
  first | done | rfl
theorem faddS d a b rm : Statement (.faddS d a b rm) := by
  intro v hw hv
  refine decode_of_raw hw hv ((raw53 _ _ _ (fOp_mkR ..)).trans ?_)
  show decodeOpFp (mkR 0x0 b a rm.bits d 0x53) = _
  unfold decodeOpFp
  simp only [fF7_mkR, fF3_mkR, fRd_mkR, fRs1_mkR, fRs2_mkR, Rm.ofBits_bits]
  first | done | rfl
theorem fsubS d a b rm : Statement (.fsubS d a b rm) := by
  intro v hw hv
  refine decode_of_raw hw hv ((raw53 _ _ _ (fOp_mkR ..)).trans ?_)
  show decodeOpFp (mkR 0x4 b a rm.bits d 0x53) = _
  unfold decodeOpFp
  simp only [fF7_mkR, fF3_mkR, fRd_mkR, fRs1_mkR, fRs2_mkR, Rm.ofBits_bits]
  first | done | rfl
theorem fmulS d a b rm : Statement (.fmulS d a b rm) := by
  intro v hw hv
  refine decode_of_raw hw hv ((raw53 _ _ _ (fOp_mkR ..)).trans ?_)
  show decodeOpFp (mkR 0x8 b a rm.bits d 0x53) = _
  unfold decodeOpFp
  simp only [fF7_mkR, fF3_mkR, fRd_mkR, fRs1_mkR, fRs2_mkR, Rm.ofBits_bits]
  first | done | rfl
theorem fdivS d a b rm : Statement (.fdivS d a b rm) := by
  intro v hw hv
  refine decode_of_raw hw hv ((raw53 _ _ _ (fOp_mkR ..)).trans ?_)
  show decodeOpFp (mkR 0xc b a rm.bits d 0x53) = _
  unfold decodeOpFp
  simp only [fF7_mkR, fF3_mkR, fRd_mkR, fRs1_mkR, fRs2_mkR, Rm.ofBits_bits]
  first | done | rfl
theorem fsqrtS d a rm : Statement (.fsqrtS d a rm) := by
  intro v hw hv
  refine decode_of_raw hw hv ((raw53 _ _ _ (fOp_mkR ..)).trans ?_)
  show decodeOpFp (mkR 0x2C 0 a rm.bits d 0x53) = _
  unfold decodeOpFp
  simp only [fF7_mkR, fF3_mkR, fRd_mkR, fRs1_mkR, fRs2_mkR, Rm.ofBits_bits]
  first | done | rfl
theorem fsgnjS d a b : Statement (.fsgnjS d a b) := by
  intro v hw hv
  refine decode_of_raw hw hv ((raw53 _ _ _ (fOp_mkR ..)).trans ?_)
  show decodeOpFp (mkR 0x10 b a 0 d 0x53) = _
  unfold decodeOpFp
  simp only [fF7_mkR, fF3_mkR, fRd_mkR, fRs1_mkR, fRs2_mkR]
  first | done | rfl
theorem fsgnjnS d a b : Statement (.fsgnjnS d a b) := by
  intro v hw hv
  refine decode_of_raw hw hv ((raw53 _ _ _ (fOp_mkR ..)).trans ?_)
  show decodeOpFp (mkR 0x10 b a 1 d 0x53) = _
  unfold decodeOpFp
  simp only [fF7_mkR, fF3_mkR, fRd_mkR, fRs1_mkR, fRs2_mkR]
  first | done | rfl
theorem fsgnjxS d a b : Statement (.fsgnjxS d a b) := by
  intro v hw hv
  refine decode_of_raw hw hv ((raw53 _ _ _ (fOp_mkR ..)).trans ?_)
  show decodeOpFp (mkR 0x10 b a 2 d 0x53) = _
  unfold decodeOpFp
  simp only [fF7_mkR, fF3_mkR, fRd_mkR, fRs1_mkR, fRs2_mkR]
  first | done | rfl
theorem fminS d a b : Statement (.fminS d a b) := by
  intro v hw hv
  refine decode_of_raw hw hv ((raw53 _ _ _ (fOp_mkR ..)).trans ?_)
  show decodeOpFp (mkR 0x14 b a 0 d 0x53) = _
  unfold decodeOpFp
  simp only [fF7_mkR, fF3_mkR, fRd_mkR, fRs1_mkR, fRs2_mkR]
  first | done | rfl
theorem fmaxS d a b : Statement (.fmaxS d a b) := by
  intro v hw hv
  refine decode_of_raw hw hv ((raw53 _ _ _ (fOp_mkR ..)).trans ?_)
  show decodeOpFp (mkR 0x14 b a 1 d 0x53) = _
  unfold decodeOpFp
  simp only [fF7_mkR, fF3_mkR, fRd_mkR, fRs1_mkR, fRs2_mkR]
  first | done | rfl
theorem feqS d a b : Statement (.feqS d a b) := by
  intro v hw hv
  refine decode_of_raw hw hv ((raw53 _ _ _ (fOp_mkR ..)).trans ?_)
  show decodeOpFp (mkR 0x50 b a 2 d 0x53) = _
  unfold decodeOpFp
  simp only [fF7_mkR, fF3_mkR, fRd_mkR, fRs1_mkR, fRs2_mkR]
  first | done | rfl
theorem fltS d a b : Statement (.fltS d a b) := by
  intro v hw hv
  refine decode_of_raw hw hv ((raw53 _ _ _ (fOp_mkR ..)).trans ?_)
  show decodeOpFp (mkR 0x50 b a 1 d 0x53) = _
  unfold decodeOpFp
  simp only [fF7_mkR, fF3_mkR, fRd_mkR, fRs1_mkR, fRs2_mkR]
  first | done | rfl
theorem fleS d a b : Statement (.fleS d a b) := by
  intro v hw hv
  refine decode_of_raw hw hv ((raw53 _ _ _ (fOp_mkR ..)).trans ?_)
  show decodeOpFp (mkR 0x50 b a 0 d 0x53) = _
  unfold decodeOpFp
  simp only [fF7_mkR, fF3_mkR, fRd_mkR, fRs1_mkR, fRs2_mkR]
  first | done | rfl
theorem fclassS d a : Statement (.fclassS d a) := by
  intro v hw hv
  refine decode_of_raw hw hv ((raw53 _ _ _ (fOp_mkR ..)).trans ?_)
  show decodeOpFp (mkR 0x70 0 a 1 d 0x53) = _
  unfold decodeOpFp
  simp only [fF7_mkR, fF3_mkR, fRd_mkR, fRs1_mkR, fRs2_mkR]
  first | done | rfl
theorem fmvXW d a : Statement (.fmvXW d a) := by
  intro v hw hv
  refine decode_of_raw hw hv ((raw53 _ _ _ (fOp_mkR ..)).trans ?_)
  show decodeOpFp (mkR 0x70 0 a 0 d 0x53) = _
  unfold decodeOpFp
  simp only [fF7_mkR, fF3_mkR, fRd_mkR, fRs1_mkR, fRs2_mkR]
  first | done | rfl
theorem fcvtWS d a rm : Statement (.fcvtWS d a rm) := by
  intro v hw hv
  refine decode_of_raw hw hv ((raw53 _ _ _ (fOp_mkR ..)).trans ?_)
  show decodeOpFp (mkR 0x60 0 a rm.bits d 0x53) = _
  unfold decodeOpFp
  simp only [fF7_mkR, fF3_mkR, fRd_mkR, fRs1_mkR, fRs2_mkR, Rm.ofBits_bits]
  first | done | rfl
theorem fcvtWuS d a rm : Statement (.fcvtWuS d a rm) := by
  intro v hw hv
  refine decode_of_raw hw hv ((raw53 _ _ _ (fOp_mkR ..)).trans ?_)
  show decodeOpFp (mkR 0x60 1 a rm.bits d 0x53) = _
  unfold decodeOpFp
  simp only [fF7_mkR, fF3_mkR, fRd_mkR, fRs1_mkR, fRs2_mkR, Rm.ofBits_bits]
  first | done | rfl
theorem fcvtLS d a rm : Statement (.fcvtLS d a rm) := by
  intro v hw hv
  refine decode_of_raw hw hv ((raw53 _ _ _ (fOp_mkR ..)).trans ?_)
  show decodeOpFp (mkR 0x60 2 a rm.bits d 0x53) = _
  unfold decodeOpFp
  simp only [fF7_mkR, fF3_mkR, fRd_mkR, fRs1_mkR, fRs2_mkR, Rm.ofBits_bits]
  first | done | rfl
theorem fcvtLuS d a rm : Statement (.fcvtLuS d a rm) := by
  intro v hw hv
  refine decode_of_raw hw hv ((raw53 _ _ _ (fOp_mkR ..)).trans ?_)
  show decodeOpFp (mkR 0x60 3 a rm.bits d 0x53) = _
  unfold decodeOpFp
  simp only [fF7_mkR, fF3_mkR, fRd_mkR, fRs1_mkR, fRs2_mkR, Rm.ofBits_bits]
  first | done | rfl
theorem fcvtSW d a rm : Statement (.fcvtSW d a rm) := by
  intro v hw hv
  refine decode_of_raw hw hv ((raw53 _ _ _ (fOp_mkR ..)).trans ?_)
  show decodeOpFp (mkR 0x68 0 a rm.bits d 0x53) = _
  unfold decodeOpFp
  simp only [fF7_mkR, fF3_mkR, fRd_mkR, fRs1_mkR, fRs2_mkR, Rm.ofBits_bits]
  first | done | rfl
theorem fcvtSWu d a rm : Statement (.fcvtSWu d a rm) := by
  intro v hw hv
  refine decode_of_raw hw hv ((raw53 _ _ _ (fOp_mkR ..)).trans ?_)
  show decodeOpFp (mkR 0x68 1 a rm.bits d 0x53) = _
  unfold decodeOpFp
  simp only [fF7_mkR, fF3_mkR, fRd_mkR, fRs1_mkR, fRs2_mkR, Rm.ofBits_bits]
  first | done | rfl
theorem fcvtSL d a rm : Statement (.fcvtSL d a rm) := by
  intro v hw hv
  refine decode_of_raw hw hv ((raw53 _ _ _ (fOp_mkR ..)).trans ?_)
  show decodeOpFp (mkR 0x68 2 a rm.bits d 0x53) = _
  unfold decodeOpFp
  simp only [fF7_mkR, fF3_mkR, fRd_mkR, fRs1_mkR, fRs2_mkR, Rm.ofBits_bits]
  first | done | rfl
theorem fcvtSLu d a rm : Statement (.fcvtSLu d a rm) := by
  intro v hw hv
  refine decode_of_raw hw hv ((raw53 _ _ _ (fOp_mkR ..)).trans ?_)
  show decodeOpFp (mkR 0x68 3 a rm.bits d 0x53) = _
  unfold decodeOpFp
  simp only [fF7_mkR, fF3_mkR, fRd_mkR, fRs1_mkR, fRs2_mkR, Rm.ofBits_bits]
  first | done | rfl
theorem fmvWX d a : Statement (.fmvWX d a) := by
  intro v hw hv
  refine decode_of_raw hw hv ((raw53 _ _ _ (fOp_mkR ..)).trans ?_)
  show decodeOpFp (mkR 0x78 0 a 0 d 0x53) = _
  unfold decodeOpFp
  simp only [fF7_mkR, fF3_mkR, fRd_mkR, fRs1_mkR, fRs2_mkR]
  first | done | rfl
theorem sopen d a : Statement (.sopen d a) := by
  intro v hw hv
  refine decode_of_raw hw hv ((raw0B _ _ _ (fOp_mkR ..)).trans ?_)
  show decodeC0 _ (mkR 0 0 (wide3 a) 0 (wide3 d) 0x0B) = _
  unfold decodeC0 decodeScope
  simp only [fF7_mkR, fF3_mkR, fRd_mkR, fRs1_mkR, fRs2_mkR, reg3_wide3]
  first | done | rfl
theorem sclose d a : Statement (.sclose d a) := by
  intro v hw hv
  refine decode_of_raw hw hv ((raw0B _ _ _ (fOp_mkR ..)).trans ?_)
  show decodeC0 _ (mkR 1 0 (wide3 a) 0 d 0x0B) = _
  unfold decodeC0 decodeScope
  simp only [fF7_mkR, fF3_mkR, fRd_mkR, fRs1_mkR, fRs2_mkR, reg3_wide3]
  first | done | rfl
theorem sclosea a : Statement (.sclosea a) := by
  intro v hw hv
  cases v <;> cases hv
  all_goals
    refine decode_of_raw hw rfl ((raw0B _ _ _ (fOp_mkR ..)).trans ?_)
    show decodeC0 _ (mkR 2 0 (wide3 a) 0 0 0x0B) = _
    unfold decodeC0 decodeScope
    simp only [fF7_mkR, fF3_mkR, fRd_mkR, fRs1_mkR, fRs2_mkR, reg3_wide3]
    first | done | rfl
theorem scloseaV2 a : Statement (.scloseaV2 a) := by
  intro v hw hv
  cases v <;> cases hv
  all_goals
    refine decode_of_raw hw rfl ((raw0B _ _ _ (fOp_mkR ..)).trans ?_)
    show decodeC0 _ (mkR 0x0A 0 (wide3 a) 0 0 0x0B) = _
    unfold decodeC0 decodeScope
    simp only [fF7_mkR, fF3_mkR, fRd_mkR, fRs1_mkR, fRs2_mkR, reg3_wide3]
    first | done | rfl
theorem senter d a : Statement (.senter d a) := by
  intro v hw hv
  cases v <;> cases hv
  all_goals
    refine decode_of_raw hw rfl ((raw0B _ _ _ (fOp_mkR ..)).trans ?_)
    show decodeC0 _ (mkR 3 0 a 0 (wide3 d) 0x0B) = _
    unfold decodeC0 decodeScope
    simp only [fF7_mkR, fF3_mkR, fRd_mkR, fRs1_mkR, fRs2_mkR, reg3_wide3]
    first | done | rfl
theorem senterV2 d a : Statement (.senterV2 d a) := by
  intro v hw hv
  cases v <;> cases hv
  all_goals
    refine decode_of_raw hw rfl ((raw0B _ _ _ (fOp_mkR ..)).trans ?_)
    show decodeC0 _ (mkR 0x0B 0 a 0 (wide3 d) 0x0B) = _
    unfold decodeC0 decodeScope
    simp only [fF7_mkR, fF3_mkR, fRd_mkR, fRs1_mkR, fRs2_mkR, reg3_wide3]
    first | done | rfl
theorem scancel a : Statement (.scancel a) := by
  intro v hw hv
  cases v <;> cases hv
  all_goals
    refine decode_of_raw hw rfl ((raw0B _ _ _ (fOp_mkR ..)).trans ?_)
    show decodeC0 _ (mkR 4 0 (wide3 a) 0 0 0x0B) = _
    unfold decodeC0 decodeScope
    simp only [fF7_mkR, fF3_mkR, fRd_mkR, fRs1_mkR, fRs2_mkR, reg3_wide3]
    first | done | rfl
theorem scancelV1V2 a : Statement (.scancelV1V2 a) := by
  intro v hw hv
  cases v <;> cases hv
  all_goals
    refine decode_of_raw hw rfl ((raw0B _ _ _ (fOp_mkR ..)).trans ?_)
    show decodeC0 _ (mkR 2 0 (wide3 a) 0 0 0x0B) = _
    unfold decodeC0 decodeScope
    simp only [fF7_mkR, fF3_mkR, fRd_mkR, fRs1_mkR, fRs2_mkR, reg3_wide3]
    first | done | rfl
theorem succeed d : Statement (.succeed d) := by
  intro v hw hv
  cases v <;> cases hv
  all_goals
    refine decode_of_raw hw rfl ((raw0B _ _ _ (fOp_mkR ..)).trans ?_)
    show decodeC0 _ (mkR 5 0 0 0 d 0x0B) = _
    unfold decodeC0 decodeScope
    simp only [fF7_mkR, fF3_mkR, fRd_mkR, fRs1_mkR, fRs2_mkR]
    first | done | rfl
theorem succeedV1V2 d : Statement (.succeedV1V2 d) := by
  intro v hw hv
  cases v <;> cases hv
  all_goals
    refine decode_of_raw hw rfl ((raw0B _ _ _ (fOp_mkR ..)).trans ?_)
    show decodeC0 _ (mkR 3 0 0 0 d 0x0B) = _
    unfold decodeC0 decodeScope
    simp only [fF7_mkR, fF3_mkR, fRd_mkR, fRs1_mkR, fRs2_mkR]
    first | done | rfl
theorem sstat d a : Statement (.sstat d a) := by
  intro v hw hv
  cases v <;> cases hv
  all_goals
    refine decode_of_raw hw rfl ((raw0B _ _ _ (fOp_mkR ..)).trans ?_)
    show decodeC0 _ (mkR 9 0 (wide3 a) 0 d 0x0B) = _
    unfold decodeC0 decodeScope
    simp only [fF7_mkR, fF3_mkR, fRd_mkR, fRs1_mkR, fRs2_mkR, reg3_wide3]
    first | done | rfl
theorem sstatV1V2 d a : Statement (.sstatV1V2 d a) := by
  intro v hw hv
  cases v <;> cases hv
  all_goals
    refine decode_of_raw hw rfl ((raw0B _ _ _ (fOp_mkR ..)).trans ?_)
    show decodeC0 _ (mkR 7 0 (wide3 a) 0 d 0x0B) = _
    unfold decodeC0 decodeScope
    simp only [fF7_mkR, fF3_mkR, fRd_mkR, fRs1_mkR, fRs2_mkR, reg3_wide3]
    first | done | rfl
theorem spawn d a b c : Statement (.spawn d a b c) := by
  intro v hw hv
  refine decode_of_raw hw hv ((raw0B _ _ _ (fOp_mkR4 ..)).trans ?_)
  show decodeC0 _ (mkR4 c 0 b a 7 d 0x0B) = _
  unfold decodeC0
  simp only [fF2_mkR4, fF3_mkR4, fRd_mkR4, fRs1_mkR4, fRs2_mkR4, fRs3_mkR4]
  first | done | rfl
theorem spawnIn d a b c : Statement (.spawnIn d a b c) := by
  intro v hw hv
  refine decode_of_raw hw hv ((raw0B _ _ _ (fOp_mkR4 ..)).trans ?_)
  show decodeC0 _ (mkR4 c 1 b a 7 (wide3 d) 0x0B) = _
  unfold decodeC0
  simp only [fF2_mkR4, fF3_mkR4, fRd_mkR4, fRs1_mkR4, fRs2_mkR4, fRs3_mkR4, reg3_wide3]
  first | done | rfl
theorem tsknew d a b : Statement (.tsknew d a b) := by
  intro v hw hv
  refine decode_of_raw hw hv ((raw0B _ _ _ (fOp_mkR ..)).trans ?_)
  show decodeC0 _ (mkR 0 b a 1 d 0x0B) = _
  unfold decodeC0 decodeTask
  simp only [fF7_mkR, fF3_mkR, fRd_mkR, fRs1_mkR, fRs2_mkR]
  first | done | rfl
theorem tskpub a : Statement (.tskpub a) := by
  intro v hw hv
  refine decode_of_raw hw hv ((raw0B _ _ _ (fOp_mkR ..)).trans ?_)
  show decodeC0 _ (mkR 1 0 a 1 0 0x0B) = _
  unfold decodeC0 decodeTask
  simp only [fF7_mkR, fF3_mkR, fRd_mkR, fRs1_mkR, fRs2_mkR]
  first | done | rfl
theorem tsksig a : Statement (.tsksig a) := by
  intro v hw hv
  refine decode_of_raw hw hv ((raw0B _ _ _ (fOp_mkR ..)).trans ?_)
  show decodeC0 _ (mkR 2 0 a 1 0 0x0B) = _
  unfold decodeC0 decodeTask
  simp only [fF7_mkR, fF3_mkR, fRd_mkR, fRs1_mkR, fRs2_mkR]
  first | done | rfl
theorem tskstat d a : Statement (.tskstat d a) := by
  intro v hw hv
  refine decode_of_raw hw hv ((raw0B _ _ _ (fOp_mkR ..)).trans ?_)
  show decodeC0 _ (mkR 3 0 a 1 d 0x0B) = _
  unfold decodeC0 decodeTask
  simp only [fF7_mkR, fF3_mkR, fRd_mkR, fRs1_mkR, fRs2_mkR]
  first | done | rfl
theorem rnginit d a b : Statement (.rnginit d a b) := by
  intro v hw hv
  refine decode_of_raw hw hv ((raw0B _ _ _ (fOp_mkR ..)).trans ?_)
  show decodeC0 _ (mkR 4 b a 1 d 0x0B) = _
  unfold decodeC0 decodeTask
  simp only [fF7_mkR, fF3_mkR, fRd_mkR, fRs1_mkR, fRs2_mkR]
  first | done | rfl
theorem rclaim d : Statement (.rclaim d) := by
  intro v hw hv
  refine decode_of_raw hw hv ((raw0B _ _ _ (fOp_mkR ..)).trans ?_)
  show decodeC0 _ (mkR 5 0 0 1 d 0x0B) = _
  unfold decodeC0 decodeTask
  simp only [fF7_mkR, fF3_mkR, fRd_mkR, fRs1_mkR, fRs2_mkR]
  first | done | rfl
theorem rsteal d a : Statement (.rsteal d a) := by
  intro v hw hv
  refine decode_of_raw hw hv ((raw0B _ _ _ (fOp_mkR ..)).trans ?_)
  show decodeC0 _ (mkR 6 0 a 1 d 0x0B) = _
  unfold decodeC0 decodeTask
  simp only [fF7_mkR, fF3_mkR, fRd_mkR, fRs1_mkR, fRs2_mkR]
  first | done | rfl
theorem msend a b : Statement (.msend a b) := by
  intro v hw hv
  refine decode_of_raw hw hv ((raw0B _ _ _ (fOp_mkR ..)).trans ?_)
  show decodeC0 _ (mkR 0 b a 2 0 0x0B) = _
  unfold decodeC0 decodeMessage
  simp only [fF7_mkR, fF3_mkR, fRd_mkR, fRs1_mkR, fRs2_mkR]
  first | done | rfl
theorem msend4 a b : Statement (.msend4 a b) := by
  intro v hw hv
  refine decode_of_raw hw hv ((raw0B _ _ _ (fOp_mkR ..)).trans ?_)
  show decodeC0 _ (mkR 1 b a 2 0 0x0B) = _
  unfold decodeC0 decodeMessage
  simp only [fF7_mkR, fF3_mkR, fRd_mkR, fRs1_mkR, fRs2_mkR]
  first | done | rfl
theorem mrecv d a : Statement (.mrecv d a) := by
  intro v hw hv
  refine decode_of_raw hw hv ((raw0B _ _ _ (fOp_mkR ..)).trans ?_)
  show decodeC0 _ (mkR 2 0 a 2 d 0x0B) = _
  unfold decodeC0 decodeMessage
  simp only [fF7_mkR, fF3_mkR, fRd_mkR, fRs1_mkR, fRs2_mkR]
  first | done | rfl
theorem mrecv4 d a : Statement (.mrecv4 d a) := by
  intro v hw hv
  refine decode_of_raw hw hv ((raw0B _ _ _ (fOp_mkR ..)).trans ?_)
  show decodeC0 _ (mkR 3 0 a 2 d 0x0B) = _
  unfold decodeC0 decodeMessage
  simp only [fF7_mkR, fF3_mkR, fRd_mkR, fRs1_mkR, fRs2_mkR]
  first | done | rfl
theorem mpeek d a : Statement (.mpeek d a) := by
  intro v hw hv
  refine decode_of_raw hw hv ((raw0B _ _ _ (fOp_mkR ..)).trans ?_)
  show decodeC0 _ (mkR 4 0 a 2 d 0x0B) = _
  unfold decodeC0 decodeMessage
  simp only [fF7_mkR, fF3_mkR, fRd_mkR, fRs1_mkR, fRs2_mkR]
  first | done | rfl
theorem bar d a : Statement (.bar d a) := by
  intro v hw hv
  refine decode_of_raw hw hv ((raw0B _ _ _ (fOp_mkR ..)).trans ?_)
  show decodeC0 _ (mkR 5 0 a 2 d 0x0B) = _
  unfold decodeC0 decodeMessage
  simp only [fF7_mkR, fF3_mkR, fRd_mkR, fRs1_mkR, fRs2_mkR]
  first | done | rfl
theorem waiteq d a b : Statement (.waiteq d a b) := by
  intro v hw hv
  refine decode_of_raw hw hv ((raw0B _ _ _ (fOp_mkR ..)).trans ?_)
  show decodeC0 _ (mkR 0 b a 3 d 0x0B) = _
  unfold decodeC0 decodeWait
  simp only [fF7_mkR, fF3_mkR, fRd_mkR, fRs1_mkR, fRs2_mkR]
  first | done | rfl
theorem waitne d a b : Statement (.waitne d a b) := by
  intro v hw hv
  refine decode_of_raw hw hv ((raw0B _ _ _ (fOp_mkR ..)).trans ?_)
  show decodeC0 _ (mkR 1 b a 3 d 0x0B) = _
  unfold decodeC0 decodeWait
  simp only [fF7_mkR, fF3_mkR, fRd_mkR, fRs1_mkR, fRs2_mkR]
  first | done | rfl
theorem waitge d a b : Statement (.waitge d a b) := by
  intro v hw hv
  refine decode_of_raw hw hv ((raw0B _ _ _ (fOp_mkR ..)).trans ?_)
  show decodeC0 _ (mkR 2 b a 3 d 0x0B) = _
  unfold decodeC0 decodeWait
  simp only [fF7_mkR, fF3_mkR, fRd_mkR, fRs1_mkR, fRs2_mkR]
  first | done | rfl
theorem void d : Statement (.void d) := by
  intro v hw hv
  refine decode_of_raw hw hv ((raw0B _ _ _ (fOp_mkR ..)).trans ?_)
  show decodeC0 _ (mkR 3 0 0 3 d 0x0B) = _
  unfold decodeC0 decodeWait
  simp only [fF7_mkR, fF3_mkR, fRd_mkR, fRs1_mkR, fRs2_mkR]
  first | done | rfl
theorem vtest d a : Statement (.vtest d a) := by
  intro v hw hv
  refine decode_of_raw hw hv ((raw0B _ _ _ (fOp_mkR ..)).trans ?_)
  show decodeC0 _ (mkR 4 0 a 3 d 0x0B) = _
  unfold decodeC0 decodeWait
  simp only [fF7_mkR, fF3_mkR, fRd_mkR, fRs1_mkR, fRs2_mkR]
  first | done | rfl
theorem bvoid a i : Statement (.bvoid a i) := by
  intro v hw hv
  refine decode_of_raw hw hv ((raw0B _ _ _ (fOp_mkB ..)).trans ?_)
  show decodeC0 _ (mkB i 0 a 4 0x0B) = _
  unfold decodeC0
  simp only [fF3_mkB, fRs1_mkB, fRs2_mkB, fImmB_mkB]
  first | done | rfl
theorem bnvoid a i : Statement (.bnvoid a i) := by
  intro v hw hv
  refine decode_of_raw hw hv ((raw0B _ _ _ (fOp_mkB ..)).trans ?_)
  show decodeC0 _ (mkB i 0 a 5 0x0B) = _
  unfold decodeC0
  simp only [fF3_mkB, fRs1_mkB, fRs2_mkB, fImmB_mkB]
  first | done | rfl
theorem jtab a b i : Statement (.jtab a b i) := by
  intro v hw hv
  refine decode_of_raw hw hv ((raw0B _ _ _ (fOp_mkS ..)).trans ?_)
  show decodeC0 _ (mkS i b a 6 0x0B) = _
  unfold decodeC0
  simp only [fF3_mkS, fRs1_mkS, fRs2_mkS, fImmS_mkS]
  first | done | rfl
theorem lda r z d a : Statement (.lda r z d a) := by
  intro v hw hv
  refine decode_of_raw hw hv ((raw2B _ _ _ (fOp_mkR ..)).trans ?_)
  show decodeC1 (mkR (r.bits ++ z.bits ++ 0#2) 0 a 0 d 0x2B) = _
  unfold decodeC1 decodeOrdered
  simp only [fF7_mkR, fF3_mkR, fRd_mkR, fRs1_mkR, fRs2_mkR, mkR_ord_r, mkR_ord_z, mkR_ord_k, Reach.ofBits_bits, Size.ofBits_bits]
  first | done | rfl
theorem stl r z a b : Statement (.stl r z a b) := by
  intro v hw hv
  refine decode_of_raw hw hv ((raw2B _ _ _ (fOp_mkR ..)).trans ?_)
  show decodeC1 (mkR (r.bits ++ z.bits ++ 1#2) b a 0 0 0x2B) = _
  unfold decodeC1 decodeOrdered
  simp only [fF7_mkR, fF3_mkR, fRd_mkR, fRs1_mkR, fRs2_mkR, mkR_ord_r, mkR_ord_z, mkR_ord_k, Reach.ofBits_bits, Size.ofBits_bits]
  first | done | rfl
theorem lds z d a : Statement (.lds z d a) := by
  intro v hw hv
  refine decode_of_raw hw hv ((raw2B _ _ _ (fOp_mkR ..)).trans ?_)
  show decodeC1 (mkR (0#3 ++ z.bits ++ 2#2) 0 a 0 d 0x2B) = _
  unfold decodeC1 decodeOrdered
  simp only [fF7_mkR, fF3_mkR, fRd_mkR, fRs1_mkR, fRs2_mkR, mkR_ord_r, mkR_ord_z, mkR_ord_k, Reach.ofBits_bits, Size.ofBits_bits]
  first | done | rfl
theorem mcst z a b : Statement (.mcst z a b) := by
  intro v hw hv
  refine decode_of_raw hw hv ((raw2B _ _ _ (fOp_mkR ..)).trans ?_)
  show decodeC1 (mkR (0#3 ++ z.bits ++ 3#2) b a 0 0 0x2B) = _
  unfold decodeC1 decodeOrdered
  simp only [fF7_mkR, fF3_mkR, fRd_mkR, fRs1_mkR, fRs2_mkR, mkR_ord_r, mkR_ord_z, mkR_ord_k, Reach.ofBits_bits, Size.ofBits_bits]
  first | done | rfl
theorem amoadd r z d a b : Statement (.amoadd r z d a b) := by
  intro v hw hv
  refine decode_of_raw hw hv ((raw2B _ _ _ (fOp_mkR ..)).trans ?_)
  show decodeC1 (mkR (r.bits ++ z.bit ++ 0#3) b a 1 d 0x2B) = _
  unfold decodeC1 decodeAmo
  simp only [fF7_mkR, fF3_mkR, fRd_mkR, fRs1_mkR, fRs2_mkR, mkR_amo_r, mkR_amo_z, mkR_amo_k, Reach.ofBits_bits, AWidth.ofBit_bit]
  first | done | rfl
theorem amoswp r z d a b : Statement (.amoswp r z d a b) := by
  intro v hw hv
  refine decode_of_raw hw hv ((raw2B _ _ _ (fOp_mkR ..)).trans ?_)
  show decodeC1 (mkR (r.bits ++ z.bit ++ 1#3) b a 1 d 0x2B) = _
  unfold decodeC1 decodeAmo
  simp only [fF7_mkR, fF3_mkR, fRd_mkR, fRs1_mkR, fRs2_mkR, mkR_amo_r, mkR_amo_z, mkR_amo_k, Reach.ofBits_bits, AWidth.ofBit_bit]
  first | done | rfl
theorem amocas r z d a b : Statement (.amocas r z d a b) := by
  intro v hw hv
  refine decode_of_raw hw hv ((raw2B _ _ _ (fOp_mkR ..)).trans ?_)
  show decodeC1 (mkR (r.bits ++ z.bit ++ 2#3) b a 1 d 0x2B) = _
  unfold decodeC1 decodeAmo
  simp only [fF7_mkR, fF3_mkR, fRd_mkR, fRs1_mkR, fRs2_mkR, mkR_amo_r, mkR_amo_z, mkR_amo_k, Reach.ofBits_bits, AWidth.ofBit_bit]
  first | done | rfl
theorem amomax r z d a b : Statement (.amomax r z d a b) := by
  intro v hw hv
  refine decode_of_raw hw hv ((raw2B _ _ _ (fOp_mkR ..)).trans ?_)
  show decodeC1 (mkR (r.bits ++ z.bit ++ 3#3) b a 1 d 0x2B) = _
  unfold decodeC1 decodeAmo
  simp only [fF7_mkR, fF3_mkR, fRd_mkR, fRs1_mkR, fRs2_mkR, mkR_amo_r, mkR_amo_z, mkR_amo_k, Reach.ofBits_bits, AWidth.ofBit_bit]
  first | done | rfl
theorem amomin r z d a b : Statement (.amomin r z d a b) := by
  intro v hw hv
  refine decode_of_raw hw hv ((raw2B _ _ _ (fOp_mkR ..)).trans ?_)
  show decodeC1 (mkR (r.bits ++ z.bit ++ 4#3) b a 1 d 0x2B) = _
  unfold decodeC1 decodeAmo
  simp only [fF7_mkR, fF3_mkR, fRd_mkR, fRs1_mkR, fRs2_mkR, mkR_amo_r, mkR_amo_z, mkR_amo_k, Reach.ofBits_bits, AWidth.ofBit_bit]
  first | done | rfl
theorem amoand r z d a b : Statement (.amoand r z d a b) := by
  intro v hw hv
  refine decode_of_raw hw hv ((raw2B _ _ _ (fOp_mkR ..)).trans ?_)
  show decodeC1 (mkR (r.bits ++ z.bit ++ 5#3) b a 1 d 0x2B) = _
  unfold decodeC1 decodeAmo
  simp only [fF7_mkR, fF3_mkR, fRd_mkR, fRs1_mkR, fRs2_mkR, mkR_amo_r, mkR_amo_z, mkR_amo_k, Reach.ofBits_bits, AWidth.ofBit_bit]
  first | done | rfl
theorem amoor r z d a b : Statement (.amoor r z d a b) := by
  intro v hw hv
  refine decode_of_raw hw hv ((raw2B _ _ _ (fOp_mkR ..)).trans ?_)
  show decodeC1 (mkR (r.bits ++ z.bit ++ 6#3) b a 1 d 0x2B) = _
  unfold decodeC1 decodeAmo
  simp only [fF7_mkR, fF3_mkR, fRd_mkR, fRs1_mkR, fRs2_mkR, mkR_amo_r, mkR_amo_z, mkR_amo_k, Reach.ofBits_bits, AWidth.ofBit_bit]
  first | done | rfl
theorem amoxor r z d a b : Statement (.amoxor r z d a b) := by
  intro v hw hv
  refine decode_of_raw hw hv ((raw2B _ _ _ (fOp_mkR ..)).trans ?_)
  show decodeC1 (mkR (r.bits ++ z.bit ++ 7#3) b a 1 d 0x2B) = _
  unfold decodeC1 decodeAmo
  simp only [fF7_mkR, fF3_mkR, fRd_mkR, fRs1_mkR, fRs2_mkR, mkR_amo_r, mkR_amo_z, mkR_amo_k, Reach.ofBits_bits, AWidth.ofBit_bit]
  first | done | rfl
theorem fenceReach r p s : Statement (.fenceReach r p s) := by
  intro v hw hv
  refine decode_of_raw hw hv ((raw2B _ _ _ (fOp_mkI ..)).trans ?_)
  show decodeC1 (mkI (r.bits ++ p ++ s ++ 0#3) 0 2 0 0x2B) = _
  unfold decodeC1 decodeFenceReach
  simp only [fF3_mkI, fRd_mkI, fRs1_mkI, fImmI_mkI, mkI_reach, mkI_pred, mkI_succ, mkI_zero, Reach.ofBits_bits]
  first | done | rfl
theorem cpy t a b c : Statement (.cpy t a b c) := by
  intro v hw hv
  refine decode_of_raw hw hv ((raw2B _ _ _ (fOp_mkR4 ..)).trans ?_)
  show decodeC1 (mkR4 c (t.extractLsb' 5 1 ++ 0#1) b a 3 (t.extractLsb' 0 5) 0x2B) = _
  unfold decodeC1 decodeCpy
  simp only [fF2_mkR4, fF3_mkR4, fRd_mkR4, fRs1_mkR4, fRs2_mkR4, fRs3_mkR4, mkR4_low, fTag_mkR4]
  first | done | rfl
theorem cpymc t a b c : Statement (.cpymc t a b c) := by
  intro v hw hv
  refine decode_of_raw hw hv ((raw2B _ _ _ (fOp_mkR4 ..)).trans ?_)
  show decodeC1 (mkR4 c (t.extractLsb' 5 1 ++ 1#1) b a 3 (t.extractLsb' 0 5) 0x2B) = _
  unfold decodeC1 decodeCpy
  simp only [fF2_mkR4, fF3_mkR4, fRd_mkR4, fRs1_mkR4, fRs2_mkR4, fRs3_mkR4, mkR4_low, fTag_mkR4]
  first | done | rfl
theorem cpy2d t a b c : Statement (.cpy2d t a b c) := by
  intro v hw hv
  refine decode_of_raw hw hv ((raw2B _ _ _ (fOp_mkR4 ..)).trans ?_)
  show decodeC1 (mkR4 c (t.extractLsb' 5 1 ++ 0#1) b a 7 (t.extractLsb' 0 5) 0x2B) = _
  unfold decodeC1 decodeCpy2d
  simp only [fF2_mkR4, fF3_mkR4, fRd_mkR4, fRs1_mkR4, fRs2_mkR4, fRs3_mkR4, mkR4_low, fTag_mkR4]
  first | done | rfl
theorem cbcfg c b : Statement (.cbcfg c b) := by
  intro v hw hv
  refine decode_of_raw hw hv ((raw2B _ _ _ (fOp_mkR ..)).trans ?_)
  show decodeC1 (mkR 0 b (wide4 c) 4 0 0x2B) = _
  unfold decodeC1 decodeBuffers
  simp only [fF7_mkR, fF3_mkR, fRd_mkR, fRs1_mkR, fRs2_mkR, reg4_wide4]
  first | done | rfl
theorem cbwaitf d c b : Statement (.cbwaitf d c b) := by
  intro v hw hv
  refine decode_of_raw hw hv ((raw2B _ _ _ (fOp_mkR ..)).trans ?_)
  show decodeC1 (mkR 1 b (wide4 c) 4 d 0x2B) = _
  unfold decodeC1 decodeBuffers
  simp only [fF7_mkR, fF3_mkR, fRd_mkR, fRs1_mkR, fRs2_mkR, reg4_wide4]
  first | done | rfl
theorem cbwaite d c b : Statement (.cbwaite d c b) := by
  intro v hw hv
  refine decode_of_raw hw hv ((raw2B _ _ _ (fOp_mkR ..)).trans ?_)
  show decodeC1 (mkR 2 b (wide4 c) 4 d 0x2B) = _
  unfold decodeC1 decodeBuffers
  simp only [fF7_mkR, fF3_mkR, fRd_mkR, fRs1_mkR, fRs2_mkR, reg4_wide4]
  first | done | rfl
theorem cbadvp c b : Statement (.cbadvp c b) := by
  intro v hw hv
  refine decode_of_raw hw hv ((raw2B _ _ _ (fOp_mkR ..)).trans ?_)
  show decodeC1 (mkR 3 b (wide4 c) 4 0 0x2B) = _
  unfold decodeC1 decodeBuffers
  simp only [fF7_mkR, fF3_mkR, fRd_mkR, fRs1_mkR, fRs2_mkR, reg4_wide4]
  first | done | rfl
theorem cbadvc c b : Statement (.cbadvc c b) := by
  intro v hw hv
  refine decode_of_raw hw hv ((raw2B _ _ _ (fOp_mkR ..)).trans ?_)
  show decodeC1 (mkR 4 b (wide4 c) 4 0 0x2B) = _
  unfold decodeC1 decodeBuffers
  simp only [fF7_mkR, fF3_mkR, fRd_mkR, fRs1_mkR, fRs2_mkR, reg4_wide4]
  first | done | rfl
theorem cbstat d c b : Statement (.cbstat d c b) := by
  intro v hw hv
  refine decode_of_raw hw hv ((raw2B _ _ _ (fOp_mkR ..)).trans ?_)
  show decodeC1 (mkR 5 b (wide4 c) 4 d 0x2B) = _
  unfold decodeC1 decodeBuffers
  simp only [fF7_mkR, fF3_mkR, fRd_mkR, fRs1_mkR, fRs2_mkR, reg4_wide4]
  first | done | rfl
theorem tagwa d a : Statement (.tagwa d a) := by
  intro v hw hv
  refine decode_of_raw hw hv ((raw2B _ _ _ (fOp_mkR ..)).trans ?_)
  show decodeC1 (mkR 6 0 a 4 d 0x2B) = _
  unfold decodeC1 decodeBuffers
  simp only [fF7_mkR, fF3_mkR, fRd_mkR, fRs1_mkR, fRs2_mkR]
  first | done | rfl
theorem tagwl d a : Statement (.tagwl d a) := by
  intro v hw hv
  refine decode_of_raw hw hv ((raw2B _ _ _ (fOp_mkR ..)).trans ?_)
  show decodeC1 (mkR 7 0 a 4 d 0x2B) = _
  unfold decodeC1 decodeBuffers
  simp only [fF7_mkR, fF3_mkR, fRd_mkR, fRs1_mkR, fRs2_mkR]
  first | done | rfl
theorem tagff d a : Statement (.tagff d a) := by
  intro v hw hv
  refine decode_of_raw hw hv ((raw2B _ _ _ (fOp_mkR ..)).trans ?_)
  show decodeC1 (mkR 8 0 a 4 d 0x2B) = _
  unfold decodeC1 decodeBuffers
  simp only [fF7_mkR, fF3_mkR, fRd_mkR, fRs1_mkR, fRs2_mkR]
  first | done | rfl
theorem tagclr a : Statement (.tagclr a) := by
  intro v hw hv
  refine decode_of_raw hw hv ((raw2B _ _ _ (fOp_mkR ..)).trans ?_)
  show decodeC1 (mkR 9 0 a 4 0 0x2B) = _
  unfold decodeC1 decodeBuffers
  simp only [fF7_mkR, fF3_mkR, fRd_mkR, fRs1_mkR, fRs2_mkR]
  first | done | rfl
theorem bgive a b : Statement (.bgive a b) := by
  intro v hw hv
  refine decode_of_raw hw hv ((raw2B _ _ _ (fOp_mkR ..)).trans ?_)
  show decodeC1 (mkR 0x0A b a 4 0 0x2B) = _
  unfold decodeC1 decodeBuffers
  simp only [fF7_mkR, fF3_mkR, fRd_mkR, fRs1_mkR, fRs2_mkR]
  first | done | rfl
theorem btake d a b : Statement (.btake d a b) := by
  intro v hw hv
  refine decode_of_raw hw hv ((raw2B _ _ _ (fOp_mkR ..)).trans ?_)
  show decodeC1 (mkR 0x0B b a 4 d 0x2B) = _
  unfold decodeC1 decodeBuffers
  simp only [fF7_mkR, fF3_mkR, fRd_mkR, fRs1_mkR, fRs2_mkR]
  first | done | rfl
theorem bstat d a : Statement (.bstat d a) := by
  intro v hw hv
  refine decode_of_raw hw hv ((raw2B _ _ _ (fOp_mkR ..)).trans ?_)
  show decodeC1 (mkR 0x0C 0 a 4 d 0x2B) = _
  unfold decodeC1 decodeBuffers
  simp only [fF7_mkR, fF3_mkR, fRd_mkR, fRs1_mkR, fRs2_mkR]
  first | done | rfl
theorem qld d q b : Statement (.qld d q b) := by
  intro v hw hv
  refine decode_of_raw hw hv ((raw2B _ _ _ (fOp_mkR ..)).trans ?_)
  show decodeC1 (mkR 0 b (wide4 q) 5 d 0x2B) = _
  unfold decodeC1 decodeRefs
  simp only [fF7_mkR, fF3_mkR, fRd_mkR, fRs1_mkR, fRs2_mkR, reg4_wide4]
  first | done | rfl
theorem qldw d q b : Statement (.qldw d q b) := by
  intro v hw hv
  refine decode_of_raw hw hv ((raw2B _ _ _ (fOp_mkR ..)).trans ?_)
  show decodeC1 (mkR 1 b (wide4 q) 5 d 0x2B) = _
  unfold decodeC1 decodeRefs
  simp only [fF7_mkR, fF3_mkR, fRd_mkR, fRs1_mkR, fRs2_mkR, reg4_wide4]
  first | done | rfl
theorem qst d q b : Statement (.qst d q b) := by
  intro v hw hv
  refine decode_of_raw hw hv ((raw2B _ _ _ (fOp_mkR ..)).trans ?_)
  show decodeC1 (mkR 2 b (wide4 q) 5 d 0x2B) = _
  unfold decodeC1 decodeRefs
  simp only [fF7_mkR, fF3_mkR, fRd_mkR, fRs1_mkR, fRs2_mkR, reg4_wide4]
  first | done | rfl
theorem qstw d q b : Statement (.qstw d q b) := by
  intro v hw hv
  refine decode_of_raw hw hv ((raw2B _ _ _ (fOp_mkR ..)).trans ?_)
  show decodeC1 (mkR 3 b (wide4 q) 5 d 0x2B) = _
  unfold decodeC1 decodeRefs
  simp only [fF7_mkR, fF3_mkR, fRd_mkR, fRs1_mkR, fRs2_mkR, reg4_wide4]
  first | done | rfl
theorem qldq d q b : Statement (.qldq d q b) := by
  intro v hw hv
  refine decode_of_raw hw hv ((raw2B _ _ _ (fOp_mkR ..)).trans ?_)
  show decodeC1 (mkR 4 b (wide4 q) 5 (wide4 d) 0x2B) = _
  unfold decodeC1 decodeRefs
  simp only [fF7_mkR, fF3_mkR, fRd_mkR, fRs1_mkR, fRs2_mkR, reg4_wide4]
  first | done | rfl
theorem qstq d q b : Statement (.qstq d q b) := by
  intro v hw hv
  refine decode_of_raw hw hv ((raw2B _ _ _ (fOp_mkR ..)).trans ?_)
  show decodeC1 (mkR 5 (wide4 b) (wide4 q) 5 d 0x2B) = _
  unfold decodeC1 decodeRefs
  simp only [fF7_mkR, fF3_mkR, fRd_mkR, fRs1_mkR, fRs2_mkR, reg4_wide4]
  first | done | rfl
theorem qnew d a b : Statement (.qnew d a b) := by
  intro v hw hv
  refine decode_of_raw hw hv ((raw2B _ _ _ (fOp_mkR ..)).trans ?_)
  show decodeC1 (mkR 6 b a 5 (wide4 d) 0x2B) = _
  unfold decodeC1 decodeRefs
  simp only [fF7_mkR, fF3_mkR, fRd_mkR, fRs1_mkR, fRs2_mkR, reg4_wide4]
  first | done | rfl
theorem qpin d q : Statement (.qpin d q) := by
  intro v hw hv
  refine decode_of_raw hw hv ((raw2B _ _ _ (fOp_mkR ..)).trans ?_)
  show decodeC1 (mkR 7 0 (wide4 q) 5 d 0x2B) = _
  unfold decodeC1 decodeRefs
  simp only [fF7_mkR, fF3_mkR, fRd_mkR, fRs1_mkR, fRs2_mkR, reg4_wide4]
  first | done | rfl
theorem qunpin q : Statement (.qunpin q) := by
  intro v hw hv
  refine decode_of_raw hw hv ((raw2B _ _ _ (fOp_mkR ..)).trans ?_)
  show decodeC1 (mkR 8 0 (wide4 q) 5 0 0x2B) = _
  unfold decodeC1 decodeRefs
  simp only [fF7_mkR, fF3_mkR, fRd_mkR, fRs1_mkR, fRs2_mkR, reg4_wide4]
  first | done | rfl
theorem qeq d q b : Statement (.qeq d q b) := by
  intro v hw hv
  refine decode_of_raw hw hv ((raw2B _ _ _ (fOp_mkR ..)).trans ?_)
  show decodeC1 (mkR 9 (wide4 b) (wide4 q) 5 d 0x2B) = _
  unfold decodeC1 decodeRefs
  simp only [fF7_mkR, fF3_mkR, fRd_mkR, fRs1_mkR, fRs2_mkR, reg4_wide4]
  first | done | rfl
theorem qtag d q b : Statement (.qtag d q b) := by
  intro v hw hv
  refine decode_of_raw hw hv ((raw2B _ _ _ (fOp_mkR ..)).trans ?_)
  show decodeC1 (mkR 0x0A b (wide4 q) 5 (wide4 d) 0x2B) = _
  unfold decodeC1 decodeRefs
  simp only [fF7_mkR, fF3_mkR, fRd_mkR, fRs1_mkR, fRs2_mkR, reg4_wide4]
  first | done | rfl
theorem qclr d : Statement (.qclr d) := by
  intro v hw hv
  refine decode_of_raw hw hv ((raw2B _ _ _ (fOp_mkR ..)).trans ?_)
  show decodeC1 (mkR 0x0B 0 0 5 (wide4 d) 0x2B) = _
  unfold decodeC1 decodeRefs
  simp only [fF7_mkR, fF3_mkR, fRd_mkR, fRs1_mkR, fRs2_mkR, reg4_wide4]
  first | done | rfl
theorem qmv d q : Statement (.qmv d q) := by
  intro v hw hv
  refine decode_of_raw hw hv ((raw2B _ _ _ (fOp_mkR ..)).trans ?_)
  show decodeC1 (mkR 0x0C 0 (wide4 q) 5 (wide4 d) 0x2B) = _
  unfold decodeC1 decodeRefs
  simp only [fF7_mkR, fF3_mkR, fRd_mkR, fRs1_mkR, fRs2_mkR, reg4_wide4]
  first | done | rfl
theorem reloc d q b : Statement (.reloc d q b) := by
  intro v hw hv
  refine decode_of_raw hw hv ((raw2B _ _ _ (fOp_mkR ..)).trans ?_)
  show decodeC1 (mkR 0x0D b (wide4 q) 5 d 0x2B) = _
  unfold decodeC1 decodeRefs
  simp only [fF7_mkR, fF3_mkR, fRd_mkR, fRs1_mkR, fRs2_mkR, reg4_wide4]
  first | done | rfl
theorem vadd ty d a b : Statement (.vadd ty d a b) := by
  intro v hw hv
  refine decode_of_raw hw hv ((raw5B _ _ _ (fOp_mkR ..)).trans ?_)
  show decodeC2 (mkR (ty.bits ++ 0#5) b a 0 d 0x5B) = _
  unfold decodeC2 decodeElem
  simp only [fF7_mkR, fF3_mkR, fRd_mkR, fRs1_mkR, fRs2_mkR, mkR_ty_hi, mkR_ty_lo, ETy.ofBits_bits]
  first | done | rfl
theorem vsub ty d a b : Statement (.vsub ty d a b) := by
  intro v hw hv
  refine decode_of_raw hw hv ((raw5B _ _ _ (fOp_mkR ..)).trans ?_)
  show decodeC2 (mkR (ty.bits ++ 1#5) b a 0 d 0x5B) = _
  unfold decodeC2 decodeElem
  simp only [fF7_mkR, fF3_mkR, fRd_mkR, fRs1_mkR, fRs2_mkR, mkR_ty_hi, mkR_ty_lo, ETy.ofBits_bits]
  first | done | rfl
theorem vmul ty d a b : Statement (.vmul ty d a b) := by
  intro v hw hv
  refine decode_of_raw hw hv ((raw5B _ _ _ (fOp_mkR ..)).trans ?_)
  show decodeC2 (mkR (ty.bits ++ 2#5) b a 0 d 0x5B) = _
  unfold decodeC2 decodeElem
  simp only [fF7_mkR, fF3_mkR, fRd_mkR, fRs1_mkR, fRs2_mkR, mkR_ty_hi, mkR_ty_lo, ETy.ofBits_bits]
  first | done | rfl
theorem vmax ty d a b : Statement (.vmax ty d a b) := by
  intro v hw hv
  refine decode_of_raw hw hv ((raw5B _ _ _ (fOp_mkR ..)).trans ?_)
  show decodeC2 (mkR (ty.bits ++ 3#5) b a 0 d 0x5B) = _
  unfold decodeC2 decodeElem
  simp only [fF7_mkR, fF3_mkR, fRd_mkR, fRs1_mkR, fRs2_mkR, mkR_ty_hi, mkR_ty_lo, ETy.ofBits_bits]
  first | done | rfl
theorem vmin ty d a b : Statement (.vmin ty d a b) := by
  intro v hw hv
  refine decode_of_raw hw hv ((raw5B _ _ _ (fOp_mkR ..)).trans ?_)
  show decodeC2 (mkR (ty.bits ++ 4#5) b a 0 d 0x5B) = _
  unfold decodeC2 decodeElem
  simp only [fF7_mkR, fF3_mkR, fRd_mkR, fRs1_mkR, fRs2_mkR, mkR_ty_hi, mkR_ty_lo, ETy.ofBits_bits]
  first | done | rfl
theorem vand ty d a b : Statement (.vand ty d a b) := by
  intro v hw hv
  refine decode_of_raw hw hv ((raw5B _ _ _ (fOp_mkR ..)).trans ?_)
  show decodeC2 (mkR (ty.bits ++ 5#5) b a 0 d 0x5B) = _
  unfold decodeC2 decodeElem
  simp only [fF7_mkR, fF3_mkR, fRd_mkR, fRs1_mkR, fRs2_mkR, mkR_ty_hi, mkR_ty_lo, ETy.ofBits_bits]
  first | done | rfl
theorem vor ty d a b : Statement (.vor ty d a b) := by
  intro v hw hv
  refine decode_of_raw hw hv ((raw5B _ _ _ (fOp_mkR ..)).trans ?_)
  show decodeC2 (mkR (ty.bits ++ 6#5) b a 0 d 0x5B) = _
  unfold decodeC2 decodeElem
  simp only [fF7_mkR, fF3_mkR, fRd_mkR, fRs1_mkR, fRs2_mkR, mkR_ty_hi, mkR_ty_lo, ETy.ofBits_bits]
  first | done | rfl
theorem vxor ty d a b : Statement (.vxor ty d a b) := by
  intro v hw hv
  refine decode_of_raw hw hv ((raw5B _ _ _ (fOp_mkR ..)).trans ?_)
  show decodeC2 (mkR (ty.bits ++ 7#5) b a 0 d 0x5B) = _
  unfold decodeC2 decodeElem
  simp only [fF7_mkR, fF3_mkR, fRd_mkR, fRs1_mkR, fRs2_mkR, mkR_ty_hi, mkR_ty_lo, ETy.ofBits_bits]
  first | done | rfl
theorem vshl ty d a b : Statement (.vshl ty d a b) := by
  intro v hw hv
  refine decode_of_raw hw hv ((raw5B _ _ _ (fOp_mkR ..)).trans ?_)
  show decodeC2 (mkR (ty.bits ++ 8#5) b a 0 d 0x5B) = _
  unfold decodeC2 decodeElem
  simp only [fF7_mkR, fF3_mkR, fRd_mkR, fRs1_mkR, fRs2_mkR, mkR_ty_hi, mkR_ty_lo, ETy.ofBits_bits]
  first | done | rfl
theorem vshr ty d a b : Statement (.vshr ty d a b) := by
  intro v hw hv
  refine decode_of_raw hw hv ((raw5B _ _ _ (fOp_mkR ..)).trans ?_)
  show decodeC2 (mkR (ty.bits ++ 9#5) b a 0 d 0x5B) = _
  unfold decodeC2 decodeElem
  simp only [fF7_mkR, fF3_mkR, fRd_mkR, fRs1_mkR, fRs2_mkR, mkR_ty_hi, mkR_ty_lo, ETy.ofBits_bits]
  first | done | rfl
theorem vsra ty d a b : Statement (.vsra ty d a b) := by
  intro v hw hv
  refine decode_of_raw hw hv ((raw5B _ _ _ (fOp_mkR ..)).trans ?_)
  show decodeC2 (mkR (ty.bits ++ 10#5) b a 0 d 0x5B) = _
  unfold decodeC2 decodeElem
  simp only [fF7_mkR, fF3_mkR, fRd_mkR, fRs1_mkR, fRs2_mkR, mkR_ty_hi, mkR_ty_lo, ETy.ofBits_bits]
  first | done | rfl
theorem vabs ty d a : Statement (.vabs ty d a) := by
  intro v hw hv
  refine decode_of_raw hw hv ((raw5B _ _ _ (fOp_mkR ..)).trans ?_)
  show decodeC2 (mkR (ty.bits ++ 11#5) 0 a 0 d 0x5B) = _
  unfold decodeC2 decodeElem
  simp only [fF7_mkR, fF3_mkR, fRd_mkR, fRs1_mkR, fRs2_mkR, mkR_ty_hi, mkR_ty_lo, ETy.ofBits_bits]
  first | done | rfl
theorem vneg ty d a : Statement (.vneg ty d a) := by
  intro v hw hv
  refine decode_of_raw hw hv ((raw5B _ _ _ (fOp_mkR ..)).trans ?_)
  show decodeC2 (mkR (ty.bits ++ 12#5) 0 a 0 d 0x5B) = _
  unfold decodeC2 decodeElem
  simp only [fF7_mkR, fF3_mkR, fRd_mkR, fRs1_mkR, fRs2_mkR, mkR_ty_hi, mkR_ty_lo, ETy.ofBits_bits]
  first | done | rfl
theorem vexp2 ty d a : Statement (.vexp2 ty d a) := by
  intro v hw hv
  refine decode_of_raw hw hv ((raw5B _ _ _ (fOp_mkR ..)).trans ?_)
  show decodeC2 (mkR (ty.bits ++ 13#5) 0 a 0 d 0x5B) = _
  unfold decodeC2 decodeElem
  simp only [fF7_mkR, fF3_mkR, fRd_mkR, fRs1_mkR, fRs2_mkR, mkR_ty_hi, mkR_ty_lo, ETy.ofBits_bits]
  first | done | rfl
theorem vlog2 ty d a : Statement (.vlog2 ty d a) := by
  intro v hw hv
  refine decode_of_raw hw hv ((raw5B _ _ _ (fOp_mkR ..)).trans ?_)
  show decodeC2 (mkR (ty.bits ++ 14#5) 0 a 0 d 0x5B) = _
  unfold decodeC2 decodeElem
  simp only [fF7_mkR, fF3_mkR, fRd_mkR, fRs1_mkR, fRs2_mkR, mkR_ty_hi, mkR_ty_lo, ETy.ofBits_bits]
  first | done | rfl
theorem vrcp ty d a : Statement (.vrcp ty d a) := by
  intro v hw hv
  refine decode_of_raw hw hv ((raw5B _ _ _ (fOp_mkR ..)).trans ?_)
  show decodeC2 (mkR (ty.bits ++ 15#5) 0 a 0 d 0x5B) = _
  unfold decodeC2 decodeElem
  simp only [fF7_mkR, fF3_mkR, fRd_mkR, fRs1_mkR, fRs2_mkR, mkR_ty_hi, mkR_ty_lo, ETy.ofBits_bits]
  first | done | rfl
theorem vrsq ty d a : Statement (.vrsq ty d a) := by
  intro v hw hv
  refine decode_of_raw hw hv ((raw5B _ _ _ (fOp_mkR ..)).trans ?_)
  show decodeC2 (mkR (ty.bits ++ 16#5) 0 a 0 d 0x5B) = _
  unfold decodeC2 decodeElem
  simp only [fF7_mkR, fF3_mkR, fRd_mkR, fRs1_mkR, fRs2_mkR, mkR_ty_hi, mkR_ty_lo, ETy.ofBits_bits]
  first | done | rfl
theorem vmov ty d a : Statement (.vmov ty d a) := by
  intro v hw hv
  refine decode_of_raw hw hv ((raw5B _ _ _ (fOp_mkR ..)).trans ?_)
  show decodeC2 (mkR (ty.bits ++ 17#5) 0 a 0 d 0x5B) = _
  unfold decodeC2 decodeElem
  simp only [fF7_mkR, fF3_mkR, fRd_mkR, fRs1_mkR, fRs2_mkR, mkR_ty_hi, mkR_ty_lo, ETy.ofBits_bits]
  first | done | rfl
theorem vbcast ty d a : Statement (.vbcast ty d a) := by
  intro v hw hv
  refine decode_of_raw hw hv ((raw5B _ _ _ (fOp_mkR ..)).trans ?_)
  show decodeC2 (mkR (ty.bits ++ 18#5) 0 a 0 d 0x5B) = _
  unfold decodeC2 decodeElem
  simp only [fF7_mkR, fF3_mkR, fRd_mkR, fRs1_mkR, fRs2_mkR, mkR_ty_hi, mkR_ty_lo, ETy.ofBits_bits]
  first | done | rfl
theorem vfma d a b c : Statement (.vfma d a b c) := by
  intro v hw hv
  refine decode_of_raw hw hv ((raw5B _ _ _ (fOp_mkR4 ..)).trans ?_)
  show decodeC2 (mkR4 c 0 b a 1 d 0x5B) = _
  unfold decodeC2 decodeVFused
  simp only [fF2_mkR4, fF3_mkR4, fRd_mkR4, fRs1_mkR4, fRs2_mkR4, fRs3_mkR4]
  first | done | rfl
theorem vfms d a b c : Statement (.vfms d a b c) := by
  intro v hw hv
  refine decode_of_raw hw hv ((raw5B _ _ _ (fOp_mkR4 ..)).trans ?_)
  show decodeC2 (mkR4 c 1 b a 1 d 0x5B) = _
  unfold decodeC2 decodeVFused
  simp only [fF2_mkR4, fF3_mkR4, fRd_mkR4, fRs1_mkR4, fRs2_mkR4, fRs3_mkR4]
  first | done | rfl
theorem vsel d a b m : Statement (.vsel d a b m) := by
  intro v hw hv
  refine decode_of_raw hw hv ((raw5B _ _ _ (fOp_mkR4 ..)).trans ?_)
  show decodeC2 (mkR4 (wide3 m) 2 b a 1 d 0x5B) = _
  unfold decodeC2 decodeVFused
  simp only [fF2_mkR4, fF3_mkR4, fRd_mkR4, fRs1_mkR4, fRs2_mkR4, fRs3_mkR4, reg3_wide3]
  first | done | rfl
theorem vld d a i : Statement (.vld d a i) := by
  intro v hw hv
  refine decode_of_raw hw hv ((raw5B _ _ _ (fOp_mkI ..)).trans ?_)
  show decodeC2 (mkI i a 2 d 0x5B) = _
  unfold decodeC2
  simp only [fF3_mkI, fRd_mkI, fRs1_mkI, fImmI_mkI]
  first | done | rfl
theorem vst b a i : Statement (.vst b a i) := by
  intro v hw hv
  refine decode_of_raw hw hv ((raw5B _ _ _ (fOp_mkS ..)).trans ?_)
  show decodeC2 (mkS i b a 3 0x5B) = _
  unfold decodeC2
  simp only [fF3_mkS, fRs1_mkS, fRs2_mkS, fImmS_mkS]
  first | done | rfl
theorem vredsum d a : Statement (.vredsum d a) := by
  intro v hw hv
  refine decode_of_raw hw hv ((raw5B _ _ _ (fOp_mkR ..)).trans ?_)
  show decodeC2 (mkR 0 0 a 4 d 0x5B) = _
  unfold decodeC2 decodeVMove
  simp only [fF7_mkR, fF3_mkR, fRd_mkR, fRs1_mkR, fRs2_mkR]
  first | done | rfl
theorem vredmax d a : Statement (.vredmax d a) := by
  intro v hw hv
  refine decode_of_raw hw hv ((raw5B _ _ _ (fOp_mkR ..)).trans ?_)
  show decodeC2 (mkR 1 0 a 4 d 0x5B) = _
  unfold decodeC2 decodeVMove
  simp only [fF7_mkR, fF3_mkR, fRd_mkR, fRs1_mkR, fRs2_mkR]
  first | done | rfl
theorem vredmin d a : Statement (.vredmin d a) := by
  intro v hw hv
  refine decode_of_raw hw hv ((raw5B _ _ _ (fOp_mkR ..)).trans ?_)
  show decodeC2 (mkR 2 0 a 4 d 0x5B) = _
  unfold decodeC2 decodeVMove
  simp only [fF7_mkR, fF3_mkR, fRd_mkR, fRs1_mkR, fRs2_mkR]
  first | done | rfl
theorem vmvx d a b : Statement (.vmvx d a b) := by
  intro v hw hv
  refine decode_of_raw hw hv ((raw5B _ _ _ (fOp_mkR ..)).trans ?_)
  show decodeC2 (mkR 3 b a 4 d 0x5B) = _
  unfold decodeC2 decodeVMove
  simp only [fF7_mkR, fF3_mkR, fRd_mkR, fRs1_mkR, fRs2_mkR]
  first | done | rfl
theorem vmvf d a b : Statement (.vmvf d a b) := by
  intro v hw hv
  refine decode_of_raw hw hv ((raw5B _ _ _ (fOp_mkR ..)).trans ?_)
  show decodeC2 (mkR 4 b a 4 d 0x5B) = _
  unfold decodeC2 decodeVMove
  simp only [fF7_mkR, fF3_mkR, fRd_mkR, fRs1_mkR, fRs2_mkR]
  first | done | rfl
theorem vins d a b : Statement (.vins d a b) := by
  intro v hw hv
  refine decode_of_raw hw hv ((raw5B _ _ _ (fOp_mkR ..)).trans ?_)
  show decodeC2 (mkR 5 b a 4 d 0x5B) = _
  unfold decodeC2 decodeVMove
  simp only [fF7_mkR, fF3_mkR, fRd_mkR, fRs1_mkR, fRs2_mkR]
  first | done | rfl
theorem vperm d a b : Statement (.vperm d a b) := by
  intro v hw hv
  refine decode_of_raw hw hv ((raw5B _ _ _ (fOp_mkR ..)).trans ?_)
  show decodeC2 (mkR 6 b a 4 d 0x5B) = _
  unfold decodeC2 decodeVMove
  simp only [fF7_mkR, fF3_mkR, fRd_mkR, fRs1_mkR, fRs2_mkR]
  first | done | rfl
theorem vslide d a b : Statement (.vslide d a b) := by
  intro v hw hv
  refine decode_of_raw hw hv ((raw5B _ _ _ (fOp_mkR ..)).trans ?_)
  show decodeC2 (mkR 7 b a 4 d 0x5B) = _
  unfold decodeC2 decodeVMove
  simp only [fF7_mkR, fF3_mkR, fRd_mkR, fRs1_mkR, fRs2_mkR]
  first | done | rfl
theorem vhad d a b : Statement (.vhad d a b) := by
  intro v hw hv
  refine decode_of_raw hw hv ((raw5B _ _ _ (fOp_mkR ..)).trans ?_)
  show decodeC2 (mkR 0 b a 5 d 0x5B) = _
  unfold decodeC2
  simp only [fF7_mkR, fF3_mkR, fRd_mkR, fRs1_mkR, fRs2_mkR]
  first | done | rfl
theorem vtopk d a b : Statement (.vtopk d a b) := by
  intro v hw hv
  refine decode_of_raw hw hv ((raw5B _ _ _ (fOp_mkR ..)).trans ?_)
  show decodeC2 (mkR 1 b a 5 d 0x5B) = _
  unfold decodeC2
  simp only [fF7_mkR, fF3_mkR, fRd_mkR, fRs1_mkR, fRs2_mkR]
  first | done | rfl
theorem vtmask d a b : Statement (.vtmask d a b) := by
  intro v hw hv
  refine decode_of_raw hw hv ((raw5B _ _ _ (fOp_mkR ..)).trans ?_)
  show decodeC2 (mkR 2 b a 5 (wide3 d) 0x5B) = _
  unfold decodeC2
  simp only [fF7_mkR, fF3_mkR, fRd_mkR, fRs1_mkR, fRs2_mkR, reg3_wide3]
  first | done | rfl
theorem vcmpeq d a b : Statement (.vcmpeq d a b) := by
  intro v hw hv
  refine decode_of_raw hw hv ((raw5B _ _ _ (fOp_mkR ..)).trans ?_)
  show decodeC2 (mkR 0 b a 7 (wide3 d) 0x5B) = _
  unfold decodeC2 decodeVMask
  simp only [fF7_mkR, fF3_mkR, fRd_mkR, fRs1_mkR, fRs2_mkR, reg3_wide3]
  first | done | rfl
theorem vcmpne d a b : Statement (.vcmpne d a b) := by
  intro v hw hv
  refine decode_of_raw hw hv ((raw5B _ _ _ (fOp_mkR ..)).trans ?_)
  show decodeC2 (mkR 1 b a 7 (wide3 d) 0x5B) = _
  unfold decodeC2 decodeVMask
  simp only [fF7_mkR, fF3_mkR, fRd_mkR, fRs1_mkR, fRs2_mkR, reg3_wide3]
  first | done | rfl
theorem vcmplt d a b : Statement (.vcmplt d a b) := by
  intro v hw hv
  refine decode_of_raw hw hv ((raw5B _ _ _ (fOp_mkR ..)).trans ?_)
  show decodeC2 (mkR 2 b a 7 (wide3 d) 0x5B) = _
  unfold decodeC2 decodeVMask
  simp only [fF7_mkR, fF3_mkR, fRd_mkR, fRs1_mkR, fRs2_mkR, reg3_wide3]
  first | done | rfl
theorem vcmple d a b : Statement (.vcmple d a b) := by
  intro v hw hv
  refine decode_of_raw hw hv ((raw5B _ _ _ (fOp_mkR ..)).trans ?_)
  show decodeC2 (mkR 3 b a 7 (wide3 d) 0x5B) = _
  unfold decodeC2 decodeVMask
  simp only [fF7_mkR, fF3_mkR, fRd_mkR, fRs1_mkR, fRs2_mkR, reg3_wide3]
  first | done | rfl
theorem vcvt c d a : Statement (.vcvt c d a) := by
  intro v hw hv
  refine decode_of_raw hw hv ((raw5B _ _ _ (fOp_mkR ..)).trans ?_)
  show decodeC2 (mkR c.code 0 a 6 d 0x5B) = _
  unfold decodeC2
  simp only [fF7_mkR, fF3_mkR, fRd_mkR, fRs1_mkR, fRs2_mkR, Cvt.ofCode_code]
  first | done | rfl
theorem mand d a b : Statement (.mand d a b) := by
  intro v hw hv
  refine decode_of_raw hw hv ((raw5B _ _ _ (fOp_mkR ..)).trans ?_)
  show decodeC2 (mkR 4 (wide3 b) (wide3 a) 7 (wide3 d) 0x5B) = _
  unfold decodeC2 decodeVMask
  simp only [fF7_mkR, fF3_mkR, fRd_mkR, fRs1_mkR, fRs2_mkR, reg3_wide3]
  first | done | rfl
theorem mor d a b : Statement (.mor d a b) := by
  intro v hw hv
  refine decode_of_raw hw hv ((raw5B _ _ _ (fOp_mkR ..)).trans ?_)
  show decodeC2 (mkR 5 (wide3 b) (wide3 a) 7 (wide3 d) 0x5B) = _
  unfold decodeC2 decodeVMask
  simp only [fF7_mkR, fF3_mkR, fRd_mkR, fRs1_mkR, fRs2_mkR, reg3_wide3]
  first | done | rfl
theorem mnot d a : Statement (.mnot d a) := by
  intro v hw hv
  refine decode_of_raw hw hv ((raw5B _ _ _ (fOp_mkR ..)).trans ?_)
  show decodeC2 (mkR 6 0 (wide3 a) 7 (wide3 d) 0x5B) = _
  unfold decodeC2 decodeVMask
  simp only [fF7_mkR, fF3_mkR, fRd_mkR, fRs1_mkR, fRs2_mkR, reg3_wide3]
  first | done | rfl
theorem mpop d a : Statement (.mpop d a) := by
  intro v hw hv
  refine decode_of_raw hw hv ((raw5B _ _ _ (fOp_mkR ..)).trans ?_)
  show decodeC2 (mkR 7 0 (wide3 a) 7 d 0x5B) = _
  unfold decodeC2 decodeVMask
  simp only [fF7_mkR, fF3_mkR, fRd_mkR, fRs1_mkR, fRs2_mkR, reg3_wide3]
  first | done | rfl
theorem vldx d a b : Statement (.vldx d a b) := by
  intro v hw hv
  refine decode_of_raw hw hv ((raw5B _ _ _ (fOp_mkR ..)).trans ?_)
  show decodeC2 (mkR 8 b a 7 d 0x5B) = _
  unfold decodeC2 decodeVMask
  simp only [fF7_mkR, fF3_mkR, fRd_mkR, fRs1_mkR, fRs2_mkR]
  first | done | rfl
theorem vstx d a b : Statement (.vstx d a b) := by
  intro v hw hv
  refine decode_of_raw hw hv ((raw5B _ _ _ (fOp_mkR ..)).trans ?_)
  show decodeC2 (mkR 9 b a 7 d 0x5B) = _
  unfold decodeC2 decodeVMask
  simp only [fF7_mkR, fF3_mkR, fRd_mkR, fRs1_mkR, fRs2_mkR]
  first | done | rfl
theorem vlds d a b : Statement (.vlds d a b) := by
  intro v hw hv
  refine decode_of_raw hw hv ((raw5B _ _ _ (fOp_mkR ..)).trans ?_)
  show decodeC2 (mkR 10 b a 7 d 0x5B) = _
  unfold decodeC2 decodeVMask
  simp only [fF7_mkR, fF3_mkR, fRd_mkR, fRs1_mkR, fRs2_mkR]
  first | done | rfl
theorem mxstrm p acc c b f : Statement (.mxstrm p acc c b f) := by
  intro v hw hv
  refine decode_of_raw hw hv ((raw7B _ _ _ (fOp_mkR4 ..)).trans ?_)
  show decodeC3 _ (mkR4 f (p.code.extractLsb' 0 2) b (wide4 c) 0 (p.code.extractLsb' 2 3 ++ acc) 0x7B) = _
  unfold decodeC3 decodeStrm
  simp only [fF2_mkR4, fF3_mkR4, fRd_mkR4, fRs1_mkR4, fRs2_mkR4, fRs3_mkR4, mkR4_pair, mkR4_acc, Pair.ofCode_code, reg4_wide4]
  first | done | rfl
theorem mxldw c b : Statement (.mxldw c b) := by
  intro v hw hv
  refine decode_of_raw hw hv ((raw7B _ _ _ (fOp_mkR ..)).trans ?_)
  show decodeC3 _ (mkR 0 b (wide4 c) 1 0 0x7B) = _
  unfold decodeC3 decodeArray
  simp only [fF7_mkR, fF3_mkR, fRd_mkR, fRs1_mkR, fRs2_mkR, reg4_wide4]
  first | done | rfl
theorem mxzero s : Statement (.mxzero s) := by
  intro v hw hv
  refine decode_of_raw hw hv ((raw7B _ _ _ (fOp_mkR ..)).trans ?_)
  show decodeC3 _ (mkR 2 0 0 1 (wide2 s) 0x7B) = _
  unfold decodeC3 decodeArray
  simp only [fF7_mkR, fF3_mkR, fRd_mkR, fRs1_mkR, fRs2_mkR, reg2_wide2]
  first | done | rfl
theorem mxwb c s b : Statement (.mxwb c s b) := by
  intro v hw hv
  refine decode_of_raw hw hv ((raw7B _ _ _ (fOp_mkR ..)).trans ?_)
  show decodeC3 _ (mkR 3 b (wide2 s) 1 (wide4 c) 0x7B) = _
  unfold decodeC3 decodeArray
  simp only [fF7_mkR, fF3_mkR, fRd_mkR, fRs1_mkR, fRs2_mkR, reg2_wide2, reg4_wide4]
  first | done | rfl
theorem mxrd d s b : Statement (.mxrd d s b) := by
  intro v hw hv
  refine decode_of_raw hw hv ((raw7B _ _ _ (fOp_mkR ..)).trans ?_)
  show decodeC3 _ (mkR 4 b (wide2 s) 1 d 0x7B) = _
  unfold decodeC3 decodeArray
  simp only [fF7_mkR, fF3_mkR, fRd_mkR, fRs1_mkR, fRs2_mkR, reg2_wide2]
  first | done | rfl
theorem mxwait d : Statement (.mxwait d) := by
  intro v hw hv
  refine decode_of_raw hw hv ((raw7B _ _ _ (fOp_mkR ..)).trans ?_)
  show decodeC3 _ (mkR 5 0 0 1 d 0x7B) = _
  unfold decodeC3 decodeArray
  simp only [fF7_mkR, fF3_mkR, fRd_mkR, fRs1_mkR, fRs2_mkR]
  first | done | rfl
theorem mxstat d s : Statement (.mxstat d s) := by
  intro v hw hv
  refine decode_of_raw hw hv ((raw7B _ _ _ (fOp_mkR ..)).trans ?_)
  show decodeC3 _ (mkR 6 0 (wide2 s) 1 d 0x7B) = _
  unfold decodeC3 decodeArray
  simp only [fF7_mkR, fF3_mkR, fRd_mkR, fRs1_mkR, fRs2_mkR, reg2_wide2]
  first | done | rfl
theorem smbind a : Statement (.smbind a) := by
  intro v hw hv
  refine decode_of_raw hw hv ((raw7B _ _ _ (fOp_mkR ..)).trans ?_)
  show decodeC3 _ (mkR 0 0 a 2 0 0x7B) = _
  unfold decodeC3 decodeStream
  simp only [fF7_mkR, fF3_mkR, fRd_mkR, fRs1_mkR, fRs2_mkR]
  first | done | rfl
theorem smcommit d a b : Statement (.smcommit d a b) := by
  intro v hw hv
  refine decode_of_raw hw hv ((raw7B _ _ _ (fOp_mkR ..)).trans ?_)
  show decodeC3 _ (mkR 1 b a 2 d 0x7B) = _
  unfold decodeC3 decodeStream
  simp only [fF7_mkR, fF3_mkR, fRd_mkR, fRs1_mkR, fRs2_mkR]
  first | done | rfl
theorem smplay a : Statement (.smplay a) := by
  intro v hw hv
  refine decode_of_raw hw hv ((raw7B _ _ _ (fOp_mkR ..)).trans ?_)
  show decodeC3 _ (mkR 2 0 a 2 0 0x7B) = _
  unfold decodeC3 decodeStream
  simp only [fF7_mkR, fF3_mkR, fRd_mkR, fRs1_mkR, fRs2_mkR]
  first | done | rfl
theorem smframe d a : Statement (.smframe d a) := by
  intro v hw hv
  refine decode_of_raw hw hv ((raw7B _ _ _ (fOp_mkR ..)).trans ?_)
  show decodeC3 _ (mkR 3 0 a 2 d 0x7B) = _
  unfold decodeC3 decodeStream
  simp only [fF7_mkR, fF3_mkR, fRd_mkR, fRs1_mkR, fRs2_mkR]
  first | done | rfl
theorem smtrunc d : Statement (.smtrunc d) := by
  intro v hw hv
  refine decode_of_raw hw hv ((raw7B _ _ _ (fOp_mkR ..)).trans ?_)
  show decodeC3 _ (mkR 4 0 0 2 d 0x7B) = _
  unfold decodeC3 decodeStream
  simp only [fF7_mkR, fF3_mkR, fRd_mkR, fRs1_mkR, fRs2_mkR]
  first | done | rfl
theorem smsnap a : Statement (.smsnap a) := by
  intro v hw hv
  refine decode_of_raw hw hv ((raw7B _ _ _ (fOp_mkR ..)).trans ?_)
  show decodeC3 _ (mkR 5 0 a 2 0 0x7B) = _
  unfold decodeC3 decodeStream
  simp only [fF7_mkR, fF3_mkR, fRd_mkR, fRs1_mkR, fRs2_mkR]
  first | done | rfl
theorem smstat d a : Statement (.smstat d a) := by
  intro v hw hv
  refine decode_of_raw hw hv ((raw7B _ _ _ (fOp_mkR ..)).trans ?_)
  show decodeC3 _ (mkR 6 0 a 2 d 0x7B) = _
  unfold decodeC3 decodeStream
  simp only [fF7_mkR, fF3_mkR, fRd_mkR, fRs1_mkR, fRs2_mkR]
  first | done | rfl
theorem smkv d a : Statement (.smkv d a) := by
  intro v hw hv
  refine decode_of_raw hw hv ((raw7B _ _ _ (fOp_mkR ..)).trans ?_)
  show decodeC3 _ (mkR 7 0 a 2 d 0x7B) = _
  unfold decodeC3 decodeStream
  simp only [fF7_mkR, fF3_mkR, fRd_mkR, fRs1_mkR, fRs2_mkR]
  first | done | rfl
theorem phash d a b : Statement (.phash d a b) := by
  intro v hw hv
  refine decode_of_raw hw hv ((raw7B _ _ _ (fOp_mkR ..)).trans ?_)
  show decodeC3 _ (mkR 0 b a 3 d 0x7B) = _
  unfold decodeC3 decodePrefix
  simp only [fF7_mkR, fF3_mkR, fRd_mkR, fRs1_mkR, fRs2_mkR]
  first | done | rfl
theorem pfxlook d a b : Statement (.pfxlook d a b) := by
  intro v hw hv
  refine decode_of_raw hw hv ((raw7B _ _ _ (fOp_mkR ..)).trans ?_)
  show decodeC3 _ (mkR 1 b a 3 d 0x7B) = _
  unfold decodeC3 decodePrefix
  simp only [fF7_mkR, fF3_mkR, fRd_mkR, fRs1_mkR, fRs2_mkR]
  first | done | rfl
theorem pfxins d a b : Statement (.pfxins d a b) := by
  intro v hw hv
  refine decode_of_raw hw hv ((raw7B _ _ _ (fOp_mkR ..)).trans ?_)
  show decodeC3 _ (mkR 2 b a 3 d 0x7B) = _
  unfold decodeC3 decodePrefix
  simp only [fF7_mkR, fF3_mkR, fRd_mkR, fRs1_mkR, fRs2_mkR]
  first | done | rfl
theorem pfxpin a : Statement (.pfxpin a) := by
  intro v hw hv
  refine decode_of_raw hw hv ((raw7B _ _ _ (fOp_mkR ..)).trans ?_)
  show decodeC3 _ (mkR 3 0 a 3 0 0x7B) = _
  unfold decodeC3 decodePrefix
  simp only [fF7_mkR, fF3_mkR, fRd_mkR, fRs1_mkR, fRs2_mkR]
  first | done | rfl
theorem pfxunpin a : Statement (.pfxunpin a) := by
  intro v hw hv
  refine decode_of_raw hw hv ((raw7B _ _ _ (fOp_mkR ..)).trans ?_)
  show decodeC3 _ (mkR 4 0 a 3 0 0x7B) = _
  unfold decodeC3 decodePrefix
  simp only [fF7_mkR, fF3_mkR, fRd_mkR, fRs1_mkR, fRs2_mkR]
  first | done | rfl
theorem sdraw d a b : Statement (.sdraw d a b) := by
  intro v hw hv
  refine decode_of_raw hw hv ((raw7B _ _ _ (fOp_mkR ..)).trans ?_)
  show decodeC3 _ (mkR 0 b a 4 d 0x7B) = _
  unfold decodeC3 decodeDraw
  simp only [fF7_mkR, fF3_mkR, fRd_mkR, fRs1_mkR, fRs2_mkR]
  first | done | rfl
theorem topkmrg d a b : Statement (.topkmrg d a b) := by
  intro v hw hv
  refine decode_of_raw hw hv ((raw7B _ _ _ (fOp_mkR ..)).trans ?_)
  show decodeC3 _ (mkR 1 b a 4 d 0x7B) = _
  unfold decodeC3 decodeDraw
  simp only [fF7_mkR, fF3_mkR, fRd_mkR, fRs1_mkR, fRs2_mkR]
  first | done | rfl
theorem treegen d a b : Statement (.treegen d a b) := by
  intro v hw hv
  refine decode_of_raw hw hv ((raw7B _ _ _ (fOp_mkR ..)).trans ?_)
  show decodeC3 _ (mkR 2 b a 4 d 0x7B) = _
  unfold decodeC3 decodeDraw
  simp only [fF7_mkR, fF3_mkR, fRd_mkR, fRs1_mkR, fRs2_mkR]
  first | done | rfl
theorem daccept d a b : Statement (.daccept d a b) := by
  intro v hw hv
  refine decode_of_raw hw hv ((raw7B _ _ _ (fOp_mkR ..)).trans ?_)
  show decodeC3 _ (mkR 3 b a 4 d 0x7B) = _
  unfold decodeC3 decodeDraw
  simp only [fF7_mkR, fF3_mkR, fRd_mkR, fRs1_mkR, fRs2_mkR]
  first | done | rfl
theorem ecall : Statement .ecall := by
  intro v hw hv
  refine decode_of_raw hw hv ((raw73 _ _ _ (fOp_mkI ..)).trans ?_)
  show decodeSystem (mkI 0 0 0 0 0x73) = _
  unfold decodeSystem
  simp only [fF3_mkI, fRd_mkI, fRs1_mkI, fImmI_mkI]
  first | done | rfl
theorem ebreak : Statement .ebreak := by
  intro v hw hv
  refine decode_of_raw hw hv ((raw73 _ _ _ (fOp_mkI ..)).trans ?_)
  show decodeSystem (mkI 1 0 0 0 0x73) = _
  unfold decodeSystem
  simp only [fF3_mkI, fRd_mkI, fRs1_mkI, fImmI_mkI]
  first | done | rfl
theorem mret : Statement .mret := by
  intro v hw hv
  refine decode_of_raw hw hv ((raw73 _ _ _ (fOp_mkI ..)).trans ?_)
  show decodeSystem (mkI 0x302 0 0 0 0x73) = _
  unfold decodeSystem
  simp only [fF3_mkI, fRd_mkI, fRs1_mkI, fImmI_mkI]
  first | done | rfl
theorem wfi : Statement .wfi := by
  intro v hw hv
  refine decode_of_raw hw hv ((raw73 _ _ _ (fOp_mkI ..)).trans ?_)
  show decodeSystem (mkI 0x105 0 0 0 0x73) = _
  unfold decodeSystem
  simp only [fF3_mkI, fRd_mkI, fRs1_mkI, fImmI_mkI]
  first | done | rfl
theorem shield : Statement .shield := by
  intro v hw hv
  cases v <;> cases hv
  all_goals
    refine decode_of_raw hw rfl ((raw0B _ _ _ (fOp_mkR ..)).trans ?_)
    show decodeC0 _ (mkR 6 0 0 0 0 0x0B) = _
    unfold decodeC0 decodeScope
    simp only [fF7_mkR, fF3_mkR, fRd_mkR, fRs1_mkR, fRs2_mkR]
    first | done | rfl
theorem shieldV1V2 : Statement .shieldV1V2 := by
  intro v hw hv
  cases v <;> cases hv
  all_goals
    refine decode_of_raw hw rfl ((raw0B _ _ _ (fOp_mkR ..)).trans ?_)
    show decodeC0 _ (mkR 4 0 0 0 0 0x0B) = _
    unfold decodeC0 decodeScope
    simp only [fF7_mkR, fF3_mkR, fRd_mkR, fRs1_mkR, fRs2_mkR]
    first | done | rfl
theorem unshield : Statement .unshield := by
  intro v hw hv
  cases v <;> cases hv
  all_goals
    refine decode_of_raw hw rfl ((raw0B _ _ _ (fOp_mkR ..)).trans ?_)
    show decodeC0 _ (mkR 7 0 0 0 0 0x0B) = _
    unfold decodeC0 decodeScope
    simp only [fF7_mkR, fF3_mkR, fRd_mkR, fRs1_mkR, fRs2_mkR]
    first | done | rfl
theorem unshieldV1V2 : Statement .unshieldV1V2 := by
  intro v hw hv
  cases v <;> cases hv
  all_goals
    refine decode_of_raw hw rfl ((raw0B _ _ _ (fOp_mkR ..)).trans ?_)
    show decodeC0 _ (mkR 5 0 0 0 0 0x0B) = _
    unfold decodeC0 decodeScope
    simp only [fF7_mkR, fF3_mkR, fRd_mkR, fRs1_mkR, fRs2_mkR]
    first | done | rfl
theorem chkc : Statement .chkc := by
  intro v hw hv
  cases v <;> cases hv
  all_goals
    refine decode_of_raw hw rfl ((raw0B _ _ _ (fOp_mkR ..)).trans ?_)
    show decodeC0 _ (mkR 8 0 0 0 0 0x0B) = _
    unfold decodeC0 decodeScope
    simp only [fF7_mkR, fF3_mkR, fRd_mkR, fRs1_mkR, fRs2_mkR]
    first | done | rfl
theorem chkcV1V2 : Statement .chkcV1V2 := by
  intro v hw hv
  cases v <;> cases hv
  all_goals
    refine decode_of_raw hw rfl ((raw0B _ _ _ (fOp_mkR ..)).trans ?_)
    show decodeC0 _ (mkR 6 0 0 0 0 0x0B) = _
    unfold decodeC0 decodeScope
    simp only [fF7_mkR, fF3_mkR, fRd_mkR, fRs1_mkR, fRs2_mkR]
    first | done | rfl
theorem exit : Statement .exit := by
  intro v hw hv
  cases v <;> cases hv
  all_goals
    refine decode_of_raw hw rfl ((raw0B _ _ _ (fOp_mkR ..)).trans ?_)
    show decodeC0 _ (mkR 0x0A 0 0 0 0 0x0B) = _
    unfold decodeC0 decodeScope
    simp only [fF7_mkR, fF3_mkR, fRd_mkR, fRs1_mkR, fRs2_mkR]
    first | done | rfl
theorem exitV1V2 : Statement .exitV1V2 := by
  intro v hw hv
  cases v <;> cases hv
  all_goals
    refine decode_of_raw hw rfl ((raw0B _ _ _ (fOp_mkR ..)).trans ?_)
    show decodeC0 _ (mkR 8 0 0 0 0 0x0B) = _
    unfold decodeC0 decodeScope
    simp only [fF7_mkR, fF3_mkR, fRd_mkR, fRs1_mkR, fRs2_mkR]
    first | done | rfl
theorem yield : Statement .yield := by
  intro v hw hv
  cases v <;> cases hv
  all_goals
    refine decode_of_raw hw rfl ((raw0B _ _ _ (fOp_mkR ..)).trans ?_)
    show decodeC0 _ (mkR 0x0B 0 0 0 0 0x0B) = _
    unfold decodeC0 decodeScope
    simp only [fF7_mkR, fF3_mkR, fRd_mkR, fRs1_mkR, fRs2_mkR]
    first | done | rfl
theorem yieldV1V2 : Statement .yieldV1V2 := by
  intro v hw hv
  cases v <;> cases hv
  all_goals
    refine decode_of_raw hw rfl ((raw0B _ _ _ (fOp_mkR ..)).trans ?_)
    show decodeC0 _ (mkR 9 0 0 0 0 0x0B) = _
    unfold decodeC0 decodeScope
    simp only [fF7_mkR, fF3_mkR, fRd_mkR, fRs1_mkR, fRs2_mkR]
    first | done | rfl
theorem mxswap : Statement .mxswap := by
  intro v hw hv
  refine decode_of_raw hw hv ((raw7B _ _ _ (fOp_mkR ..)).trans ?_)
  show decodeC3 _ (mkR 1 0 0 1 0 0x7B) = _
  unfold decodeC3 decodeArray
  simp only [fF7_mkR, fF3_mkR, fRd_mkR, fRs1_mkR, fRs2_mkR]
  first | done | rfl
theorem waitReevaluate : Statement .waitReevaluate := ofEvent rfl
theorem waitTimeout : Statement .waitTimeout := ofEvent rfl
theorem issueStallEnd : Statement .issueStallEnd := ofEvent rfl
theorem sliceExpiry : Statement .sliceExpiry := ofEvent rfl
theorem parkedWake : Statement .parkedWake := ofEvent rfl
theorem watchdog : Statement .watchdog := ofEvent rfl
theorem matrixOperandDelivery : Statement .matrixOperandDelivery := ofEvent rfl
theorem latlimExpiry : Statement .latlimExpiry := ofEvent rfl
theorem taskDispatch : Statement .taskDispatch := ofEvent rfl
theorem tscRestart : Statement .tscRestart := ofEvent rfl
theorem copyPieceWrite : Statement .copyPieceWrite := ofEvent rfl
theorem copyFinish : Statement .copyFinish := ofEvent rfl
theorem weevilSliceCopy : Statement .weevilSliceCopy := ofEvent rfl
theorem weevilPassEnd : Statement .weevilPassEnd := ofEvent rfl
theorem flipWindowClose : Statement .flipWindowClose := ofEvent rfl
theorem relocAbandon : Statement .relocAbandon := ofEvent rfl
theorem arrayMxldwStart : Statement .arrayMxldwStart := ofEvent rfl
theorem arrayMxldwSlot : Statement .arrayMxldwSlot := ofEvent rfl
theorem arrayMxswapRun : Statement .arrayMxswapRun := ofEvent rfl
theorem arrayMxzeroRun : Statement .arrayMxzeroRun := ofEvent rfl
theorem arrayStreamHeadCheck : Statement .arrayStreamHeadCheck := ofEvent rfl
theorem arrayRowEnter : Statement .arrayRowEnter := ofEvent rfl
theorem arrayRowUpdate : Statement .arrayRowUpdate := ofEvent rfl
theorem arrayMxwbRow : Statement .arrayMxwbRow := ofEvent rfl
theorem arrayCancelStop : Statement .arrayCancelStop := ofEvent rfl
theorem arrayPoisonFault : Statement .arrayPoisonFault := ofEvent rfl
theorem translationWalk : Statement .translationWalk := ofEvent rfl
theorem weightReturn : Statement .weightReturn := ofEvent rfl
theorem trackerReturn : Statement .trackerReturn := ofEvent rfl
theorem cancelMessageArrive : Statement .cancelMessageArrive := ofEvent rfl
theorem thresholdSample : Statement .thresholdSample := ofEvent rfl
theorem kilnTake : Statement .kilnTake := ofEvent rfl
theorem launch : Statement .launch := ofEvent rfl
theorem launchPlace : Statement .launchPlace := ofEvent rfl
theorem completionPost : Statement .completionPost := ofEvent rfl
theorem kill : Statement .kill := ofEvent rfl
theorem waitToken : Statement .waitToken := ofEvent rfl
theorem createHeap : Statement .createHeap := ofEvent rfl
theorem destroyHeap : Statement .destroyHeap := ofEvent rfl
theorem createStream : Statement .createStream := ofEvent rfl
theorem destroyStream : Statement .destroyStream := ofEvent rfl
theorem aspaceSet : Statement .aspaceSet := ofEvent rfl
theorem aspaceInval : Statement .aspaceInval := ofEvent rfl
theorem threshold : Statement .threshold := ofEvent rfl
theorem setClock : Statement .setClock := ofEvent rfl
theorem groupSet : Statement .groupSet := ofEvent rfl
theorem groupCancelReceive : Statement .groupCancelReceive := ofEvent rfl
theorem clockStallEnd : Statement .clockStallEnd := ofEvent rfl
theorem notifyWrite : Statement .notifyWrite := ofEvent rfl
theorem cheadWrite : Statement .cheadWrite := ofEvent rfl
theorem queueEnable : Statement .queueEnable := ofEvent rfl
theorem queueDisable : Statement .queueDisable := ofEvent rfl
theorem tokenCounterWrite : Statement .tokenCounterWrite := ofEvent rfl
theorem deviceEventClear : Statement .deviceEventClear := ofEvent rfl
theorem registerWrite : Statement .registerWrite := ofEvent rfl
theorem flr : Statement .flr := ofEvent rfl
theorem stopInterface : Statement .stopInterface := ofEvent rfl
theorem ideFailure : Statement .ideFailure := ofEvent rfl
theorem tdispLock : Statement .tdispLock := ofEvent rfl
theorem deviceReset : Statement .deviceReset := ofEvent rfl
theorem lifecycleProvision : Statement .lifecycleProvision := ofEvent rfl
theorem lifecycleDeploy : Statement .lifecycleDeploy := ofEvent rfl
theorem lifecycleReturn : Statement .lifecycleReturn := ofEvent rfl
theorem lifecycleReprovision : Statement .lifecycleReprovision := ofEvent rfl
theorem spdmVersion : Statement .spdmVersion := ofEvent rfl
theorem spdmCapabilities : Statement .spdmCapabilities := ofEvent rfl
theorem spdmAlgorithms : Statement .spdmAlgorithms := ofEvent rfl
theorem spdmDigests : Statement .spdmDigests := ofEvent rfl
theorem spdmCertificate : Statement .spdmCertificate := ofEvent rfl
theorem spdmChallenge : Statement .spdmChallenge := ofEvent rfl
theorem spdmMeasurements : Statement .spdmMeasurements := ofEvent rfl
theorem spdmKeyExchange : Statement .spdmKeyExchange := ofEvent rfl
theorem kilnTakeover : Statement .kilnTakeover := ofEvent rfl
theorem kilnScrub : Statement .kilnScrub := ofEvent rfl
theorem kilnReload : Statement .kilnReload := ofEvent rfl
theorem tileMapout : Statement .tileMapout := ofEvent rfl
theorem patrolScrub : Statement .patrolScrub := ofEvent rfl
theorem remoteAck : Statement .remoteAck := ofEvent rfl
theorem remoteTimeout : Statement .remoteTimeout := ofEvent rfl
theorem linkFailure : Statement .linkFailure := ofEvent rfl
theorem timeFlit : Statement .timeFlit := ofEvent rfl
theorem tempPowerSample : Statement .tempPowerSample := ofEvent rfl
theorem thermalStepUp : Statement .thermalStepUp := ofEvent rfl
theorem thermal : Statement .thermal := ofEvent rfl
theorem trip : Statement .trip := ofEvent rfl
theorem attach : Statement .attach := ofEvent rfl
theorem detach : Statement .detach := ofEvent rfl
theorem halt : Statement .halt := ofEvent rfl
theorem resume : Statement .resume := ofEvent rfl
theorem step : Statement .step := ofEvent rfl
theorem setbp : Statement .setbp := ofEvent rfl
theorem setwp : Statement .setwp := ofEvent rfl
theorem read : Statement .read := ofEvent rfl
theorem write : Statement .write := ofEvent rfl
theorem scope : Statement .scope := ofEvent rfl
theorem mem : Statement .mem := ofEvent rfl
theorem events : Statement .events := ofEvent rfl
theorem remoteOperationArrive : Statement .remoteOperationArrive := ofEvent rfl
theorem cxlMemAccess : Statement .cxlMemAccess := ofEvent rfl

end Sys2Proof.Laws.Encodes
end

