-- ==== Sys2Proof/Laws/Scopes.lean ====
section
/-! SUPPORT. Scope records by their identifiers (R26, R27), and what returns of weight do (R29). -/

namespace Sys2Proof.Machine

theorem scope?_iff {s : State} {sid : Nat} {c : Scope} : s.scope? sid = some c ↔
    tfind s.scopes (sid / 16384) = some c ∧ c.reuse = sid % 16384 ∧ c.state ≠ .free ∧ sid ≠ 0 := by
  unfold State.scope?
  cases h : tfind s.scopes (sid / 16384) with
  | none => simp
  | some d =>
    simp only [Option.some.injEq, Option.ite_none_right_eq_some]
    constructor
    · rintro ⟨h1, rfl⟩; exact ⟨rfl, h1⟩
    · rintro ⟨rfl, h1⟩; exact ⟨h1, rfl⟩
theorem scope?_setScope {s : State} {sid : Nat} {c : Scope} (h : s.scope? sid = some c) (c' : Scope)
    (hr : c'.reuse = c.reuse) (hs : c'.state ≠ .free) : (s.setScope sid c').scope? sid = some c' := by
  have h := scope?_iff.1 h
  rw [scope?_iff]
  exact ⟨by simp [State.setScope, tfind_tset], by rw [hr]; exact h.2.1, hs, h.2.2.2⟩
theorem setScope_other (s : State) (sid : Nat) (c : Scope) {k : Nat} (h : k ≠ sid / 16384) :
    tfind (s.setScope sid c).scopes k = tfind s.scopes k := by simp [State.setScope, tfind_tset, h]
theorem giveBack_returns (s : State) (d sid w : Nat) :
    (s.giveBack d sid w).returns = s.returns ++ (if w = 0 then [] else [⟨sid, w, .member, d⟩]) := by
  unfold State.giveBack; split <;> simp
theorem giveBack_scopes (s : State) (d sid w : Nat) : (s.giveBack d sid w).scopes = s.scopes := by
  unfold State.giveBack; split <;> rfl

end Sys2Proof.Machine
end

