-- ==== Sys2Proof/Tests/Slice0.lean ====
section
/-! SUPPORT. Tests: words written out from the spec's encodings, ill-formed terms, single steps
from small states, and states that meet the hypotheses of the obligations. -/

namespace Sys2Proof.Tests
open Sys2Proof Sys2Proof.Machine
set_option maxRecDepth 100000

/-! ## Small states -/

/-- Thread record 0 in context 0 of the compute core of tile 0, with some x registers. -/
def thd (xs : List (XReg × Word)) : Thread :=
  xs.foldl (fun th p => th.wx p.1 (.of p.2)) (State.freshThread 0x1000 .v3)

/-- The root scope record 0, identifier 1, of command 1. -/
def root0 : Scope := ⟨1, .closing, 0, 1, 0x10000000000, false, false, 0, false, 0, 0, 0, false, false, 1, 0, 0⟩

/-- A device on which one thread executes. -/
def dev (th : Thread) : State :=
  { State.reset with threads := [(0, th)], scopes := [(0, root0)], cur := some 0 }

/-- The device after an instruction, or `s` itself if there is none. -/
def nextOf (o : Out) (s : State) : State := match o with | .next s' => s' | _ => s

/-- Thread 0 after instruction `i` of a thread `th` alone on the device. -/
def after (i : Instr) (th : Thread) : Thread :=
  ((nextOf (exec i (dev th)) (dev th)).thread? 0).getD th

/-- Register results: with a in x6 and b in x7, x5 holds the value beside each instruction. -/
abbrev Gives (l : List (Instr × Word × Word × Word)) : Prop :=
  ∀ p ∈ l, (after p.1 (thd [(6, p.2.1), (7, p.2.2.1)])).rx 5 = .of p.2.2.2

/-! ## Ill-formed terms: one for each check -/

/-- What WellFormed refuses: k0 and m0 as destinations, types without a word, an odd MXRD destination, events. -/
theorem test_ill_formed : ∀ i ∈ ([
    .sopen 0 1, .senter 0 5, .senterV2 0 5, .vand .f32 1 2 3, .vor .i8 1 2 3, .vxor .bf16 1 2 3, .vshl .f32 1 2 3, .vshr .bf16 1 2 3,
    .vsra .f32 1 2 3, .vexp2 .i32 1 2, .vlog2 .bf16 1 2, .vrcp .i8 1 2, .vrsq .i32 1 2, .vmov .i32 1 2, .vtmask 0 1 2, .vcmpeq 0 1 2,
    .vcmpne 0 1 2, .vcmplt 0 1 2, .vcmple 0 1 2, .mand 0 1 2, .mor 0 1 2, .mnot 0 1, .mxrd 3 1 5, .waitReevaluate, .kilnTake, .cxlMemAccess]
      : List Instr), i.wf = false := by decide

/-- Next to each of them a term that is refused nothing. -/
theorem test_well_formed : ∀ i ∈ ([
    .sopen 7 0, .senter 1 5, .vand .i32 1 2 3, .vshl .i8 1 2 3, .vsra .i32 1 2 3, .vexp2 .f32 1 2, .vmov .f32 1 2, .vtmask 7 1 2, .mand 1 0 0,
    .mxrd 30 3 5, .vadd .bf16 31 31 31, .ecall] : List Instr), i.wf = true := by decide

/-- Which versions hold an instruction (R139). -/
theorem test_versions : ∀ p ∈ ([
    (.v1, .sclosea 2, false), (.v2, .sclosea 2, false), (.v3, .sclosea 2, true), (.v1, .scloseaV2 2, false), (.v2, .scloseaV2 2, true),
    (.v3, .scloseaV2 2, false), (.v1, .senterV2 1 5, false), (.v1, .chkcV1V2, true), (.v3, .chkcV1V2, false), (.v2, .chkc, false),
    (.v1, .mxstrm .s4 0 0 5 1, false), (.v2, .mxstrm .s4 0 0 5 1, true), (.v1, .mxstrm .i8i4 0 0 5 1, true), (.v2, .smkv 5 6, false),
    (.v1, .daccept 1 2 3, false), (.v3, .treegen 5 6 7, true)] : List (Version × Instr × Bool)), p.2.1.inVersion p.1 = p.2.2 := by decide

/-! ## Decoding: words written from the spec's tables, one for each instruction word -/

/-- Format X3 and the base R type (R123). -/
def wR (f7 : BitVec 7) (rs2 rs1 : BitVec 5) (f3 : BitVec 3) (rd : BitVec 5) (op : BitVec 7) : W32 :=
  f7 ++ rs2 ++ rs1 ++ f3 ++ rd ++ op
/-- Format X4 (R123). -/
def w4 (rs3 : BitVec 5) (f2 : BitVec 2) (rs2 rs1 : BitVec 5) (f3 : BitVec 3) (rd : BitVec 5)
    (op : BitVec 7) : W32 := rs3 ++ f2 ++ rs2 ++ rs1 ++ f3 ++ rd ++ op
/-- Format XI and the base I type (R123). -/
def wI (imm : BitVec 12) (rs1 : BitVec 5) (f3 : BitVec 3) (rd : BitVec 5) (op : BitVec 7) : W32 :=
  imm ++ rs1 ++ f3 ++ rd ++ op
/-- Format XS and the base S type (R123). -/
def wS (imm : BitVec 12) (rs2 rs1 : BitVec 5) (f3 : BitVec 3) (op : BitVec 7) : W32 :=
  imm.extractLsb' 5 7 ++ rs2 ++ rs1 ++ f3 ++ imm.extractLsb' 0 5 ++ op
/-- Format XB and the base B type, with the byte offset (R123). -/
def wB (off : BitVec 13) (rs2 rs1 : BitVec 5) (f3 : BitVec 3) (op : BitVec 7) : W32 :=
  off.extractLsb' 12 1 ++ off.extractLsb' 5 6 ++ rs2 ++ rs1 ++ f3 ++ off.extractLsb' 1 4
    ++ off.extractLsb' 11 1 ++ op
/-- The base U type. -/
def wU (imm : BitVec 20) (rd : BitVec 5) (op : BitVec 7) : W32 := imm ++ rd ++ op
/-- The base J type, with the byte offset. -/
def wJ (off : BitVec 21) (rd : BitVec 5) (op : BitVec 7) : W32 :=
  off.extractLsb' 20 1 ++ off.extractLsb' 1 10 ++ off.extractLsb' 11 1 ++ off.extractLsb' 12 8 ++ rd ++ op

/-- Every word of a list decodes to the instruction beside it. -/
abbrev Decodes (l : List (W32 × Instr)) : Prop := ∀ p ∈ l, decode .v3 p.1 = some p.2


/-- Words the spec writes out, by the pages of its instructions. -/
theorem test_decode_spec_words_1 : Decodes [
    (0x3862F50B, .spawn 10 5 6 7),
    (0x18C204FB, .mxstrm .mx4 1 4 12 3),
    (0x54C5952B, .amocas .die .d 10 11 12),
    (0x6980202B, .fenceReach .package 2 3),
    (0x0062E60B, .jtab 5 6 12),
    (0x0801800B, .scancel 3),
    (0x0600358B, .void 11),
    (0x080E3E8B, .vtest 29 28),
    (0x000E440B, .bvoid 28 4),
    (0x0000008B, .sopen 1 0),
    (0x0200850B, .sclose 10 1),
    (0x0401000B, .sclosea 2)] := by decide

/-- Words the spec writes out, by the pages of its instructions. -/
theorem test_decode_spec_words_2 : Decodes [
    (0x0606018B, .senter 3 12),
    (0x0A00028B, .succeed 5),
    (0x0C00000B, .shield),
    (0x0E00000B, .unshield),
    (0x1000000B, .chkc),
    (0x1200830B, .sstat 6 1),
    (0x1400000B, .exit),
    (0x1600000B, .yield),
    (0x3A62F10B, .spawnIn 2 5 6 7),
    (0x00C5950B, .tsknew 10 11 12),
    (0x0205100B, .tskpub 10),
    (0x0405100B, .tsksig 10)] := by decide

/-- Words the spec writes out, by the pages of its instructions. -/
theorem test_decode_spec_words_3 : Decodes [
    (0x0605128B, .tskstat 5 10),
    (0x0862938B, .rnginit 7 5 6),
    (0x0A00150B, .rclaim 10),
    (0x0C05950B, .rsteal 10 11),
    (0x00B5200B, .msend 10 11),
    (0x02B5200B, .msend4 10 11),
    (0x0400250B, .mrecv 10 0),
    (0x0605A50B, .mrecv4 10 11),
    (0x0800250B, .mpeek 10 0),
    (0x0A05A50B, .bar 10 11),
    (0x0065328B, .waiteq 5 10 6),
    (0x0265328B, .waitne 5 10 6)] := by decide

/-- Words the spec writes out, by the pages of its instructions. -/
theorem test_decode_spec_words_4 : Decodes [
    (0x0465328B, .waitge 5 10 6),
    (0x3005852B, .lda .cluster .w 10 11),
    (0x32B5002B, .stl .cluster .w 10 11),
    (0x1C0502AB, .lds .d 5 10),
    (0x16B5002B, .mcst .w 10 11),
    (0x60C5952B, .amoadd .package .w 10 11 12),
    (0x42C5952B, .amoswp .die .w 10 11 12),
    (0x60B532AB, .cpy 5 10 11 12),
    (0x66B532AB, .cpymc 37 10 11 12),
    (0x60B572AB, .cpy2d 5 10 11 12),
    (0x00A1C02B, .cbcfg 3 10),
    (0x026142AB, .cbwaitf 5 2 6)] := by decide

/-- Words the spec writes out, by the pages of its instructions. -/
theorem test_decode_spec_words_5 : Decodes [
    (0x046142AB, .cbwaite 5 2 6),
    (0x0661402B, .cbadvp 2 6),
    (0x0861402B, .cbadvc 2 6),
    (0x0A6142AB, .cbstat 5 2 6),
    (0x0C0542AB, .tagwa 5 10),
    (0x0E0542AB, .tagwl 5 10),
    (0x100542AB, .tagff 5 10),
    (0x1205402B, .tagclr 10),
    (0x14B5402B, .bgive 10 11),
    (0x16B542AB, .btake 5 10 11),
    (0x180542AB, .bstat 5 10),
    (0x00A0D2AB, .qld 5 1 10)] := by decide

/-- Words the spec writes out, by the pages of its instructions. -/
theorem test_decode_spec_words_6 : Decodes [
    (0x02A0D2AB, .qldw 5 1 10),
    (0x0450D52B, .qst 10 1 5),
    (0x0650D52B, .qstw 10 1 5),
    (0x08A0D12B, .qldq 2 1 10),
    (0x0A20D52B, .qstq 10 1 2),
    (0x0CB550AB, .qnew 1 10 11),
    (0x0E00D2AB, .qpin 5 1),
    (0x1000D02B, .qunpin 1),
    (0x1220D2AB, .qeq 5 1 2),
    (0x14A0D12B, .qtag 2 1 10),
    (0x160050AB, .qclr 1),
    (0x1800D12B, .qmv 2 1)] := by decide

/-- Words the spec writes out, by the pages of its instructions. -/
theorem test_decode_spec_words_7 : Decodes [
    (0x1AA0D2AB, .reloc 5 1 10),
    (0x003100DB, .vadd .f32 1 2 3),
    (0x8462825B, .vmul .bf16 4 5 6),
    (0x203110DB, .vfma 1 2 3 4),
    (0x243110DB, .vsel 1 2 3 4),
    (0x100520DB, .vld 1 10 256),
    (0x1015305B, .vst 1 10 256),
    (0x102570DB, .vldx 1 10 2),
    (0x000140DB, .vredsum 1 2),
    (0x0C3140DB, .vperm 1 2 3),
    (0x043170DB, .vcmplt 1 2 3),
    (0x0E00F55B, .mpop 10 1)] := by decide

/-- Words the spec writes out, by the pages of its instructions. -/
theorem test_decode_spec_words_8 : Decodes [
    (0x280160DB, .vcvt .f32mx4 1 2),
    (0x00A4525B, .vhad 4 8 10),
    (0x02A150DB, .vtopk 1 2 10),
    (0x043150DB, .vtmask 1 2 3),
    (0x00A1107B, .mxldw 2 10),
    (0x0200107B, .mxswap),
    (0x0400117B, .mxzero 2),
    (0x06A092FB, .mxwb 5 1 10),
    (0x08A0917B, .mxrd 2 1 10),
    (0x0A00157B, .mxwait 10),
    (0x0C00957B, .mxstat 10 1),
    (0x0005207B, .smbind 10)] := by decide

/-- Words the spec writes out, by the pages of its instructions. -/
theorem test_decode_spec_words_9 : Decodes [
    (0x02B522FB, .smcommit 5 10 11),
    (0x0405207B, .smplay 10),
    (0x060522FB, .smframe 5 10),
    (0x080022FB, .smtrunc 5),
    (0x0A05207B, .smsnap 10),
    (0x0C0522FB, .smstat 5 10),
    (0x0E0522FB, .smkv 5 10),
    (0x00B532FB, .phash 5 10 11),
    (0x02B532FB, .pfxlook 5 10 11),
    (0x04B532FB, .pfxins 5 10 11),
    (0x0605307B, .pfxpin 10),
    (0x0805307B, .pfxunpin 10)] := by decide

/-- Words the spec writes out, by the pages of its instructions. -/
theorem test_decode_spec_words_10 : Decodes [
    (0x00B540FB, .sdraw 1 10 11),
    (0x02B542FB, .topkmrg 5 10 11),
    (0x04B542FB, .treegen 5 10 11),
    (0x063140FB, .daccept 1 2 3)] := by decide

/-- Words built field by field from R122 to R138 and the base encodings. -/
theorem test_decode_field_words_1 : Decodes [
    (wU 0x9ABCD 21 0x37, .lui 21 0x9ABCD),
    (wU 0x9ABCD 21 0x17, .auipc 21 0x9ABCD),
    (wJ 0x1A5B36 1 0x6F, .jal 1 0x0D2D9B),
    (wI 0x8A5 11 0 1 0x67, .jalr 1 11 0x8A5),
    (wB 0x1A34 6 11 0 0x63, .beq 11 6 0xD1A),
    (wB 0x1A34 6 11 1 0x63, .bne 11 6 0xD1A),
    (wB 0x1A34 6 11 4 0x63, .blt 11 6 0xD1A),
    (wB 0x1A34 6 11 5 0x63, .bge 11 6 0xD1A),
    (wB 0x1A34 6 11 6 0x63, .bltu 11 6 0xD1A),
    (wB 0x1A34 6 11 7 0x63, .bgeu 11 6 0xD1A),
    (wI 0x8A5 11 0 21 0x03, .lb 21 11 0x8A5),
    (wI 0x8A5 11 1 21 0x03, .lh 21 11 0x8A5)] := by decide

/-- Words built field by field from R122 to R138 and the base encodings. -/
theorem test_decode_field_words_2 : Decodes [
    (wI 0x8A5 11 2 21 0x03, .lw 21 11 0x8A5),
    (wI 0x8A5 11 3 21 0x03, .ld 21 11 0x8A5),
    (wI 0x8A5 11 4 21 0x03, .lbu 21 11 0x8A5),
    (wI 0x8A5 11 5 21 0x03, .lhu 21 11 0x8A5),
    (wI 0x8A5 11 6 21 0x03, .lwu 21 11 0x8A5),
    (wS 0x8A5 6 11 0 0x23, .sb 11 6 0x8A5),
    (wS 0x8A5 6 11 1 0x23, .sh 11 6 0x8A5),
    (wS 0x8A5 6 11 2 0x23, .sw 11 6 0x8A5),
    (wS 0x8A5 6 11 3 0x23, .sd 11 6 0x8A5),
    (wI 0x8A5 11 0 21 0x13, .addi 21 11 0x8A5),
    (wI 0x8A5 11 2 21 0x13, .slti 21 11 0x8A5),
    (wI 0x8A5 11 3 21 0x13, .sltiu 21 11 0x8A5)] := by decide

/-- Words built field by field from R122 to R138 and the base encodings. -/
theorem test_decode_field_words_3 : Decodes [
    (wI 0x8A5 11 4 21 0x13, .xori 21 11 0x8A5),
    (wI 0x8A5 11 6 21 0x13, .ori 21 11 0x8A5),
    (wI 0x8A5 11 7 21 0x13, .andi 21 11 0x8A5),
    (wI 0x02D 11 1 21 0x13, .slli 21 11 45),
    (wI 0x02D 11 5 21 0x13, .srli 21 11 45),
    (wI 0x42D 11 5 21 0x13, .srai 21 11 45),
    (wI 0x8A5 11 0 21 0x1B, .addiw 21 11 0x8A5),
    (wI 0x013 11 1 21 0x1B, .slliw 21 11 19),
    (wI 0x013 11 5 21 0x1B, .srliw 21 11 19),
    (wI 0x413 11 5 21 0x1B, .sraiw 21 11 19),
    (wR 0x00 6 11 0 21 0x33, .add 21 11 6),
    (wR 0x20 6 11 0 21 0x33, .sub 21 11 6)] := by decide

/-- Words built field by field from R122 to R138 and the base encodings. -/
theorem test_decode_field_words_4 : Decodes [
    (wR 0x00 6 11 1 21 0x33, .sll 21 11 6),
    (wR 0x00 6 11 2 21 0x33, .slt 21 11 6),
    (wR 0x00 6 11 3 21 0x33, .sltu 21 11 6),
    (wR 0x00 6 11 4 21 0x33, .xor 21 11 6),
    (wR 0x00 6 11 5 21 0x33, .srl 21 11 6),
    (wR 0x20 6 11 5 21 0x33, .sra 21 11 6),
    (wR 0x00 6 11 6 21 0x33, .or 21 11 6),
    (wR 0x00 6 11 7 21 0x33, .and 21 11 6),
    (wR 0x01 6 11 0 21 0x33, .mul 21 11 6),
    (wR 0x01 6 11 1 21 0x33, .mulh 21 11 6),
    (wR 0x01 6 11 2 21 0x33, .mulhsu 21 11 6),
    (wR 0x01 6 11 3 21 0x33, .mulhu 21 11 6)] := by decide

/-- Words built field by field from R122 to R138 and the base encodings. -/
theorem test_decode_field_words_5 : Decodes [
    (wR 0x01 6 11 4 21 0x33, .div 21 11 6),
    (wR 0x01 6 11 5 21 0x33, .divu 21 11 6),
    (wR 0x01 6 11 6 21 0x33, .rem 21 11 6),
    (wR 0x01 6 11 7 21 0x33, .remu 21 11 6),
    (wR 0x00 6 11 0 21 0x3B, .addw 21 11 6),
    (wR 0x20 6 11 0 21 0x3B, .subw 21 11 6),
    (wR 0x00 6 11 1 21 0x3B, .sllw 21 11 6),
    (wR 0x00 6 11 5 21 0x3B, .srlw 21 11 6),
    (wR 0x20 6 11 5 21 0x3B, .sraw 21 11 6),
    (wR 0x01 6 11 0 21 0x3B, .mulw 21 11 6),
    (wR 0x01 6 11 4 21 0x3B, .divw 21 11 6),
    (wR 0x01 6 11 5 21 0x3B, .divuw 21 11 6)] := by decide

/-- Words built field by field from R122 to R138 and the base encodings. -/
theorem test_decode_field_words_6 : Decodes [
    (wR 0x01 6 11 6 21 0x3B, .remw 21 11 6),
    (wR 0x01 6 11 7 21 0x3B, .remuw 21 11 6),
    (wI 0x833 11 0 21 0x0F, .fence 8 3 3 21 11),
    (wI 0x8A5 11 1 21 0x73, .csrrw 21 11 0x8A5),
    (wI 0x8A5 11 2 21 0x73, .csrrs 21 11 0x8A5),
    (wI 0x8A5 11 3 21 0x73, .csrrc 21 11 0x8A5),
    (wI 0x8A5 11 5 21 0x73, .csrrwi 21 11 0x8A5),
    (wI 0x8A5 11 6 21 0x73, .csrrsi 21 11 0x8A5),
    (wI 0x8A5 11 7 21 0x73, .csrrci 21 11 0x8A5),
    (wI 0x000 0 0 0 0x73, .ecall),
    (wI 0x001 0 0 0 0x73, .ebreak),
    (wI 0x302 0 0 0 0x73, .mret)] := by decide

/-- Words built field by field from R122 to R138 and the base encodings. -/
theorem test_decode_field_words_7 : Decodes [
    (wI 0x105 0 0 0 0x73, .wfi),
    (wI 0x8A5 11 2 21 0x07, .flw 21 11 0x8A5),
    (wS 0x8A5 6 11 2 0x27, .fsw 11 6 0x8A5),
    (w4 29 0 6 11 1 21 0x43, .fmaddS 21 11 6 29 .rtz),
    (w4 29 0 6 11 1 21 0x47, .fmsubS 21 11 6 29 .rtz),
    (w4 29 0 6 11 1 21 0x4B, .fnmsubS 21 11 6 29 .rtz),
    (w4 29 0 6 11 1 21 0x4F, .fnmaddS 21 11 6 29 .rtz),
    (wR 0x00 6 11 2 21 0x53, .faddS 21 11 6 .rdn),
    (wR 0x04 6 11 2 21 0x53, .fsubS 21 11 6 .rdn),
    (wR 0x08 6 11 2 21 0x53, .fmulS 21 11 6 .rdn),
    (wR 0x0C 6 11 2 21 0x53, .fdivS 21 11 6 .rdn),
    (wR 0x2C 0 11 3 21 0x53, .fsqrtS 21 11 .rup)] := by decide

/-- Words built field by field from R122 to R138 and the base encodings. -/
theorem test_decode_field_words_8 : Decodes [
    (wR 0x10 6 11 0 21 0x53, .fsgnjS 21 11 6),
    (wR 0x10 6 11 1 21 0x53, .fsgnjnS 21 11 6),
    (wR 0x10 6 11 2 21 0x53, .fsgnjxS 21 11 6),
    (wR 0x14 6 11 0 21 0x53, .fminS 21 11 6),
    (wR 0x14 6 11 1 21 0x53, .fmaxS 21 11 6),
    (wR 0x50 6 11 2 21 0x53, .feqS 21 11 6),
    (wR 0x50 6 11 1 21 0x53, .fltS 21 11 6),
    (wR 0x50 6 11 0 21 0x53, .fleS 21 11 6),
    (wR 0x70 0 11 1 21 0x53, .fclassS 21 11),
    (wR 0x70 0 11 0 21 0x53, .fmvXW 21 11),
    (wR 0x78 0 11 0 21 0x53, .fmvWX 21 11),
    (wR 0x60 0 11 4 21 0x53, .fcvtWS 21 11 .rmm)] := by decide

/-- Words built field by field from R122 to R138 and the base encodings. -/
theorem test_decode_field_words_9 : Decodes [
    (wR 0x60 1 11 4 21 0x53, .fcvtWuS 21 11 .rmm),
    (wR 0x60 2 11 4 21 0x53, .fcvtLS 21 11 .rmm),
    (wR 0x60 3 11 4 21 0x53, .fcvtLuS 21 11 .rmm),
    (wR 0x68 0 11 7 21 0x53, .fcvtSW 21 11 .dyn),
    (wR 0x68 1 11 7 21 0x53, .fcvtSWu 21 11 .dyn),
    (wR 0x68 2 11 7 21 0x53, .fcvtSL 21 11 .dyn),
    (wR 0x68 3 11 7 21 0x53, .fcvtSLu 21 11 .dyn),
    (wB 0x1A34 0 11 5 0x0B, .bnvoid 11 0xD1A),
    (wR 0x53 6 11 1 21 0x2B, .amomax .system .w 21 11 6),
    (wR 0x54 6 11 1 21 0x2B, .amomin .system .w 21 11 6),
    (wR 0x55 6 11 1 21 0x2B, .amoand .system .w 21 11 6),
    (wR 0x56 6 11 1 21 0x2B, .amoor .system .w 21 11 6)] := by decide

/-- Words built field by field from R122 to R138 and the base encodings. -/
theorem test_decode_field_words_10 : Decodes [
    (wR 0x57 6 11 1 21 0x2B, .amoxor .system .w 21 11 6),
    (wR 0x0F 6 11 1 21 0x2B, .amoxor .tile .d 21 11 6),
    (wR 0x61 6 11 0 21 0x5B, .vsub .i8 21 11 6),
    (wR 0x23 6 11 0 21 0x5B, .vmax .i32 21 11 6),
    (wR 0x44 6 11 0 21 0x5B, .vmin .bf16 21 11 6),
    (wR 0x25 6 11 0 21 0x5B, .vand .i32 21 11 6),
    (wR 0x26 6 11 0 21 0x5B, .vor .i32 21 11 6),
    (wR 0x27 6 11 0 21 0x5B, .vxor .i32 21 11 6),
    (wR 0x68 6 11 0 21 0x5B, .vshl .i8 21 11 6),
    (wR 0x29 6 11 0 21 0x5B, .vshr .i32 21 11 6),
    (wR 0x6A 6 11 0 21 0x5B, .vsra .i8 21 11 6),
    (wR 0x4B 0 11 0 21 0x5B, .vabs .bf16 21 11)] := by decide

/-- Words built field by field from R122 to R138 and the base encodings. -/
theorem test_decode_field_words_11 : Decodes [
    (wR 0x6C 0 11 0 21 0x5B, .vneg .i8 21 11),
    (wR 0x0D 0 11 0 21 0x5B, .vexp2 .f32 21 11),
    (wR 0x0E 0 11 0 21 0x5B, .vlog2 .f32 21 11),
    (wR 0x0F 0 11 0 21 0x5B, .vrcp .f32 21 11),
    (wR 0x10 0 11 0 21 0x5B, .vrsq .f32 21 11),
    (wR 0x11 0 11 0 21 0x5B, .vmov .f32 21 11),
    (wR 0x32 0 11 0 21 0x5B, .vbcast .i32 21 11),
    (w4 29 1 6 11 1 21 0x5B, .vfms 21 11 6 29),
    (wR 0x01 0 11 4 21 0x5B, .vredmax 21 11),
    (wR 0x02 0 11 4 21 0x5B, .vredmin 21 11),
    (wR 0x03 6 11 4 21 0x5B, .vmvx 21 11 6),
    (wR 0x04 6 11 4 21 0x5B, .vmvf 21 11 6)] := by decide

/-- Words built field by field from R122 to R138 and the base encodings. -/
theorem test_decode_field_words_12 : Decodes [
    (wR 0x05 6 11 4 21 0x5B, .vins 21 11 6),
    (wR 0x07 6 11 4 21 0x5B, .vslide 21 11 6),
    (wR 0x00 6 11 7 5 0x5B, .vcmpeq 5 11 6),
    (wR 0x01 6 11 7 5 0x5B, .vcmpne 5 11 6),
    (wR 0x03 6 11 7 5 0x5B, .vcmple 5 11 6),
    (wR 0x04 6 3 7 5 0x5B, .mand 5 3 6),
    (wR 0x05 6 3 7 5 0x5B, .mor 5 3 6),
    (wR 0x06 0 3 7 5 0x5B, .mnot 5 3),
    (wR 0x09 6 11 7 21 0x5B, .vstx 21 11 6),
    (wR 0x0A 6 11 7 21 0x5B, .vlds 21 11 6),
    (wR 0x00 0 11 6 21 0x5B, .vcvt .f32i32 21 11),
    (wR 0x01 0 11 6 21 0x5B, .vcvt .i32f32 21 11)] := by decide

/-- Words built field by field from R122 to R138 and the base encodings. -/
theorem test_decode_field_words_13 : Decodes [
    (wR 0x02 0 11 6 21 0x5B, .vcvt .f32bf16 21 11),
    (wR 0x03 0 11 6 21 0x5B, .vcvt .bf16f32 21 11),
    (wR 0x04 0 11 6 21 0x5B, .vcvt .f32f16 21 11),
    (wR 0x05 0 11 6 21 0x5B, .vcvt .f16f32 21 11),
    (wR 0x06 0 11 6 21 0x5B, .vcvt .f32e4 21 11),
    (wR 0x07 0 11 6 21 0x5B, .vcvt .e4f32 21 11),
    (wR 0x08 0 11 6 21 0x5B, .vcvt .f32e5 21 11),
    (wR 0x09 0 11 6 21 0x5B, .vcvt .e5f32 21 11),
    (wR 0x0A 0 11 6 21 0x5B, .vcvt .f32i8 21 11),
    (wR 0x0B 0 11 6 21 0x5B, .vcvt .i8f32 21 11),
    (wR 0x0C 0 11 6 21 0x5B, .vcvt .f32i4 21 11),
    (wR 0x0D 0 11 6 21 0x5B, .vcvt .i4f32 21 11)] := by decide

/-- Words built field by field from R122 to R138 and the base encodings. -/
theorem test_decode_field_words_14 : Decodes [
    (wR 0x0E 0 11 6 21 0x5B, .vcvt .f32ln6 21 11),
    (wR 0x0F 0 11 6 21 0x5B, .vcvt .ln6f32 21 11),
    (wR 0x10 0 11 6 21 0x5B, .vcvt .f32mx8 21 11),
    (wR 0x11 0 11 6 21 0x5B, .vcvt .mx8f32 21 11),
    (wR 0x12 0 11 6 21 0x5B, .vcvt .f32mx6 21 11),
    (wR 0x13 0 11 6 21 0x5B, .vcvt .mx6f32 21 11),
    (wR 0x14 0 11 6 21 0x5B, .vcvt .f32mx4 21 11),
    (wR 0x15 0 11 6 21 0x5B, .vcvt .mx4f32 21 11),
    (wR 0x16 0 11 6 21 0x5B, .vcvt .f32s4 21 11),
    (wR 0x17 0 11 6 21 0x5B, .vcvt .s4f32 21 11),
    (w4 29 0 6 11 0 2 0x7B, .mxstrm .bb 2 11 6 29),
    (w4 29 1 6 11 0 2 0x7B, .mxstrm .hh 2 11 6 29)] := by decide

/-- Words built field by field from R122 to R138 and the base encodings. -/
theorem test_decode_field_words_15 : Decodes [
    (w4 29 2 6 11 0 2 0x7B, .mxstrm .e4e4 2 11 6 29),
    (w4 29 3 6 11 0 2 0x7B, .mxstrm .e4e5 2 11 6 29),
    (w4 29 0 6 11 0 6 0x7B, .mxstrm .e5e4 2 11 6 29),
    (w4 29 1 6 11 0 6 0x7B, .mxstrm .e5e5 2 11 6 29),
    (w4 29 2 6 11 0 6 0x7B, .mxstrm .mx8 2 11 6 29),
    (w4 29 3 6 11 0 6 0x7B, .mxstrm .mx6 2 11 6 29),
    (w4 29 0 6 11 0 10 0x7B, .mxstrm .mx4 2 11 6 29),
    (w4 29 1 6 11 0 10 0x7B, .mxstrm .mx4x8 2 11 6 29),
    (w4 29 2 6 11 0 10 0x7B, .mxstrm .s4 2 11 6 29),
    (w4 29 3 6 11 0 10 0x7B, .mxstrm .i8 2 11 6 29),
    (w4 29 0 6 11 0 14 0x7B, .mxstrm .i8i4 2 11 6 29),
    (w4 29 1 6 11 0 14 0x7B, .mxstrm .ln6 2 11 6 29)] := by decide

/-- The function codes of versions 1 and 2 (R139). -/
theorem test_decode_other_versions : ∀ p ∈ ([
    (.v2, wR 0x0A 0 2 0 0 0x0B, .scloseaV2 2),
    (.v2, wR 0x0B 0 12 0 3 0x0B, .senterV2 3 12),
    (.v1, wR 0x02 0 3 0 0 0x0B, .scancelV1V2 3),
    (.v2, wR 0x02 0 3 0 0 0x0B, .scancelV1V2 3),
    (.v1, wR 0x03 0 0 0 5 0x0B, .succeedV1V2 5),
    (.v2, wR 0x03 0 0 0 5 0x0B, .succeedV1V2 5),
    (.v1, wR 0x04 0 0 0 0 0x0B, .shieldV1V2),
    (.v2, wR 0x04 0 0 0 0 0x0B, .shieldV1V2),
    (.v1, wR 0x05 0 0 0 0 0x0B, .unshieldV1V2),
    (.v2, wR 0x05 0 0 0 0 0x0B, .unshieldV1V2),
    (.v1, wR 0x06 0 0 0 0 0x0B, .chkcV1V2),
    (.v2, wR 0x06 0 0 0 0 0x0B, .chkcV1V2),
    (.v1, wR 0x07 0 1 0 6 0x0B, .sstatV1V2 6 1),
    (.v2, wR 0x07 0 1 0 6 0x0B, .sstatV1V2 6 1),
    (.v1, wR 0x08 0 0 0 0 0x0B, .exitV1V2),
    (.v2, wR 0x08 0 0 0 0 0x0B, .exitV1V2),
    (.v1, wR 0x09 0 0 0 0 0x0B, .yieldV1V2),
    (.v2, wR 0x09 0 0 0 0 0x0B, .yieldV1V2)] : List (Version × W32 × Instr)), decode p.1 p.2.1 = some p.2.2 := by decide

/-- Words that are no instruction under the version beside them (R122 to R139). -/
theorem test_unassigned_words_1 : ∀ p ∈ ([
    (.v1, wR 0x0A 0 2 0 0 0x0B),
    (.v1, wR 0x0B 0 12 0 3 0x0B),
    (.v1, wR 0x07 0 10 2 5 0x7B),
    (.v2, wR 0x07 0 10 2 5 0x7B),
    (.v1, wR 0x02 11 10 4 5 0x7B),
    (.v2, wR 0x02 11 10 4 5 0x7B),
    (.v1, wR 0x03 3 2 4 1 0x7B),
    (.v2, wR 0x03 3 2 4 1 0x7B),
    (.v3, wR 0x0C 0 0 0 0 0x0B),
    (.v3, wR 0x00 0 0 0 0 0x0B),
    (.v3, wR 0x03 0 12 0 0 0x0B),
    (.v3, wR 0x00 0 8 0 1 0x0B)] : List (Version × W32)), decode p.1 p.2 = none := by decide

/-- Words that are no instruction under the version beside them (R122 to R139). -/
theorem test_unassigned_words_2 : ∀ p ∈ ([
    (.v3, wR 0x00 0 1 0 17 0x0B),
    (.v3, wR 0x00 1 0 0 1 0x0B),
    (.v3, wR 0x60 6 11 1 21 0x2B),
    (.v3, wR 0x12 0 11 0 21 0x2B),
    (.v3, wR 0x05 6 11 0 21 0x5B),
    (.v3, wR 0x08 6 11 0 21 0x5B),
    (.v3, wR 0x2D 0 11 0 21 0x5B),
    (.v3, wR 0x13 0 11 0 21 0x5B),
    (.v3, wR 0x02 6 11 5 0 0x5B),
    (.v3, wR 0x04 6 3 7 0 0x5B),
    (.v3, wR 0x00 6 11 7 8 0x5B),
    (.v3, wR 0x04 6 1 1 21 0x7B)] : List (Version × W32)), decode p.1 p.2 = none := by decide

/-- Words that are no instruction under the version beside them (R122 to R139). -/
theorem test_unassigned_words_3 : ∀ p ∈ ([
    (.v3, wR 0x04 6 4 1 20 0x7B),
    (.v3, wR 0x18 0 11 6 21 0x5B),
    (.v3, wR 0x2C 0 11 5 21 0x53),
    (.v3, wR 0x01 6 11 2 21 0x53),
    (.v3, wR 0x00 0 0 1 0 0x0F),
    (.v3, wR 0x00 6 11 0 21 0x2F),
    (.v3, wR 0x00 6 11 6 21 0x2B),
    (.v3, wR 0x00 6 11 5 21 0x7B),
    (.v3, wR 0x00 6 11 0 21 0x31),
    (.v1, w4 29 2 6 11 0 10 0x7B),
    (.v1, w4 29 1 6 11 0 14 0x7B),
    (.v3, w4 29 2 6 11 0 14 0x7B)] : List (Version × W32)), decode p.1 p.2 = none := by decide

/-- Words that are no instruction under the version beside them (R122 to R139). -/
theorem test_unassigned_words_4 : ∀ p ∈ ([
    (.v3, w4 7 2 6 5 7 10 0x0B),
    (.v3, w4 7 1 6 5 7 8 0x0B),
    (.v3, w4 29 1 6 11 7 10 0x2B),
    (.v3, w4 29 3 6 11 1 21 0x5B),
    (.v3, wI 0xC01 0 2 0 0x2B),
    (.v3, wI 0xC00 0 2 0 0x2B)] : List (Version × W32)), decode p.1 p.2 = none := by decide
/-! ## One step: the scalar base -/

/-- Wraps, signs and shift amounts of register arithmetic (R140). -/
theorem test_op : Gives [
  (.add 5 6 7, 0xFFFFFFFFFFFFFFFF, 2, 1), (.sub 5 6 7, 1, 2, 0xFFFFFFFFFFFFFFFF),
  (.sll 5 6 7, 3, 65, 6), (.slt 5 6 7, 0x8000000000000000, 0, 1), (.sltu 5 6 7, 0x8000000000000000, 0, 0),
  (.xor 5 6 7, 12, 10, 6), (.srl 5 6 7, 0x8000000000000000, 63, 1),
  (.sra 5 6 7, 0x8000000000000000, 63, 0xFFFFFFFFFFFFFFFF), (.or 5 6 7, 12, 10, 14), (.and 5 6 7, 12, 10, 8),
  (.addw 5 6 7, 0x7FFFFFFF, 1, 0xFFFFFFFF80000000), (.subw 5 6 7, 0x100000000, 1, 0xFFFFFFFFFFFFFFFF),
  (.sllw 5 6 7, 1, 31, 0xFFFFFFFF80000000), (.srlw 5 6 7, 0xF80000000, 31, 1),
  (.sraw 5 6 7, 0x80000000, 31, 0xFFFFFFFFFFFFFFFF)] := by decide

/-- The M extension's corners: high halves, division by zero and the one overflow (R140). -/
theorem test_op_m : Gives [
  (.mul 5 6 7, 0xFFFFFFFFFFFFFFFF, 3, 0xFFFFFFFFFFFFFFFD), (.mulh 5 6 7, 0xFFFFFFFFFFFFFFFF, 3, 0xFFFFFFFFFFFFFFFF),
  (.mulhsu 5 6 7, 0xFFFFFFFFFFFFFFFF, 0xFFFFFFFFFFFFFFFF, 0xFFFFFFFFFFFFFFFF),
  (.mulhu 5 6 7, 0xFFFFFFFFFFFFFFFF, 0xFFFFFFFFFFFFFFFF, 0xFFFFFFFFFFFFFFFE),
  (.div 5 6 7, 0xFFFFFFFFFFFFFFF9, 2, 0xFFFFFFFFFFFFFFFD), (.div 5 6 7, 0x8000000000000000, 0xFFFFFFFFFFFFFFFF, 0x8000000000000000),
  (.divu 5 6 7, 7, 0, 0xFFFFFFFFFFFFFFFF), (.rem 5 6 7, 0xFFFFFFFFFFFFFFF9, 2, 0xFFFFFFFFFFFFFFFF),
  (.rem 5 6 7, 0x8000000000000000, 0xFFFFFFFFFFFFFFFF, 0), (.remu 5 6 7, 7, 0, 7),
  (.mulw 5 6 7, 0x10000, 0x8000, 0xFFFFFFFF80000000), (.divw 5 6 7, 0x80000000, 0xFFFFFFFF, 0xFFFFFFFF80000000),
  (.divuw 5 6 7, 0xFFFFFFFF, 1, 0xFFFFFFFFFFFFFFFF), (.remw 5 6 7, 0xFFFFFFF9, 0, 0xFFFFFFFFFFFFFFF9),
  (.remuw 5 6 7, 0x80000000, 0, 0xFFFFFFFF80000000)] := by decide

/-- Immediates are sign-extended; the W forms sign-extend bit 31 (R140). -/
theorem test_op_imm : Gives [
  (.addi 5 6 0xFFF, 5, 0, 4), (.slti 5 6 0xFFF, 0xFFFFFFFFFFFFFFFE, 0, 1), (.sltiu 5 6 0xFFF, 5, 0, 1),
  (.xori 5 6 0xFFF, 5, 0, 0xFFFFFFFFFFFFFFFA), (.ori 5 6 0x800, 1, 0, 0xFFFFFFFFFFFFF801), (.andi 5 6 0x80F, 0x81F, 0, 0x80F),
  (.slli 5 6 63, 3, 0, 0x8000000000000000), (.srli 5 6 63, 0x8000000000000000, 0, 1),
  (.srai 5 6 62, 0x8000000000000000, 0, 0xFFFFFFFFFFFFFFFE), (.addiw 5 6 1, 0x7FFFFFFF, 0, 0xFFFFFFFF80000000),
  (.slliw 5 6 31, 3, 0, 0xFFFFFFFF80000000), (.srliw 5 6 31, 0x180000000, 0, 1), (.sraiw 5 6 31, 0x80000000, 0, 0xFFFFFFFFFFFFFFFF),
  (.lui 5 0x80000, 0, 0, 0xFFFFFFFF80000000), (.auipc 5 0x00001, 0, 0, 0x2000)] := by decide

/-- A void source gives VOIDWORD and PROP; x0 discards even a void (R147, R150). -/
theorem test_void_op :
    ((after (.add 28 11 7) ((thd [(7, 20)]).wx 11 .voidword)).rx 28 = .voidword ∧
     (after (.add 28 11 7) ((thd [(7, 20)]).wx 11 .voidword)).voidseen = 1 ∧
     (after (.void 0) (thd [])).rx 0 = ⟨0, false⟩ ∧ (after (.void 11) (thd [])).voidseen = 0) := by decide

/-- Where each instruction goes from 0x1000, with x6 and x7 as given (R140, R153, R154). -/
theorem test_control_flow : ∀ p ∈ ([
    (.jal 1 0x00002, 0, 0, 0x1004), (.jal 1 0xFFFFE, 0, 0, 0x0FFC), (.jalr 1 6 0x001, 0x2004, 0, 0x2004),
    (.beq 6 7 0x004, 3, 3, 0x1008), (.beq 6 7 0x004, 3, 4, 0x1004), (.bne 6 7 0xFFC, 3, 4, 0x0FF8),
    (.blt 6 7 0x004, 0x8000000000000000, 0, 0x1008), (.bge 6 7 0x004, 0x8000000000000000, 0, 0x1004),
    (.bltu 6 7 0x004, 0x8000000000000000, 0, 0x1004), (.bgeu 6 7 0x004, 5, 5, 0x1008),
    (.bvoid 6 0x004, 0, 0, 0x1004), (.bnvoid 6 0x004, 0, 0, 0x1008), (.jtab 6 7 3, 3, 0x100, 0x1004)]
      : List (Instr × Word × Word × Word)),
    (after p.1 (thd [(6, p.2.1), (7, p.2.2.1)])).pc = p.2.2.2 := by decide

/-- JAL and JALR link; a taken branch to a target that is not a multiple of 4 ends a thread that has no handler,
with cause 0 in its scope (R140, R360). -/
theorem test_links_and_targets :
    (after (.jal 1 0x00004) (thd [])).rx 1 = .of 0x1004 ∧
    (after (.jalr 1 6 0) (thd [(6, 0x2002)])).rx 1 = .of 0 ∧
    (let s := nextOf (exec (.jal 1 0x00001) (dev (thd []))) (dev (thd []))
     (s.thread? 0).isNone = true ∧ (s.scope? 1).map (fun c => (c.faulted, c.cause)) = some (true, 0)) := by decide

/-- The spec's jump table: index 1 of the offsets 12, 20, 28 at 0x100 (R156). -/
theorem test_jtab : (let th := thd [(5, 1), (6, 0x100)]
    ((nextOf (exec (.jtab 5 6 3) ((dev th).putNum (tlLoc 0 0x100) 12 0x0000001C_00000014_0000000C)) (dev th)).thread? 0).map (·.pc))
      = some 0x1014 := by decide

/-- Loads of the eight bytes 88 77 66 55 44 33 22 F1 at tile-local 0x100 (R1, R140, R199). -/
theorem test_loads : ∀ p ∈ ([
    (.lb 5 6 7, 0xFFFFFFFFFFFFFFF1), (.lbu 5 6 7, 0xF1), (.lh 5 6 6, 0xFFFFFFFFFFFFF122), (.lhu 5 6 6, 0xF122),
    (.lw 5 6 4, 0xFFFFFFFFF1223344), (.lwu 5 6 4, 0xF1223344), (.ld 5 6 0, 0xF122334455667788),
    (.lda .die .b 5 6, 0xFFFFFFFFFFFFFF88), (.lda .die .h 5 6, 0x7788), (.lda .tile .w 5 6, 0x55667788),
    (.lda .system .d 5 6, 0xF122334455667788), (.lds .w 5 6, 0x55667788)] : List (Instr × Word)),
    (let th := thd [(6, 0x100)]
     ((nextOf (exec p.1 ((dev th).putNum (tlLoc 0 0x100) 8 0xF122334455667788)) (dev th)).thread? 0).map (·.rx 5))
      = some (.of p.2) := by decide

/-- Stores of 0x1122334455667788: the number that stands at 0x100 afterwards, over eight bytes of FF (R1, R140). -/
theorem test_stores : ∀ p ∈ ([
    (.sb 6 7 0, 0xFFFFFFFFFFFFFF88), (.sh 6 7 0, 0xFFFFFFFFFFFF7788), (.sw 6 7 4, 0x55667788FFFFFFFF),
    (.sd 6 7 0, 0x1122334455667788), (.stl .die .w 6 7, 0xFFFFFFFF55667788), (.stl .tile .b 6 7, 0xFFFFFFFFFFFFFF88)]
      : List (Instr × Nat)),
    (let th := thd [(6, 0x100), (7, 0x1122334455667788)]
     (nextOf (exec p.1 ((dev th).putNum (tlLoc 0 0x100) 8 0xFFFFFFFFFFFFFFFF)) (dev th)).numAt (tlLoc 0 0x100) 8) = p.2 := by decide

/-- A handler sees cause and value of a misaligned access (R142, R361); LDS of an address outside every window is
void and sets no VOIDSEEN bit (R199). -/
theorem test_access_faults :
    (let th := { thd [(6, 0x102)] with utvec := 0x4000 }
     let u := after (.lw 5 6 0) th
     let w := after (.sw 6 7 0) th
     (u.pc, u.uepc, u.ucause, u.utval, u.armed) = (0x4000, 0x1000, 4, 0x102, false) ∧ (w.ucause, w.utval) = (6, 0x102)) ∧
    (let u := after (.lds .d 5 6) (thd [(6, 0x60000)])
     u.rx 5 = .voidword ∧ u.voidseen = 0 ∧ u.pc = 0x1004) := by decide

/-- Atomics on a 32-bit word 0x80000005 with x7 = 3: the old value, sign-extended, and the new word (R200). -/
theorem test_atomics : ∀ p ∈ ([
    (.amoadd .tile .w 5 6 7, 0x80000008), (.amoswp .tile .w 5 6 7, 3), (.amomax .tile .w 5 6 7, 3),
    (.amomin .tile .w 5 6 7, 0x80000005), (.amoand .tile .w 5 6 7, 1), (.amoor .tile .w 5 6 7, 0x80000007),
    (.amoxor .tile .w 5 6 7, 0x80000006)] : List (Instr × Nat)),
    (let th := thd [(6, 0x100), (7, 3)]
     let s := nextOf (exec p.1 ((dev th).putNum (tlLoc 0 0x100) 4 0x80000005)) (dev th)
     s.numAt (tlLoc 0 0x100) 4 = p.2 ∧ (s.thread? 0).map (·.rx 5) = some (.of 0xFFFFFFFF80000005)) := by decide

/-- AMOCAS writes only where the old value is the one expected in rd (R200). -/
theorem test_amocas : ∀ p ∈ ([(9, 3), (8, 9)] : List (Word × Nat)),
    (let th := thd [(5, p.1), (6, 0x100), (7, 3)]
     (nextOf (exec (.amocas .tile .d 5 6 7) ((dev th).putNum (tlLoc 0 0x100) 8 9)) (dev th)).numAt (tlLoc 0 0x100) 8) = p.2 := by decide

/-- CSRs: the old value to rd, then the new one; an unlisted CSR is an illegal instruction (R157 to R159). -/
theorem test_csrs :
    (after (.csrrw 5 6 0x801) { thd [(6, 13)] with vpred := 2 }).rx 5 = .of 2 ∧
    (after (.csrrw 5 6 0x801) { thd [(6, 13)] with vpred := 2 }).vpred = 5 ∧
    (after (.csrrs 5 6 0x807) { thd [(6, 0x11)] with voidseen := 2 }).voidseen = 0x13 ∧
    (after (.csrrc 5 6 0x807) { thd [(6, 0x11)] with voidseen := 0x33 }).voidseen = 0x22 ∧
    (after (.csrrwi 0 9 0x002) (thd [])).frm = 1 ∧ (after (.csrrsi 5 3 0x001) (thd [])).fflags = 3 ∧
    (after (.csrrci 5 1 0x003) { thd [] with fflags := 7, frm := 2 }).rx 5 = .of 0x47 ∧
    (after (.csrrw 0 6 0x802) (thd [(6, 0x2003)])).cland = 0x2000 ∧
    (after (.csrrs 5 0 0xC02) { thd [] with utvec := 0x4000 }).ucause = 2 ∧
    (after (.csrrs 5 0 0xCC1) (thd [])).rx 5 = .of 1 := by decide

/-- ECALL services, EBREAK, MRET and WFI (R141, R144, R145); TILES is 1,024 after reset. -/
theorem test_system :
    ((after .ecall (thd [(17, 0)])).rx 10 = .of 3 ∧ (after .ecall (thd [(17, 1)])).rx 10 = .of 1024 ∧
     (after .ecall (thd [(17, 2)])).rx 10 = .of 1800 ∧ (after .ecall (thd [(17, 4)])).rx 10 = .of 0xFFFFFFFFFFFFFFFF) ∧
    (let th := { thd [] with utvec := 0x4000 }
     (after .ebreak th).ucause = 3 ∧ (after .ebreak th).utval = 0x1000 ∧ (after .mret th).ucause = 2 ∧ (after .wfi th).ucause = 2) ∧
    (after .mret { thd [] with mode := .machine, mepc := 0x2000 }).pc = 0x2000 ∧
    (after .wfi { thd [] with mode := .machine }).pc = 0x1004 ∧
    (after (.fence 8 3 3 0 0) (thd [])).pc = 0x1004 ∧ (after (.fenceReach .die 0 7) (thd [])).pc = 0x1004 := by decide

/-! ## One step: F -/

/-- Thread with f1, f2, f3. -/
def fth (a b c : W32) : Thread := (((thd []).wf 1 (.of a)).wf 2 (.of b)).wf 3 (.of c)

/-- 3.0 and 2.0: results by hand, and 0x3F800000 is 1.0 (R140, R146). -/
theorem test_f_arithmetic : ∀ p ∈ ([
    (.faddS 4 1 2 .rne, 0x40A00000, 0), (.fsubS 4 2 1 .rne, 0xBF800000, 0), (.fmulS 4 1 2 .rne, 0x40C00000, 0),
    (.fdivS 4 1 2 .rne, 0x3FC00000, 0), (.fdivS 4 2 1 .rup, 0x3F2AAAAB, 1), (.fdivS 4 2 1 .rdn, 0x3F2AAAAA, 1),
    (.fsqrtS 4 2 .rtz, 0x3FB504F3, 1), (.fmaddS 4 1 2 3 .rne, 0x40E00000, 0), (.fmsubS 4 1 2 3 .rne, 0x40A00000, 0),
    (.fnmsubS 4 1 2 3 .rne, 0xC0A00000, 0), (.fnmaddS 4 1 2 3 .rne, 0xC0E00000, 0), (.fsgnjS 4 1 2, 0x40400000, 0),
    (.fsgnjnS 4 1 2, 0xC0400000, 0), (.fsgnjxS 4 1 2, 0x40400000, 0), (.fminS 4 1 2, 0x40000000, 0),
    (.fmaxS 4 1 2, 0x40400000, 0)] : List (Instr × W32 × BitVec 5)),
    (let u := after p.1 (fth 0x40400000 0x40000000 0x3F800000)
     u.rf 4 = .of p.2.1 ∧ u.fflags = p.2.2) := by decide

/-- Invalid operations, ties, overflow and subnormals (R146). -/
theorem test_f_corners :
    (let u := after (.fsqrtS 4 1 .rne) (fth 0xBF800000 0 0); u.rf 4 = .of 0x7FC00000 ∧ u.fflags = 16) ∧
    (let u := after (.fdivS 4 1 2 .rne) (fth 0x3F800000 0 0); u.rf 4 = .of 0x7F800000 ∧ u.fflags = 8) ∧
    (let u := after (.faddS 4 1 1 .rne) (fth 0x7F7FFFFF 0 0); u.rf 4 = .of 0x7F800000 ∧ u.fflags = 5) ∧
    (let u := after (.faddS 4 1 1 .rtz) (fth 0x7F7FFFFF 0 0); u.rf 4 = .of 0x7F7FFFFF ∧ u.fflags = 5) ∧
    (let u := after (.faddS 4 1 2 .rne) (fth 0x4B800001 0x3F800000 0); u.rf 4 = .of 0x4B800002 ∧ u.fflags = 1) ∧
    (let u := after (.faddS 4 1 2 .rmm) (fth 0x4B800000 0x3F800000 0); u.rf 4 = .of 0x4B800001 ∧ u.fflags = 1) ∧
    (let u := after (.fmulS 4 1 2 .rne) (fth 0x00000003 0x3F000000 0); u.rf 4 = .of 2 ∧ u.fflags = 3) ∧
    (let u := after (.fmaxS 4 1 2) (fth 0x7F800001 0x3F800000 0); u.rf 4 = .of 0x3F800000 ∧ u.fflags = 16) ∧
    (after (.faddS 4 1 2 .dyn) { fth 0 0 0 with frm := 5, utvec := 0x4000 }).ucause = 2 := by decide

/-- Comparisons, classes, moves and conversions (R140, R146). -/
theorem test_f_to_x :
    (after (.feqS 5 1 2) (fth 0 0x80000000 0)).rx 5 = .of 1 ∧ (after (.fltS 5 1 2) (fth 0x7FC00000 0 0)).fflags = 16 ∧
    (after (.feqS 5 1 2) (fth 0x7FC00000 0 0)).fflags = 0 ∧ (after (.fleS 5 1 2) (fth 0xBF800000 0 0)).rx 5 = .of 1 ∧
    (after (.fclassS 5 1) (fth 0x80000001 0 0)).rx 5 = .of 4 ∧ (after (.fclassS 5 1) (fth 0x7FC00000 0 0)).rx 5 = .of 512 ∧
    (after (.fmvXW 5 1) (fth 0x80000000 0 0)).rx 5 = .of 0xFFFFFFFF80000000 ∧
    (after (.fcvtWS 5 1 .rne) (fth 0x40200000 0 0)).rx 5 = .of 2 ∧ (after (.fcvtWS 5 1 .rtz) (fth 0xC0200000 0 0)).rx 5 = .of 0xFFFFFFFFFFFFFFFE ∧
    (after (.fcvtWuS 5 1 .rtz) (fth 0xBF800000 0 0)).rx 5 = .of 0 ∧ (after (.fcvtWuS 5 1 .rtz) (fth 0x7F800000 0 0)).rx 5 = .of 0xFFFFFFFFFFFFFFFF ∧
    (after (.fcvtLS 5 1 .rtz) (fth 0x7FC00000 0 0)).rx 5 = .of 0x7FFFFFFFFFFFFFFF ∧ (after (.fcvtLuS 5 1 .rup) (fth 0x3F000000 0 0)).rx 5 = .of 1 ∧
    (after (.fcvtSW 4 6 .rne) (thd [(6, 0xFFFFFFFF)])).rf 4 = .of 0xBF800000 ∧ (after (.fcvtSWu 4 6 .rne) (thd [(6, 0xFFFFFFFF)])).rf 4 = .of 0x4F800000 ∧
    (after (.fcvtSL 4 6 .rtz) (thd [(6, 0x1000001)])).rf 4 = .of 0x4B800000 ∧ (after (.fcvtSLu 4 6 .rne) (thd [(6, 0x8000000000000000)])).rf 4 = .of 0x5F000000 ∧
    (after (.fmvWX 4 6) (thd [(6, 0x13F800000)])).rf 4 = .of 0x3F800000 ∧ (after (.fmvXW 5 1) ((thd []).wf 1 .voidword)).rx 5 = .voidword := by decide

/-- FLW and FSW move 32 bits (R140). -/
theorem test_f_memory :
    (let th := thd [(6, 0x100)]
     ((nextOf (exec (.flw 4 6 4) ((dev th).putNum (tlLoc 0 0x104) 4 0x3F800000)) (dev th)).thread? 0).map (·.rf 4) = some (.of 0x3F800000)) ∧
    (let th := (thd [(6, 0x100)]).wf 2 (.of 0xBF800001)
     (nextOf (exec (.fsw 6 2 0xFFC) (dev th)) (dev th)).numAt (tlLoc 0 0xFC) 4 = 0xBF800001) := by decide

/-! ## One step: scopes, threads, tasks, ranges, messages, waits -/

/-- Scope record 1, identifier 16385, OPEN, below scope 1. -/
def child1 : Scope := ⟨1, .opened, 1, 2, 0x10000000000, false, false, 0, false, 0, 256, 0x8000000000, false, false, 1, 0, 0⟩
/-- The device after `i` of a thread with handle k1 on that scope. -/
def inChild (i : Instr) (th : Thread) (h : Handle := ⟨.opener, 16385, 0x10000000000⟩) : State :=
  let s := { dev (th.wk 1 h) with scopes := [(0, root0), (1, child1)] }
  nextOf (exec i s) s
/-- Thread 0 of a device. -/
def t0 (s : State) : Thread := (s.thread? 0).getD (thd [])

/-- SOPEN gives the opener 2^40 (R30); SCLOSE sends it home and waits; SCLOSEA leaves a CLOSED handle (R171, R172). -/
theorem test_scopes :
    (let s := nextOf (exec (.sopen 1 0) (dev (thd []))) (dev (thd []))
     (t0 s).rk 1 = ⟨.opener, 16385, 0x10000000000⟩ ∧ (s.scope? 16385).map (fun c => (c.state, c.o, c.depth, c.parent)) = some (.opened, 0x10000000000, 2, 1)) ∧
    (let s := inChild (.sclose 5 1) (thd [])
     (t0 s).wait.map (·.kind) = some (.join 16385 1) ∧ s.returns = [⟨16385, 0x10000000000, .member, 0⟩] ∧ (s.scope? 16385).map (·.state) = some .closing) ∧
    (let s := inChild (.sclosea 1) (thd [])
     (t0 s).rk 1 = ⟨.closed, 16385, 0⟩ ∧ (t0 s).pc = 0x1004) ∧
    (after (.sclose 5 1) { thd [] with utvec := 0x4000 }).ucause = 26 ∧
    (let th := (thd [(6, 16385)]).wk 0 ⟨.birth, 16385, 0x8000000000⟩
     (t0 (inChild (.senter 2 6) th)).rk 2 = ⟨.entered, 16385, 0x1000000⟩ ∧
     ((inChild (.senter 2 6) th).scope? 16385).map (·.o) = some 0x10001000000 ∧
     (t0 (inChild (.senter 2 6) (thd [(6, 16385)]))).rk 2 = ⟨.empty, 0, 0⟩) := by decide

/-- SCANCEL marks the subtree and its members; SUCCEED wins once (R34, R35); SSTAT's word (R177). -/
theorem test_cancel_and_succeed :
    (let s := inChild (.scancel 0) (thd [])
     (s.scope? 1).map (·.cancelled) = some true ∧ (s.scope? 16385).map (·.cancelled) = some true ∧ (t0 s).cancel = true) ∧
    (let s := inChild (.scancel 1) (thd [])
     (s.scope? 1).map (·.cancelled) = some false ∧ (s.scope? 16385).map (·.cancelled) = some true ∧ (t0 s).cancel = false) ∧
    (let s := inChild (.succeed 5) (thd [])
     (t0 s).rx 5 = .of 1 ∧ (s.scope? 1).map (fun c => (c.succeeded, c.winner)) = some (true, 1)) ∧
    (t0 (inChild (.sstat 5 1) (thd []))).rx 5 = .of 0x20041 ∧ (t0 (inChild (.sstat 5 0) (thd []))).rx 5 = .of 0x10022 := by decide

/-- Shields nest; a cancelled, unshielded thread leaves for CLAND at CHKC (R36, R175). -/
theorem test_shields_and_points :
    (after .shield (thd [])).shieldn = 1 ∧ (after .unshield { thd [] with utvec := 0x4000 }).ucause = 26 ∧
    (after .chkc { thd [] with cancel := true, cland := 0x2000 }).pc = 0x2000 ∧
    (after .chkc { thd [] with cancel := true, cland := 0x2000, shieldn := 1 }).pc = 0x1004 ∧
    (after .yield { thd [] with cancel := true, cland := 0x2000 }).pc = 0x2000 := by decide

/-- The worked weights of R33: a spawn halves the opener's handle; the child starts at x6 with a0 = x7; a spawner of
weight 1 takes a grant first. -/
theorem test_spawn :
    (let s := inChild (.spawnIn 1 6 7 0) (thd [(6, 0x2000), (7, 0x55)])
     (t0 s).rk 1 = ⟨.opener, 16385, 0x8000000000⟩ ∧
     (s.thread? 1).map (fun c => (c.pc, c.rx 10, c.rk 0, c.cls)) = some (0x2000, .of 0x55, ⟨.birth, 16385, 0x8000000000⟩, .stage)) ∧
    (let s := inChild (.spawnIn 1 6 7 0) (thd [(6, 0x2000)]) ⟨.opener, 16385, 1⟩
     ((t0 s).rk 1).weight = 0x800001 ∧ (s.thread? 1).map (fun c => (c.rk 0).weight) = some 0x800000 ∧
     (s.scope? 16385).map (·.o) = some 0x10001000000) ∧
    (t0 (inChild (.spawn 5 6 7 0) (thd [(6, 0x2000)]))).rx 5 = .of 257 ∧
    (after (.spawn 5 6 7 0) { thd [(6, 0x2002)] with utvec := 0x4000 }).ucause = 0 ∧
    (let s := inChild .exit (thd [])
     (s.thread? 0).isNone = true ∧ (s.tile 0).tracker.map (fun e => (e.tid, e.sid, e.weight)) = [(1, 1, 0x10000000000)]) := by decide

/-- A task: TSKNEW reads its block and takes half of k0's weight; TSKPUB without a count makes it READY; a signal of a
task that is not there underflows (R182 to R185). -/
theorem test_tasks :
    (let th := thd [(6, 0x100), (7, 0x30000)]
     let s0 := ((dev th).putNum (tlLoc 0 0x100) 8 0x2000).putNum (tlLoc 0 0x108) 8 0x77
     let s := nextOf (exec (.tsknew 5 6 7) s0) s0
     (t0 s).rx 5 = .of 1 ∧ (s.task? 1).map (fun k => (k.state, k.entry, k.arg, k.cluster, k.count, k.weight)) =
       some (.created, 0x2000, 0x77, 3, 0, 0x8000000000)) ∧
    (after (.tsksig 6) { thd [(6, 1)] with utvec := 0x4000 }).ucause = 27 ∧
    (after (.tskpub 6) { thd [(6, 1)] with utvec := 0x4000 }).ucause = 26 ∧
    (after (.tskstat 5 6) (thd [(6, 1)])).rx 5 = .of 0 := by decide

/-- A task record 0 in a state. -/
def task0 (st : TaskState) (n : Nat) (p : Option Nat) : Task :=
  ⟨1, st, 0x2000, 0x77, n, p, 3, .stage, 1, 0x100, 1, 0, 0, 0, 0, 0, 0, 0, 0, .v3, 0, 1⟩
/-- The task, the ready queue of its cluster and the thread after `i`, which names it in x6. -/
def tasked (i : Instr) (k : Task) : Option (TaskState × Nat × Option Nat) × Nat × BitVec 8 :=
  let s0 := { dev { thd [(6, 1)] with utvec := 0x4000 } with tasks := [(0, k)] }
  let s := nextOf (exec i s0) s0
  ((s.task? 1).map (fun k => (k.state, k.count, k.pending)), (s.cluster 3).ready.length, (t0 s).ucause)

/-- What each use of a task does to its state, its count and the signals held, to the ready queue, and the cause
it raises (R40, R41, R184). -/
theorem test_task_states : ∀ p ∈ ([
    (.tskpub 6, task0 .created 0 none, (some (.ready, 0, none), 1, 0)),
    (.tskpub 6, task0 .created 2 (some 1), (some (.published, 1, none), 0, 0)),
    (.tskpub 6, task0 .published 2 none, (some (.published, 2, none), 0, 26)),
    (.tsksig 6, task0 .created 2 none, (some (.created, 2, some 1), 0, 0)),
    (.tsksig 6, task0 .published 1 none, (some (.ready, 0, none), 1, 0)),
    (.tsksig 6, task0 .done 0 none, (some (.done, 0, none), 0, 27)),
    (.tsksig 6, task0 .discarded 5 none, (some (.discarded, 5, none), 0, 0))]
      : List (Instr × Task × Option (TaskState × Nat × Option Nat) × Nat × BitVec 8)),
    tasked p.1 p.2.1 = p.2.2 := by decide

/-- The worked range of R44: with [16, 100) of chunk 8 bound and a thief waiting, the owner claims [16, 24) and keeps
[24, 58); a claim word is count and first (R187). -/
theorem test_ranges :
    (let s0 := (dev (thd [])).setTile 0 { Tile.idle with ranges := ⟨16, 100, 8, some 999, some 1⟩ }
     let s := nextOf (exec (.rclaim 5) s0) s0
     (t0 s).rx 5 = .of 0x800000010 ∧ (s.tile 0).ranges = ⟨24, 58, 8, none, some 1⟩) ∧
    (let s0 := dev (thd [(5, 8), (6, 0), (7, 100)])
     ((nextOf (exec (.rnginit 5 6 7) s0) s0).tile 0).ranges = ⟨0, 100, 8, none, some 1⟩) ∧
    (after (.rclaim 5) (thd [])).rx 5 = .of 0 ∧ (after (.rsteal 5 6) (thd [(6, 3)])).rx 5 = .of 0 ∧
    (after (.rsteal 5 6) { thd [(6, 16)] with utvec := 0x4000 }).ucause = 2 := by decide

/-- Messages: queued at the receiver, taken oldest first, counted by MPEEK (R190 to R193). -/
theorem test_messages :
    (let s0 := dev (thd [(6, 1), (7, 42)])
     (t0 (nextOf (exec (.msend 6 7) s0) s0)).inbox.map (fun m => (m.sender, m.words)) = [(1, [42])]) ∧
    (let s0 := (dev (thd [(6, 1), (7, 0x100)])).putNum (tlLoc 0 0x118) 8 9
     (t0 (nextOf (exec (.msend4 6 7) s0) s0)).inbox.map (·.words) = [[0, 0, 0, 9]]) ∧
    (let th := { thd [(6, 0x100)] with inbox := [⟨7, [5], 1, 0⟩, ⟨8, [1, 2, 3, 4], 1, 0⟩] }
     let s := nextOf (exec (.mrecv4 5 6) (dev th)) (dev th)
     (t0 s).rx 5 = .of 8 ∧ (t0 s).inbox.map (·.sender) = [7] ∧ s.numAt (tlLoc 0 0x118) 8 = 4 ∧
     (after (.mrecv 5 0) th).rx 5 = .of 5 ∧ (after (.mpeek 5 0) th).rx 5 = .of 0x100000001) ∧
    (after (.mrecv 5 6) (thd [(6, 3)])).wait.map (·.kind) = some (.recv 3) := by decide

/-- Word waits return the word or wait; WAITGE is a signed circular difference (R196); a void operand nullifies. -/
theorem test_word_waits :
    (let s0 (v : Word) := (dev (thd [(6, 0x100), (7, v)])).putNum (tlLoc 0 0x100) 8 5
     (t0 (nextOf (exec (.waiteq 5 6 7) (s0 5)) (s0 5))).rx 5 = .of 5 ∧
     (t0 (nextOf (exec (.waiteq 5 6 7) (s0 6)) (s0 6))).wait.map (·.kind) = some (.word .eq 0x100 6) ∧
     (t0 (nextOf (exec (.waitne 5 6 7) (s0 6)) (s0 6))).rx 5 = .of 5 ∧
     (t0 (nextOf (exec (.waitge 5 6 7) (s0 0xFFFFFFFFFFFFFFFF)) (s0 0))).rx 5 = .of 5 ∧
     (t0 (nextOf (exec (.waitge 5 6 7) (s0 6)) (s0 0))).wait.isSome = true) ∧
    (after (.waiteq 5 6 7) ((thd [(6, 0x100)]).wx 7 .voidword)).voidseen = 3 := by decide

/-- BAR: the last of N = 2 arrivals starts the next generation; the first waits (R194, R195). -/
theorem test_bar :
    (let s0 := (dev (thd [(6, 0x100)])).putNum (tlLoc 0 0x100) 8 0x0000000700010002
     let s := nextOf (exec (.bar 5 6) s0) s0
     s.numAt (tlLoc 0 0x100) 8 = 0x0000000800000002 ∧ (t0 s).rx 5 = .of 1 ∧ (t0 s).pc = 0x1004) ∧
    (let s0 := (dev (thd [(6, 0x100)])).putNum (tlLoc 0 0x100) 8 0x0000000700000002
     let s := nextOf (exec (.bar 5 6) s0) s0
     s.numAt (tlLoc 0 0x100) 8 = 0x0000000700010002 ∧ (t0 s).wait.map (·.kind) = some (.bar 0x100 7 0)) ∧
    (after (.bar 5 6) { thd [(6, 0x108)] with utvec := 0x4000 }).ucause = 2 := by decide

/-! ## One step: engines, buffers, tags, ownership, references -/

/-- The worked case of R207: a CPY of 1,000 bytes to tile-local 0x1_0080 takes its tag BUSY and a range lock; its first
piece is the 128 bytes up to 0x1_0100; a cancelled copy of 640 bytes leaves tag 5 CANCELLED. -/
theorem test_copy :
    (let th := thd [(10, 0x10080), (11, 0x1000), (12, 1000)]
     let s0 := (dev th).putNum (tlLoc 0 0x1000) 8 0x1122334455667788
     let s := nextOf (exec (.cpy 5 10 11 12) s0) s0
     tfind (s.tile 0).tags (tagKey .compute 5) = some .busy ∧ (s.tile 0).locks = [⟨1, (0x1000, 1000), (0x10080, 1000)⟩] ∧
     ((t0 s).rk 0).weight = 0x8000000000 ∧
     (let s1 := { s with input := .num2 0 1 }
      let s2 := nextOf (exec .copyPieceWrite s1) s1
      (s2.tile 0).copies.map (·.done) = [128] ∧ s2.numAt (tlLoc 0 0x10080) 8 = 0x1122334455667788) ∧
     (let s1 := { s.setTile 0 { s.tile 0 with copies := (s.tile 0).copies.map (fun c => { c with done := 640, cancelled := true }) } with input := .num2 0 1 }
      let s2 := nextOf (exec .copyFinish s1) s1
      tfind (s2.tile 0).tags (tagKey .compute 5) = some (.set 1 640) ∧ (s2.tile 0).locks = [])) ∧
    (after (.cpy 5 10 11 12) { thd [(10, 0x10080), (11, 0x10000), (12, 1000)] with utvec := 0x4000 }).ucause = 55 := by decide

/-- Thread 0 after `i` where tags 5 and 40 of its core are SET, with 640 and 7 bytes, and tag 6 is BUSY. -/
def withTags (i : Instr) (m : Word) : Thread :=
  let s := (dev (thd [(6, m)])).setTile 0 { Tile.idle with
    tags := tset (tset (tset [] (tagKey .compute 5) (.set 1 640)) (tagKey .compute 40) (.set 0 7)) (tagKey .compute 6) .busy }
  t0 (nextOf (exec i s) s)

/-- TAGWA gives the word of R207's case; a wait for every tag gives the first that is not COMPLETE (R213 to R216). -/
theorem test_tags :
    (withTags (.tagwa 5 6) 0x20).rx 5 = .of 0x8000004500000280 ∧ (withTags (.tagwa 5 6) 0x40).wait.isSome = true ∧
    (withTags (.tagff 5 6) 0x10000000040).rx 5 = .of 0x8000002800000007 ∧ (withTags (.tagff 5 6) 0x40).rx 5 = .of 0 ∧
    (withTags (.tagwl 5 6) 0x60).wait.isSome = true ∧ (withTags (.csrrs 5 0 0x808) 0).rx 5 = .of 0x10000000020 ∧
    (withTags (.tagwa 5 6) 0).rx 5 = .of 0 := by decide

/-- Thread 0 and buffer 3 after `i`, where the buffer has 4 slots of 64 bytes at 0x400, 3 free and 1 filled. -/
def withCb (i : Instr) (v : Word) : Thread × Cb :=
  let s := (dev { thd [(6, v)] with utvec := 0x4000 }).setTile 0
    { Tile.idle with cbs := Tile.idle.cbs.set 3 ⟨4, 1, 0x400, 1, 0, 3, 1, 0⟩ }
  let s' := nextOf (exec i s) s
  (t0 s', (s'.tile 0).cb 3)

/-- Buffers: configuring, advancing, waiting, reading (R62, R208 to R211). -/
theorem test_buffers :
    (withCb (.cbcfg 3 6) 0x0000000200200800).2 = ⟨2, 1, 0x800, 0, 0, 2, 0, 0⟩ ∧ (withCb (.cbcfg 3 6) 1).1.ucause = 2 ∧
    (withCb (.cbadvp 3 6) 3).2 = ⟨4, 1, 0x400, 0, 0, 0, 4, 0⟩ ∧ (withCb (.cbadvp 3 6) 4).1.ucause = 29 ∧
    (withCb (.cbadvc 3 6) 1).2 = ⟨4, 1, 0x400, 1, 1, 4, 0, 0⟩ ∧ (withCb (.cbadvc 3 6) 2).1.utval = 3 ∧
    (withCb (.cbwaitf 5 3 6) 1).1.rx 5 = .of 1 ∧ (withCb (.cbwaitf 5 3 6) 2).1.wait.isSome = true ∧
    (withCb (.cbwaite 5 3 6) 2).1.rx 5 = .of 3 ∧ (withCb (.cbwaite 5 3 6) 5).1.ucause = 29 ∧
    (withCb (.cbstat 5 3 6) 0).1.rx 5 = .of 0x0000010000030001 ∧ (withCb (.cbstat 5 3 6) 1).1.rx 5 = .of 0x0000000400200400 := by decide

/-- Ownership: a free block is taken, then offered, then taken by its recipient alone (R52, R217). -/
theorem test_ownership :
    (let s0 := dev (thd [(6, 9), (7, 0x0000010000000200)])
     let s := nextOf (exec (.btake 5 6 7) s0) s0
     (t0 s).rx 5 = .of 0 ∧ tfind (s.cluster 0).owns 9 = some ⟨.held, 0x100, 2, 0, 0⟩) ∧
    (let s0 := (dev (thd [(6, 9), (7, 3)])).setCluster 0 { Cluster.idle with owns := [(9, ⟨.held, 0x100, 2, 0, 0⟩)] }
     tfind ((nextOf (exec (.bgive 6 7) s0) s0).cluster 0).owns 9 = some ⟨.offered, 0x100, 2, 0, 3⟩ ∧
     (t0 (nextOf (exec (.bstat 5 6) s0) s0)).rx 5 = .of 0x0001000001000100) ∧
    (let s0 := (dev (thd [(6, 9)])).setCluster 0 { Cluster.idle with owns := [(9, ⟨.offered, 0x100, 2, 1, 3⟩)] }
     (t0 (nextOf (exec (.btake 5 6 7) s0) s0)).rx 5 = .of 1) ∧
    (after (.bgive 6 7) { thd [(6, 9)] with utvec := 0x4000 }).ucause = 25 := by decide

/-- A heap 1 of 4 descriptors at 0x20000; descriptor 2 is an object of 64 bytes at 0x1_0000_0000, generation 5, on a
HEAP page that the buffer maps to 0x10000. -/
def heaped (th : Thread) (q : Word) (state : Nat := 1) (pins : Nat := 0) : State :=
  let s := (dev (th.wq 1 q)).setTile 0 { Tile.idle with tlb := [⟨0, 0x100000000, 0x10000, 0x200000000001003F⟩] }
  ((({ s with heaps := [(1, ⟨0x20000, 4, 0x200000000⟩)] }.putNum 0x20040 8 (state * 2 ^ 62 + 0x100000000)).putNum 0x20048 8
    (pins * 2 ^ 48 + 5 * 2 ^ 28 + 64)).putNum 0x10008 8 0x80000001_7FFFFFFF)
/-- The reference to it. -/
def ref2 : Word := 0x0010000050000002

/-- Loads and stores through a reference; dead ones (R218 to R222). -/
theorem test_reference_accesses :
    (let go (i : Instr) (q : Word) (o : Word) : State := let s := heaped { thd [(6, o), (7, 9)] with utvec := 0x4000 } q; nextOf (exec i s) s
     (t0 (go (.qld 5 1 6) ref2 8)).rx 5 = .of 0x800000017FFFFFFF ∧ (t0 (go (.qldw 5 1 6) ref2 12)).rx 5 = .of 0xFFFFFFFF80000001 ∧
     (t0 (go (.qld 5 1 6) ref2 64)).ucause = 5 ∧ (t0 (go (.qld 5 1 6) (ref2 + 0x10000000) 8)).ucause = 48 ∧
     (t0 (go (.qld 5 1 6) (ref2 + 0x8000000010000000) 8)).rx 5 = .voidword ∧
     (t0 (go (.qldq 3 1 6) ref2 8)).rq 3 = 0 ∧
     (go (.qst 6 1 7) ref2 8).numAt 0x10008 8 = 9 ∧ (go (.qstw 6 1 7) ref2 12).numAt 0x10008 8 = 0x000000097FFFFFFF ∧
     (go (.qstq 6 1 1) ref2 8).numAt 0x10008 8 = 0x0010000050000002 ∧ (t0 (go (.qst 6 1 7) (ref2 + 0x4000000000000000) 8)).ucause = 7) := by decide

/-- Objects: QNEW takes the lowest free index, QPIN counts a pin and opens a window, QEQ, QTAG, QCLR, QMV, RELOC's
answers (R223 to R229). -/
theorem test_objects :
    (let s0 := heaped (thd [(6, 0x100000400), (7, 0x0010000000000100)]) 0
     let s := nextOf (exec (.qnew 3 6 7) s0) s0
     (t0 s).rq 3 = 0x0010000000000001 ∧ s.numAt 0x20020 8 = 0x4000000100000400 ∧ s.numAt 0x20028 8 = 0x100) ∧
    (let s0 := heaped (thd []) ref2
     let s := nextOf (exec (.qpin 5 1) s0) s0
     (t0 s).rx 5 = .of 0x100000000 ∧ s.numAt 0x20048 8 = 0x0001000050000040 ∧ (t0 s).windows.map (fun w => (w.base, w.size)) = [(0x100000000, 64)]) ∧
    (let s0 := heaped { thd [] with windows := [⟨ref2, 0x100000000, 64, false, 5⟩] } ref2 1 1
     let s := nextOf (exec (.qunpin 1) s0) s0
     (t0 s).windows = [] ∧ s.numAt 0x20048 8 = 0x0000000050000040 ∧ s.returns = [⟨1, 5, .member, 0⟩]) ∧
    (after (.qunpin 1) { thd [] with utvec := 0x4000 }).ucause = 2 ∧
    (t0 (nextOf (exec (.reloc 5 1 6) (heaped (thd [(6, 1)]) ref2)) (heaped (thd []) 0))).rx 5 = .of 1 ∧
    (t0 (nextOf (exec (.reloc 5 1 6) (heaped (thd [(6, 0)]) ref2 1 1)) (heaped (thd []) 0))).rx 5 = .of 1 ∧
    (nextOf (exec (.reloc 5 1 6) (heaped (thd [(6, 0)]) ref2)) (heaped (thd []) 0)).numAt 0x20048 8 = 0x0000000060000040 ∧
    (t0 (nextOf (exec (.reloc 5 1 6) (heaped (thd [(6, 1)]) 0)) (heaped (thd []) 0))).rx 5 = .of 4 ∧
    (let th := ((thd [(6, 9)]).wq 1 ref2).wq 2 0x9010000050000002
     (after (.qeq 5 1 2) th).rx 5 = .of 1 ∧ (after (.qtag 3 1 6) th).rq 3 = 0x9010000050000002 ∧
     (after (.qmv 3 2) th).rq 3 = 0x9010000050000002 ∧ (after (.qclr 1) th).rq 1 = 0) := by decide

/-! ## One step: vectors -/

/-- A register whose first lanes hold some words, the others 0. -/
def vr (l : List W32) : VVal := Vector.ofFn (fun i : Fin 64 => VWord.of (l.getD i.val 0))
/-- Thread with v2 and v3, m1, and x6. -/
def vth (a b : List W32) (m : Word := 0) (x : Word := 0) : Thread := (((thd [(6, x)]).wv 2 (vr a)).wv 3 (vr b)).wm 1 m
/-- Some lanes of v1 after an instruction. -/
def v1After (i : Instr) (th : Thread) (ls : List Nat) : List Lane := ls.map (fun j => lane ((after i th).rv 1) j)

/-- Element arithmetic on lane 0 (R234): rounding, wrapping, saturation. -/
theorem test_vector_elements : ∀ p ∈ ([
    (.vadd .f32 1 2 3, 0x3F800000, 0x40000000, 0x40400000), (.vadd .i32 1 2 3, 0x7FFFFFFF, 1, 0x80000000),
    (.vadd .i8 1 2 3, 0x7F80FF01, 0x01FF0101, 0x7F800002), (.vadd .bf16 1 2 3, 0x3F803F80, 0x40003F80, 0x40404000),
    (.vsub .f32 1 2 3, 0x3F800000, 0x7F800000, 0xFF800000), (.vsub .i32 1 2 3, 0, 1, 0xFFFFFFFF), (.vsub .i8 1 2 3, 0x00008000, 0x00000100, 0x00008000),
    (.vmul .f32 1 2 3, 0x7F800000, 0, 0x7FC00000), (.vmul .i32 1 2 3, 0x10000, 0x18000, 0x80000000), (.vmul .i8 1 2 3, 0x10, 0x10, 0x7F),
    (.vmax .f32 1 2 3, 0x3F800000, 0x40000000, 0x40000000), (.vmax .i32 1 2 3, 0xFFFFFFFF, 0, 0), (.vmin .i8 1 2 3, 0x7F01FF80, 0x80FF0000, 0x80FFFF80),
    (.vmin .f32 1 2 3, 0x3F800000, 0x7F800001, 0x7FC00000),
    (.vand .i32 1 2 3, 12, 10, 8), (.vor .i32 1 2 3, 12, 10, 14), (.vxor .i32 1 2 3, 12, 10, 6),
    (.vshl .i32 1 2 3, 3, 33, 6), (.vshr .i8 1 2 3, 0x80808080, 0x01020309, 0x40201040), (.vsra .i8 1 2 3, 0x80808080, 0x01020300, 0xC0E0F080),
    (.vabs .i8 1 2, 0x80FF7F01, 0, 0x7F017F01), (.vabs .i32 1 2, 0x80000000, 0, 0x80000000), (.vneg .f32 1 2, 0x3F800000, 0, 0xBF800000),
    (.vneg .i8 1 2, 0x80FF7F01, 0, 0x7F0181FF), (.vmov .f32 1 2, 0x7F800001, 0, 0x7F800001),
    (.vexp2 .f32 1 2, 0x40400000, 0, 0x41000000), (.vlog2 .f32 1 2, 0x41000000, 0, 0x40400000), (.vlog2 .f32 1 2, 0, 0, 0xFF800000),
    (.vrcp .f32 1 2, 0x40000000, 0, 0x3F000000), (.vrsq .f32 1 2, 0x40800000, 0, 0x3F000000), (.vrsq .f32 1 2, 0x80000000, 0, 0xFF800000),
    (.vfma 1 2 3 3, 0x40400000, 0x40000000, 0x41000000), (.vfms 1 2 3 2, 0x40400000, 0x40000000, 0x40400000), (.vsel 1 2 3 1, 5, 9, 9)]
      : List (Instr × W32 × W32 × W32)),
    v1After p.1 (vth [p.2.1] [p.2.2.1]) [0] = [.of p.2.2.2] := by decide

/-- Masks: inactive lanes stay, a void lane makes a void lane and PROP (R231, R232); a stage core has no vectors
(R233). -/
theorem test_vector_masks :
    v1After (.vadd .i32 1 2 3) { vth [1, 2, 3] [4, 5, 6] 5 with vpred := 1 } [0, 1, 2] = [.of 5, .of 0, .of 9] ∧
    (let th := (vth [1, 2] [4, 5]).wv 2 ((vr [1, 2]).set 1 .voidword)
     v1After (.vadd .i32 1 2 3) th [0, 1] = [.of 5, .voidword] ∧ (after (.vadd .i32 1 2 3) th).voidseen = 1) ∧
    (after (.vadd .i32 1 2 3) { vth [] [] with cls := .stage, utvec := 0x4000 }).ucause = 2 := by decide

/-- Compares and mask registers (R241, R242, R246). -/
theorem test_masks :
    ((after (.vcmplt 2 2 3) (vth [0x3F800000, 0x80000000, 0x7FC00000] [0x40000000, 0, 0])).rm 2 = 1 ∧
     (after (.vcmple 2 2 3) (vth [0x3F800000, 0x80000000, 0x7FC00000] [0x40000000, 0, 0])).rm 2 = 0xFFFFFFFFFFFFFFFB ∧
     (after (.vcmpeq 2 2 3) (vth [1] [])).rm 2 = 0xFFFFFFFFFFFFFFFE ∧ (after (.vcmpne 2 2 3) (vth [1, 0x7FC00000] [])).rm 2 = 3) ∧
    (let th := ((thd []).wm 1 12).wm 2 10
     (after (.mand 3 1 2) th).rm 3 = 8 ∧ (after (.mor 3 1 2) th).rm 3 = 14 ∧ (after (.mnot 3 1) th).rm 3 = 0xFFFFFFFFFFFFFFF3 ∧
     (after (.mpop 5 1) th).rx 5 = .of 2 ∧ (after (.mpop 5 0) th).rx 5 = .of 64) ∧
    (after (.vtmask 2 2 3) { vth [0x00050003, 0x00050003] [0x00060002, 0x00040002] 3 with vpred := 1 }).rm 2 = 1 := by decide

/-- Moves between lanes and registers, reductions, permutations (R238 to R240). -/
theorem test_vector_moves :
    (after (.vmvx 5 2 6) (vth [1, 2, 0x80000000] [] 0 2)).rx 5 = .of 0xFFFFFFFF80000000 ∧ (after (.vmvf 4 2 6) (vth [1, 2] [] 0 1)).rf 4 = .of 2 ∧
    (after (.vmvx 5 2 6) { vth [] [] 0 64 with utvec := 0x4000 }).ucause = 2 ∧
    lane ((after (.vins 2 7 6) ((vth [1, 2] [] 0 1).wx 7 (.of 9))).rv 2) 1 = .of 9 ∧
    v1After (.vslide 1 2 6) (vth [1, 2, 3] [] 0 1) [0, 1, 2] = [.of 2, .of 3, .of 0] ∧
    v1After (.vslide 1 2 6) (vth [1, 2, 3] [] 0 0xFFFFFFFFFFFFFFFF) [0, 1, 3] = [.of 0, .of 1, .of 3] ∧
    v1After (.vperm 1 2 3) (vth [7, 8, 9] [2, 65]) [0, 1, 2] = [.of 9, .of 8, .of 7] ∧
    v1After (.vbcast .i8 1 6) (vth [] [] 0 0x1FF) [0, 63] = [.of 0xFFFFFFFF, .of 0xFFFFFFFF] ∧
    (after (.vredsum 4 2) { vth [0x4B800000, 0x3F800000, 0xCB800000] [] 7 with vpred := 1 }).rf 4 = .of 0x3F800000 ∧
    (after (.vredmax 4 2) { vth [0x3F800000, 0xC0000000] [] 3 with vpred := 1 }).rf 4 = .of 0x3F800000 ∧
    (after (.vredmin 4 2) { vth [0x3F800000, 0xC0000000] [] 3 with vpred := 1 }).rf 4 = .of 0xC0000000 := by decide

/-- The worked conversion of R243: 5.0, −0.7 and, in lane 40, 100.0, to MXFP4. -/
theorem test_vcvt_worked :
    v1After (.vcvt .f32mx4 1 2) (vth ([0x40A00000, 0xBF333333] ++ List.replicate 38 0 ++ [0x42C80000]) []) [0, 5, 8, 1, 9]
      = [.of 0x96, .of 7, .of 0x837F, .of 0, .of 0] := by decide

/-- Conversions that round and saturate (R99, R243). -/
theorem test_vcvt : ∀ p ∈ ([
    (.f32i32, 0x4F000000, 0x7FFFFFFF), (.f32i32, 0x40200000, 2), (.f32i32, 0x7FC00000, 0), (.i32f32, 0x1000001, 0x4B800000),
    (.f32bf16, 0x3F808000, 0x3F80), (.bf16f32, 0x3F80, 0x3F800000), (.f32f16, 0x477FF000, 0x7C00), (.f16f32, 0x3C00, 0x3F800000),
    (.f32e4, 0x43E80000, 0x7E), (.e4f32, 0x7E, 0x43E00000), (.f32e5, 0x7F800000, 0x7C), (.e5f32, 0x3C, 0x3F800000),
    (.f32i8, 0xC3000000, 0x80), (.i8f32, 0xFF, 0xBF800000), (.f32i4, 0x41000000, 7), (.i4f32, 0xF, 0xBF800000),
    (.f32ln6, 0, 0), (.ln6f32, 16, 0x3F800000)] : List (Cvt × W32 × W32)),
    v1After (.vcvt p.1 1 2) (vth [p.2.1] []) [0] = [.of p.2.2] := by decide

/-- Lanes in memory: VLD, VST, gathers and strides (R237). -/
theorem test_vector_memory :
    (let th := { vth [0, 2] [] 3 0x100 with vpred := 1 }
     let s0 := ((dev th).putNum (tlLoc 0 0x100) 8 0x0000000200000001).putNum (tlLoc 0 0x108) 4 3
     let go (i : Instr) : List Lane := [0, 1, 2].map (fun j => lane ((t0 (nextOf (exec i s0) s0)).rv 1) j)
     go (.vld 1 6 4) = [.of 2, .of 3, .of 0] ∧ go (.vldx 1 6 2) = [.of 1, .of 3, .of 0]) ∧
    (let th := { (vth [7, 8] [1, 0] 3 0x100).wx 7 (.of 8) with vpred := 1 }
     let s0 := (dev th).putNum (tlLoc 0 0x100) 8 0x0000000200000001
     (nextOf (exec (.vst 2 6 0xFFC) s0) s0).numAt (tlLoc 0 0xFC) 8 = 0x0000000800000007 ∧
     (nextOf (exec (.vstx 2 6 3) s0) s0).numAt (tlLoc 0 0x100) 8 = 0x0000000700000008 ∧
     [0, 1].map (fun j => lane ((t0 (nextOf (exec (.vlds 1 6 7) s0) s0)).rv 1) j) = [.of 1, .of 0]) := by decide

/-- VTOPK of two lanes: greater values first, indices offset (R245). -/
theorem test_vtopk :
    v1After (.vtopk 1 2 6) { vth [0x3F800000, 0x40000000, 0x7FC00000] [] 7 0x0000001000000002 with vpred := 1 } [0, 1, 2, 32, 33, 34]
      = [.of 0x40000000, .of 0x3F800000, .of 0xFF800000, .of 0x11, .of 0x10, .of 0xFFFFFFFF] := by decide

/-! ## One step: the array, streams, prefixes, sampling, trees -/

/-- The worked column of R98: the exact sum is −5.75, and 2^24 + −5.75 × 0.5 rounds once to 16,777,213.0. -/
theorem test_mxfp4_column :
    (let act : List Byte := [0x72] ++ List.replicate 15 0 ++ [0x01] ++ List.replicate 239 0
     let w : List Byte := [0xB5] ++ List.replicate 15 0 ++ [0x01] ++ List.replicate 239 0
     let s := columnSum (pairInfo .mx4) act ([128] ++ List.replicate 15 127) w ([126] ++ List.replicate 15 127)
     rne32 s = 0xC0B80000 ∧ rne32 (FV.add false (val32 0x4B800000) (s.mul (val32 0x3F000000))) = 0x4B7FFFFD) := by decide

/-- Array instructions at issue and MXRD, MXSTAT, MXWAIT (R247 to R263). -/
theorem test_array_issue :
    (let go (i : Instr) (x : Tile) (w : Word := 0) : State :=
       let s := (dev { thd [(6, w)] with utvec := 0x4000 }).setTile 0 x; nextOf (exec i s) s
     let x : Tile := { Tile.idle with cbs := Tile.idle.cbs.set 3 ⟨4, 544, 0, 0, 0, 4, 0, 0⟩ }
     let y : Tile := { Tile.idle with accStat := Tile.idle.accStat.set 1 ⟨true, .complete, 7⟩, shadow := ⟨.valid, 6, []⟩ }
     ((go (.mxzero 2) Tile.idle).tile 0).rowQ.map (·.op) = [.zero 2] ∧ (t0 (go .mxswap Tile.idle)).ucause = 56 ∧
     ((go .mxswap { Tile.idle with unclaimed := 1 }).tile 0).rowQ.map (·.op) = [.swap] ∧
     ((go (.mxldw 3 6) x 6).tile 0).weightQ.map (·.op) = [.ldw 3 6] ∧ ((go (.mxldw 3 6) x 6).tile 0).locks.map (·.src) = [(0, 34816)] ∧
     ((go (.mxldw 3 6) x 6).tile 0).unclaimed = 1 ∧ (t0 (go (.mxldw 3 6) x 11)).ucause = 2 ∧ (t0 (go (.mxldw 4 6) x 6)).utval = 4 ∧
     (t0 (go (.mxstrm .bb 1 3 6 1) x 0x80)).ucause = 28 ∧ (t0 (go (.mxstrm .bb 1 3 6 1) x 0x81)).ucause = 2 ∧ (t0 (go (.mxstrm .mx4 1 3 6 1) x 1)).utval = 4 ∧
     (t0 (go (.mxwb 3 1 6) x 0x06000001)).ucause = 2 ∧ ((go (.mxwb 3 1 6) x 0x11000001).tile 0).rowQ.map (·.op) = [.wb 3 1 1 0 1 true] ∧
     (t0 (go (.mxstat 5 1) y)).rx 5 = .of 0x00000001A00A0007 ∧ (t0 (go (.mxwait 5) y)).rx 5 = .of 0 ∧
     lane ((t0 (go (.mxrd 2 1 6) { y with acc := [(131, [7, 8])] } 3)).rv 2) 1 = .of 8) := by decide

/-- MXZERO's run, and a plane that becomes active: the swap starts, and ends (R248, R258). -/
theorem test_array_runs :
    (let s := (dev (thd [])).setTile 0 { Tile.idle with
        rowQ := [⟨1, 0, 1, 1, .zero 1, false, 0, false⟩], acc := [(131, [7])], accStat := Tile.idle.accStat.set 1 ⟨true, .complete, 7⟩ }
     let u := nextOf (exec .arrayMxzeroRun { s with input := .num 0 }) s
     (u.tile 0).accRow 1 3 = List.replicate 128 0 ∧ (u.tile 0).accStat[1] = ⟨false, .complete, 7⟩ ∧ (u.tile 0).rowQ = []) ∧
    (let s := (dev (thd [])).setTile 0 { Tile.idle with rowQ := [⟨1, 0, 1, 1, .swap, false, 0, false⟩], shadow := ⟨.valid, 6, [1]⟩ }
     let u := nextOf (exec .arrayMxswapRun { s with input := .num 0 }) s
     let v := nextOf (exec .arrayMxswapRun { u with input := .num 0 }) u
     (u.tile 0).rowQ.map (·.started) = [true] ∧ (u.tile 0).active.state = .empty ∧
     (v.tile 0).active = ⟨.valid, 6, [1]⟩ ∧ (v.tile 0).shadow.state = .empty) := by decide

/-- The stream of the worked barge-in, without a recurrent state: G 52, P 40, I 9, ORDER 1,004, 4 pages, 12 free. -/
def bargeStream : Stream :=
  ⟨1, true, 52, 40, 9, 1004, 0, 0, (List.range 4).map (fun i => ⟨0x100000 + 0x10000 * i, List.replicate 16 0, false⟩),
    (List.range 12).map (fun i => 0x200000 + 0x10000 * i), 0x2000000000, 0x100030000, 0, [(40, 40)], 0x300000, false, 1, 0⟩
/-- The device of a thread bound to it, after an instruction. -/
def streamed (i : Instr) (th : Thread) (st : Stream := bargeStream) : State :=
  let s : State := { dev { th with stream := 0x10001, utvec := 0x4000 } with streams := [(1, st)] }
  let s := (s.putNum (tlLoc 0 0x200) 8 0xFF06).putNum (tlLoc 0 0x208) 24 (501 + 502 * 2 ^ 32 + 503 * 2 ^ 64 + 504 * 2 ^ 96 + 505 * 2 ^ 128 + 506 * 2 ^ 160)
  nextOf (exec i s) s
/-- The stream afterwards. -/
def str (s : State) : Stream := (s.stream? 0x10001).getD bargeStream

/-- The worked barge-in (R354): the frame's result word, the trimmed page and the appended tokens. -/
theorem test_smframe_worked :
    (let s := streamed (.smframe 5 6) (thd [(6, 0x200)])
     (t0 s).rx 5 = .of 0x0000000A00002E00 ∧ ((str s).p, (str s).g, (str s).i, (str s).order) = (40, 46, 10, 1005) ∧
     (str s).pages.length = 3 ∧ (str s).pool.length = 13 ∧
     (str s).pages.map (fun k => (k.tokens.drop 8).take 7) = [List.replicate 7 0, List.replicate 7 0, [501, 502, 503, 504, 505, 506, 0]]) ∧
    (t0 (streamed (.smframe 5 6) (thd [(6, 0x204)]))).ucause = 4 := by decide

/-- The worked SMCOMMIT of a stale stamp is a step without an append; a good one appends (R270). -/
theorem test_smcommit :
    (let s := streamed (.smcommit 5 6 7) (thd [(6, 777), (7, 9)]) { bargeStream with g := 46, i := 10, order := 1005 }
     (t0 s).rx 5 = .of 0x0000000A00002E01 ∧ (str s).order = 1006 ∧ (str s).g = 46) ∧
    (let s := streamed (.smcommit 5 6 7) (thd [(6, 777), (7, 9)])
     (t0 s).rx 5 = .of 0x0000000900003500 ∧ (str s).g = 53 ∧ ((str s).pages.map (fun k => k.tokens.getD 4 0)).getD 3 0 = 777) ∧
    (t0 (streamed (.smcommit 5 6 7) (thd [(6, 0x20000), (7, 9)]))).ucause = 2 := by decide

/-- The other stream instructions (R269, R271, R273 to R277). -/
theorem test_streams :
    (t0 (streamed (.smbind 6) (thd [(6, 0)]))).stream = 0 ∧ (t0 (streamed (.smbind 6) (thd [(6, 2)]))).ucause = 2 ∧
    ((str (streamed (.smplay 6) (thd [(6, 0x50002)]))).p, (str (streamed (.smplay 6) (thd [(6, 0x50002)]))).ptime) = (42, 5) ∧
    (t0 (streamed (.smplay 6) (thd [(6, 13)]))).ucause = 2 ∧
    (t0 (streamed (.smtrunc 5) (thd []))).rx 5 = .of 0x0000000A00002800 ∧ (str (streamed (.smtrunc 5) (thd []))).pages.length = 3 ∧
    (str (streamed (.smsnap 6) (thd [(6, 41)]))).spos = [(40, 40), (41, 41)] ∧ (t0 (streamed (.smsnap 6) (thd [(6, 53)]))).ucause = 2 ∧
    (t0 (streamed (.smstat 5 6) (thd [(6, 0)]))).rx 5 = .of 0x0000003400000028 ∧ (t0 (streamed (.smstat 5 6) (thd [(6, 1)]))).rx 5 = .of 0x00000009000003ED ∧
    (t0 (streamed (.smkv 5 6) (thd [(6, 17)]))).rx 5 = .of 0x2000011000 ∧ (t0 (streamed (.smkv 5 6) (thd [(6, 64)]))).rx 5 = .of 0 := by decide

/-- The prefix table of the worked prefill: entries 0 to 4. -/
def worked : Table Prefix :=
  let e (h : Word) (p d a b age : Nat) : Prefix := ⟨h, p, d, a :: b :: List.replicate 14 0, 0x100000, 0, age, false⟩
  [(0, e 0x11 64 1 1 2 36), (1, e 0x22023 0 2 3 4 37), (2, e 0x44046035 1 3 5 6 38), (3, e 0x8808C06A047 2 4 7 8 39), (4, e 0x01101180D408E059 3 5 1 11 40)]
/-- A device with it and the prompt of six blocks at tile-local 0x400. -/
def prompt (th : Thread) : State :=
  let s : State := { dev { th with utvec := 0x4000 } with pfx := worked, pfxUse := 40 }
  (List.range 6).foldl (fun s j => s.putNum (tlLoc 0 (0x400 + 64 * j)) 8 ((2 * j + 2) * 2 ^ 32 + 2 * j + 1)) s

/-- The worked hashes: the second block's from the first's, and the sixth's, whose rotation carries round (R357). -/
theorem test_phash_worked :
    (let s := prompt (thd [(6, 0x11), (7, 0x440)]); (t0 (nextOf (exec (.phash 5 6 7) s) s)).rx 5 = .of 0x22023) ∧
    (let s := prompt (thd [(6, 0x01101180D408E059), (7, 0x540)]); (t0 (nextOf (exec (.phash 5 6 7) s) s)).rx 5 = .of 0x02301A811C0B2049) := by decide

/-- The worked PFXLOOK of N 6 with PIN: depth 4, entry 3; the entries' ages and pins (R357). -/
theorem test_pfxlook_worked :
    (let s := prompt (thd [(6, 0x400), (7, 0x106)])
     let u := nextOf (exec (.pfxlook 5 6 7) s) s
     (t0 u).rx 5 = .of 0x0000000400000043 ∧ u.pfxUse = 41 ∧
     u.pfx.map (fun p => (p.2.pins, p.2.age)) = [(1, 41), (1, 41), (1, 41), (1, 41), (0, 40)]) := by decide

/-- PFXINS takes the lowest free entry; PFXPIN and PFXUNPIN count along the chain (R281 to R283). -/
theorem test_prefixes :
    (let s : State := { prompt { thd [(6, 64), (7, 1)] with stream := 0x10001 } with streams := [(1, bargeStream)] }
     let u := nextOf (exec (.pfxins 5 6 7) s) s
     (t0 u).rx 5 = .of 0x0000000100000045 ∧ (tfind u.pfx 5).map (fun e => (e.hash, e.parent, e.depth, e.age)) = some (0, 64, 1, 41)) ∧
    (let s := prompt (thd [(6, 1)])
     (nextOf (exec (.pfxpin 6) s) s).pfx.map (fun p => p.2.pins) = [1, 1, 0, 0, 0] ∧ (t0 (nextOf (exec (.pfxunpin 6) s) s)).ucause = 2) := by decide

/-- SDRAW by hand from R284's formula: the draw 0x13932B of 2^24. -/
theorem test_sdraw : (after (.sdraw 4 6 7) { thd [(6, 0x0000000100000005), (7, 0x0201)] with seedkey := 7 }).rf 4 = .of 0x3D9C9958 := by decide

/-- The small tree of R289: records 4 and 6 of the width word 0x0202, and the worked walk. -/
theorem test_trees :
    (let s := dev (thd [(6, 0x0202), (7, 0x400)])
     let u := nextOf (exec (.treegen 5 6 7) s) s
     (t0 u).rx 5 = .of 7 ∧ u.numAt (tlLoc 0 0x420) 8 = 0x0000010100060004 ∧ u.numAt (tlLoc 0 0x430) 8 = 0x0004010200060006) ∧
    (let p (parent tok : Nat) : W32 := BitVec.ofNat 32 (2 ^ 31 + parent * 2 ^ 18 + tok)
     v1After (.daccept 1 2 3) (vth [p 0 0, p 0 11, p 1 21, p 1 22, p 0 12, p 4 23, p 4 24] [12, 0, 0, 0, 24, 0, 31]) [0, 1, 2, 3]
       = [.of 0x0408000C, .of 0x06080018, .of 0x0608001F, .voidword]) := by decide +kernel

/-- TOPKMRG of one list of two candidates, K 1 (R286). -/
theorem test_topkmrg :
    (let s := (((dev (thd [(6, 0x400), (7, 0x100000001)])).putNum (tlLoc 0 0x400) 8 0x400000003F800000).putNum (tlLoc 0 0x480) 256
        (2 ^ 1024 - 1 - 2 ^ 64 + 1 + 0x0000000900000008))
     let u := nextOf (exec (.topkmrg 5 6 7) s) s
     (t0 u).rx 5 = .of 1 ∧ u.numAt (tlLoc 0 0x400) 8 = 0xFF80000040000000 ∧ u.numAt (tlLoc 0 0x480) 8 = 0xFFFFFFFF00000009) := by decide

/-! ## One step: events -/

/-- The device after an event on an input. -/
def ev (i : Instr) (inp : Input) (s : State) : State := nextOf (exec i { s with input := inp }) s
/-- A device with some threads and nothing executing. -/
def idle (ths : Table Thread) : State := { State.reset with threads := ths, scopes := [(0, root0)] }

/-- Waits end when their condition holds, or void at the deadline; a stall ends (R166, R197). -/
theorem test_wait_events :
    (let th := { thd [] with wait := some ⟨.recv 0, 5, 0⟩, inbox := [⟨7, [9], 1, 0⟩] }
     let u := t0 (ev .waitReevaluate (.num 0) (idle [(0, th)]))
     u.rx 5 = .of 9 ∧ u.pc = 0x1004 ∧ u.wait = none) ∧
    (let th := { thd [] with wait := some ⟨.recv 0, 5, 10⟩, waittmo := 90 }
     (t0 (ev .waitTimeout (.num 0) { idle [(0, th)] with time := 100 })).rx 5 = .voidword ∧
     (t0 (ev .waitTimeout (.num 0) { idle [(0, th)] with time := 99 })).wait.isSome = true) ∧
    (t0 (ev .issueStallEnd (.num 0) (idle [(0, { thd [] with stalled := true })]))).stalled = false := by decide

/-- The watchdog, a matrix fault, a slice and a parked wake (R301, R374, R391). -/
theorem test_thread_events :
    (t0 (ev .watchdog (.num 0) (idle [(0, { thd [] with watch := 2 ^ 30, utvec := 0x4000 })]))).ucause = 54 ∧
    (t0 (ev .watchdog (.num 0) (idle [(0, { thd [] with watch := 2 ^ 30 - 1, utvec := 0x4000 })]))).ucause = 0 ∧
    (t0 (ev .matrixOperandDelivery (.num 0) (idle [(0, { thd [] with pendMx := [0x01000001], utvec := 0x4000, wait := some ⟨.recv 0, 5, 0⟩ })]))).utval = 0x01000001 ∧
    (t0 (ev .sliceExpiry (.num 0) { idle [(0, { thd [] with slice := 1 })] with time := 1000 })).sliceStart = 1000 ∧
    (t0 (ev .parkedWake (.num 0) (idle [(0, { thd [] with loc := .parked, wait := some ⟨.recv 0, 5, 0⟩, inbox := [⟨7, [9], 1, 0⟩] })]))).loc = .queued := by decide

/-- The queue worked under R297: with one free compute context on tile 3 of cluster (0,5), A is dispatched and B's skip
count reaches 8; then D is held although it fits. -/
theorem test_queue_worked :
    (let it (task : Bool) (r p a k : Nat) (pl : Option Nat) : Item := ⟨task, r, p, a, k, pl, .compute⟩
     let busy (l c : Nat) : Thread := { thd [] with tile := l, loc := .resident c }
     let full (ts : List (Nat × Nat)) : Table Thread := (List.range 64).filterMap (fun j =>
       if (j / 4, j % 4) ∈ ts then none else some (j, busy (80 + j / 4) (j % 4)))
     let k : Task := { task0 .ready 0 none with cls := .compute, cluster := 5 }
     let s (q : List Item) (ts : List (Nat × Nat)) : State :=
       { (idle (full ts ++ [(0x4410, { thd [] with tile := 89 })])).setCluster 5 { Cluster.idle with ready := q } with time := 1000, tasks := [(0xFF, k), (0x120, k), (0x121, k)] }
     let a := it true 0x120 4 900 0 none
     let b := it false 0x4410 4 900 7 (some 89)
     let c := it true 0xFF 2 800 0 none
     let d := it true 0x121 4 900 0 none
     let u := ev .taskDispatch (.num 5) (s [b, a, d, c] [(3, 0)])
     (u.cluster 5).ready.map (fun i => (i.record, i.skips)) = [(0x4410, 8), (0x121, 0), (0xFF, 0)] ∧
     (tfind u.tasks 0x120).map (·.state) = some .running ∧
     (let b8 := { b with skips := 8 }
      ((ev .taskDispatch (.num 5) (s [b8, d, c] [(3, 0)])).cluster 5).ready.length = 3)) := by decide +kernel

/-- A return that brings O to 0 joins a CLOSING scope and sends its parent's weight on; one that does not, lowers O
(R29, R33). -/
theorem test_returns :
    (let s (w : Nat) : State := { idle [] with scopes := [(0, root0), (1, { child1 with state := .closing })], returns := [⟨16385, w, .member, 0⟩] }
     let u := ev .weightReturn (.num 0) (s 0x10000000000)
     (u.scope? 16385).map (fun c => (c.state, c.o)) = some (.joined, 0) ∧ u.returns = [⟨1, 0x8000000000, .child 16385, 0⟩] ∧
     ((ev .weightReturn (.num 0) (s 0xFFFFFFFFFF)).scope? 16385).map (fun c => (c.state, c.o)) = some (.closing, 1)) ∧
    (let s := (idle []).setTile 0 { Tile.idle with tracker := [⟨1, 1, 5, [], none⟩] }
     let u := ev .trackerReturn (.num2 0 1) s
     u.returns = [⟨1, 5, .member, 0⟩] ∧ (u.tile 0).tracker = []) ∧
    ((ev .cancelMessageArrive (.num 1) { idle [(0, thd [])] with scopes := [(0, root0), (1, child1)] }).scope? 16385).map (·.cancelled) = some true := by decide

/-- The walk of R58: 0x0081_4067_1234 through three levels to a 2 MiB leaf based at 0x12_3440_0000. -/
theorem test_walk_worked :
    (let s : State := { dev (thd []) with aspaces := [(0, ⟨0x100000, none, []⟩)] }
     let s := ((s.putNum 0x100008 8 0x110001).putNum 0x110028 8 0x120001).putNum 0x120018 8 (0x1234400000 + 0xF)
     let u := ev .translationWalk (.walk 0 0 0x0081_4067_1234 false) s
     (u.tile 0).tlb.map (fun e => (e.base, e.size)) = [(0x8140600000, 0x200000)] ∧
     u.access (thd []) 0x0081_4067_1234 4 .load .base = .ok (.loc 0x1234471234)) := by decide

/-- A die's clock: counting, a step with its stall, stepping down at the limit and up again (R161, R163, R342). -/
theorem test_clocks :
    ((State.reset.tick 1000).die 1).cycle = 1800 ∧ ((State.reset.tick 1000).die 1).ncyc / 2 ^ 16 = 1800 ∧
    (let s := State.reset.setDie 1 { State.reset.die 1 with mhz := 900, stepped := 2, coolSince := some 0 }
     ((ev .thermalStepUp (.num 1) { s with time := 1000000 }).die 1).mhz = 1200 ∧ ((ev .thermalStepUp (.num 1) { s with time := 999999 }).die 1).mhz = 900 ∧
     ((s.tick 1000).die 1).ncyc / 2 ^ 16 = 1800) ∧
    ((ev .tempPowerSample (.sample 2 800 100 true) { State.reset with time := 1000000 }).die 2).atLimit = true ∧
    (ev .trip (.flag true) State.reset).tripped = true ∧
    ((ev .clockStallEnd (.num 1) ({ State.reset with time := 5 }.setDie 1 { State.reset.die 1 with stallUntil := 5 })).die 1).stallUntil = 0 := by decide

/-- A Kiln command: index 0 of queue 0. -/
def kcmd (op : Nat) (ws : List Word) : Command :=
  { queue := 0, index := 0, op := op, group := 0, token := 3, post := false, irq := false, words := ws, cookie := 0, phase := .taken,
    status := 0, value := 0, root := 0, launch := none, silent := false, got := [] }
/-- Status and value of a command the Kiln carried out, and the device. -/
def carried (i : Instr) (op : Nat) (ws : List Word) (s : State := State.reset) : Option (Nat × Nat) × State :=
  let u := ev i (.num 1) { s with cmds := [(1, kcmd op ws)] }
  ((tfind u.cmds 1).map (fun c => (c.status, c.value)), u)

/-- Commands of the Kiln (R330): clocks, heaps, streams, spaces, thresholds, tokens, groups, and refusals. -/
theorem test_kiln_commands :
    (carried .setClock 11 [0, 1, 1500]).1 = some (0, 0) ∧ ((carried .setClock 11 [0, 1, 1500]).2.die 1).mhz = 1500 ∧
    ((carried .setClock 11 [0, 1, 1500]).2.die 1).stallUntil = 2000 ∧
    (carried .createHeap 4 [0, 1, 0x20001, 4, 0, 0x200000000]).1 = some (6, 0) ∧
    (carried .createStream 6 [0, 0, 0, 1, 0x100030000, 65, 0x2000000000, 0]).1 = some (7, 0) ∧
    (carried .aspaceSet 8 [0, 2, 0x100000]).1 = some (0, 0) ∧ (tfind (carried .aspaceSet 8 [0, 2, 0x100000]).2.aspaces 2).map (·.root) = some 0x100000 ∧
    (carried .threshold 10 [0, 3, 0x10001, 50, 5, 1]).2.thresholds.map (fun p => (p.1, p.2.source, p.2.fall, p.2.level)) = [(3, 1, true, 50)] ∧
    (carried .kill 2 [0, 7]).1 = some (8, 0) ∧
    (carried .waitToken 3 [0, 0]).1 = some (0, 0) ∧ (tfind (carried .waitToken 3 [0, 1]).2.cmds 1).map (·.phase) = some .taken ∧
    (carried .destroyStream 7 [0, 9]).1 = some (7, 0) ∧ (carried .destroyHeap 5 [0, 9]).1 = some (6, 0) := by decide

/-- Queue registers: ENABLE, NOTIFY past the ring, CHEAD, and an interrupt word cleared (R328, R332, R405, R409). -/
theorem test_host_registers :
    (let s := ev .queueEnable (.num 3) State.reset
     (s.queue 3).state = .active ∧ ((ev .notifyWrite (.num2 3 8) s).queue 3).notify = 8 ∧ ((ev .notifyWrite (.num2 3 9) s).queue 3).state = .error ∧
     ((ev .queueDisable (.num 3) s).queue 3).state = .disabled) ∧
    ((ev .cheadWrite (.num2 3 5) State.reset).queue 3).chead = 5 ∧
    (ev .deviceEventClear (.num 2) { State.reset with devEvents := 2 }).devEvents = 0 ∧
    (tfind ((ev .tokenCounterWrite (.num3 0 4 9) State.reset).func 0).tokens 4) = some 9 ∧
    ((ev .registerWrite (.reg (.qbase 1) 0x1001) State.reset).queue 1).qbase = 0x1000 ∧
    ((ev .registerWrite (.reg (.control 1) 0x05000204) State.reset).queue 1).vector = 5 := by decide

/-- Life cycle, TDISP, resets, and a Kiln that fails over (R333, R335, R339, R410). -/
theorem test_device_events :
    (ev .lifecycleReturn .none State.reset).life = .returned ∧ (ev .lifecycleDeploy .none State.reset).life = .deployed ∧
    (let s := ev .registerWrite (.reg (.ide 2) 1) State.reset
     ((ev .tdispLock (.numFlag 2 false) s).func 2).tdisp = .locked ∧ ((ev .tdispLock (.numFlag 2 true) s).func 2).tdisp = .unlocked ∧
     ((ev .tdispLock (.numFlag 2 false) State.reset).func 2).tdisp = .unlocked) ∧
    ((ev .flr (.num 3) (ev .queueEnable (.num 48) State.reset)).queue 48).state = .disabled ∧
    (ev .deviceReset (.boot [true, true, true, true] [7] [] 512 768000000000) (idle [(0, thd [])])).threads = [] ∧
    ((ev .deviceReset (.boot [true, true, true, true] [7] [] 512 768000000000) State.reset).tile 7).outOfService = true ∧
    (ev .deviceReset (.boot [true, false, true, true] [] [] 512 768000000000) State.reset).booted = false ∧
    (ev .kilnTakeover (.num 10000) State.reset).kilnDie = 2 ∧ (ev .kilnTakeover (.num 9999) State.reset).kilnDie = 0 ∧ (ev .linkFailure (.num2 0 2) State.reset).devEvents = 8 := by decide

/-- Remote operations of peers and their answers (R31, R336). -/
theorem test_peers :
    ((ev .remoteOperationArrive (.peer 3 9 (.store 0x1000 [1, 2])) State.reset).numAt 0x1000 2 = 0x201 ∧
     (ev .remoteOperationArrive (.peer 3 9 (.load 0x1000 2)) State.reset).sent = [.ack 3 9 [0, 0]] ∧
     (ev .remoteOperationArrive (.peer 3 9 (.amo 0 0x1000 4 5 0)) State.reset).numAt 0x1000 4 = 5) ∧
    (let m : Remote := ⟨4, 0, 0, 1, 3, 0x50, 0x100000000, 8, .load, 1, 6, 0, false⟩
     let s := { idle [(0, { thd [] with remoteOut := some 4, utvec := 0x4000 })] with remotes := [m] }
     (t0 (ev .remoteAck (.ack 4 (.bytes [1, 0, 0, 0, 0, 0, 0, 0])) s)).peer.map (·.bs) = [[1, 0, 0, 0, 0, 0, 0, 0]] ∧
     (ev .remoteAck (.ack 4 (.bytes [1])) s).returns = [⟨1, 6, .member, 0⟩] ∧ (t0 (ev .remoteAck (.ack 4 .refused) s)).peer.map (·.ans) = [.failed] ∧
     (t0 (ev .remoteTimeout (.num 4) { s with time := 10000000 })).peer.map (fun v => (v.addr, v.ans)) = [(0x100000000, .failed)]) := by decide

/-- Debugging: attach, halt, read, resume (R418 to R424). -/
theorem test_debug :
    (let ask (op who : Nat) (ws : List Word) : Input := .dbg 0 ⟨BitVec.ofNat 64 (who * 2 ^ 32 + op), ws⟩
     let s := ev .attach (ask 1 0 [5]) (idle [(0, thd [(6, 9)])])
     let h := ev .halt (ask 0x10 1 []) s
     (s.func 0).dbgOut = [0] ∧ (t0 h).halted = some .request ∧ ((h.func 0).dbgOut.getD 1 0) = 0x100000000 ∧
     (((ev .read (ask 0x130 1 []) h).func 0).dbgOut.drop 2).getD 7 0 = 9 ∧ (t0 (ev .resume (ask 0x11 1 []) h)).halted = none ∧
     ((ev .halt (ask 0x10 2 []) s).func 0).dbgOut = [0, 3] ∧ ((ev .events (ask 0x40 0 []) (idle [])).func 0).dbgOut = [1] ∧
     (t0 (ev .write (ask 0x131 1 [6, 7, 0]) h)).rx 6 = .of 7) := by decide

/-- A step runs the instruction at the probe's pc as the first after reset (log 6): addi x5, x0, 7 and void x11. -/
theorem test_first_step :
    (t0 (nextOf (step (State.reset.withFetchWord 32 0x00700293)) State.reset)).rx 5 = .of 7 ∧
    (t0 (nextOf (step (State.reset.withFetchWord 32 0x0600358B)) State.reset)).rx 11 = .voidword ∧
    decodeTableWord 32 0x0600358B = some (.void 11) := by decide

/-! ## States that meet the hypotheses of the obligations

One theorem for each obligation that has hypotheses, named `meets_` and its name: for each clause, a state and
operands that meet what the clause asks. -/

/-- Every thread executes on its device. -/
theorem exd (th : Thread) : Executing (dev th) 0 th := ⟨rfl, rfl⟩

/-- A void source beside one that is not. -/
theorem meets_RegisterResults :
    let th := thd [(6, 1)]
    let u := th.wx 7 .voidword
    Executing (dev th) 0 th ∧ Executing (dev u) 0 u ∧
    ((th.rx 6).void = false ∧ (th.rx 7).void = false) ∧ (u.rx 6).void = false ∧ (u.rx 7).void = true ∧
    (rrResults 5 6 7 0 0 ++ rrwResults 5 6 7 0 0).length = 28 ∧ (riResults 5 6 0 0 0 0).length = 13 :=
  ⟨exd _, exd _, by decide⟩

/-- Aligned and misaligned targets, taken and not, void and not. -/
theorem meets_UpperImmediatesJumpsAndBranches :
    let th := thd [(6, 0x2000), (7, 0x2002)]
    let u := th.wx 7 .voidword
    Executing (dev th) 0 th ∧ Executing (dev u) 0 u ∧ (u.rx 7).void = true ∧ (branchConds 6 7 4 0x2000 0x2002).length = 6 ∧
    (.beq 6 7 4, false) ∈ branchConds 6 7 4 0x2000 0x2002 ∧ (.bne 6 7 4, true) ∈ branchConds 6 7 4 0x2000 0x2002 :=
  ⟨exd _, exd _, by decide⟩

/-- Loads at the last aligned address of the tile-local window, past its end, misaligned, and from a void address. -/
theorem meets_LoadsReadLittleEndian :
    let th := thd [(6, 0x5FFF8)]
    let u := thd [(6, 0x60000)]
    let w := th.wx 6 .voidword
    Executing (dev th) 0 th ∧ (dev th).memOk ∧ Executing (dev u) 0 u ∧ Executing (dev w) 0 w ∧ (w.rx 6).void = true ∧ (th.rx 6).void = false ∧
    (∀ p ∈ loadForms th 5 6 0 .die, (dev th).access th p.2.1 p.2.2.1 .load .base = .ok (.loc (tlLoc 0 0x5FFF8))) ∧
    (∀ p ∈ loadForms u 5 6 0 .die, (dev u).access u p.2.1 p.2.2.1 .load .base = .error (.trap 5 0x60000)) ∧
    (dev th).access th 0x5FFFC 8 .load .base = .error (.trap 4 0x5FFFC) :=
  ⟨exd _, rfl, exd _, exd _, by decide⟩

theorem meets_StoresWriteLittleEndian :
    let th := thd [(6, 0x5FFF8), (7, 9)]
    let u := thd [(6, 0x60000), (7, 9)]
    let w := th.wx 7 .voidword
    Executing (dev th) 0 th ∧ (dev th).memOk ∧ Executing (dev u) 0 u ∧ Executing (dev w) 0 w ∧ (w.rx 7).void = true ∧
    (th.rx 6).void = false ∧ (th.rx 7).void = false ∧
    (∀ p ∈ storeForms th 6 7 0 .die, (dev th).access th p.2.1 p.2.2.1 .store .base (some 9) = .ok (.loc (tlLoc 0 0x5FFF8))) ∧
    (∀ p ∈ storeForms u 6 7 0 .die, (dev u).access u p.2.1 p.2.2.1 .store .base (some 9) = .error (.trap 7 0x60000)) :=
  ⟨exd _, rfl, exd _, exd _, by decide⟩

/-- An odd address misaligns every size above one byte. -/
theorem meets_MisalignedAccessesTrap :
    let th := thd [(6, 0x101), (7, 9)]
    Executing (dev th) 0 th ∧ (th.rx 6).void = false ∧ (th.rx 7).void = false ∧ (th.rf 1).void = false ∧
    (∀ p ∈ loadForms th 5 6 0 .die, p.2.2.1 = 1 ∨ p.2.1.toNat % p.2.2.1 ≠ 0) ∧
    (∀ p ∈ storeForms th 6 7 0 .die, p.2.2.1 = 1 ∨ p.2.1.toNat % p.2.2.1 ≠ 0) ∧
    ((th.rx 6).val + BitVec.ofInt 64 (0#12).toInt).toNat % 4 ≠ 0 ∧
    (∀ z ∈ [(Size.h, (2 : Nat)), (Size.w, 4), (Size.d, 8)], (th.rx 6).val.toNat % z.2 ≠ 0) := ⟨exd _, by decide⟩

theorem meets_FloatLoadsAndStores :
    let th := thd [(6, 0x100)]
    let u := th.wf 1 .voidword
    let w := th.wx 6 .voidword
    Executing (dev th) 0 th ∧ (dev th).memOk ∧ Executing (dev u) 0 u ∧ Executing (dev w) 0 w ∧
    (th.rx 6).void = false ∧ (th.rf 1).void = false ∧ (u.rf 1).void = true ∧ (w.rx 6).void = true ∧
    (dev th).access th 0x100 4 .load .base = .ok (.loc (tlLoc 0 0x100)) ∧
    (dev th).access th 0x100 4 .store .base (some 0) = .ok (.loc (tlLoc 0 0x100)) := ⟨exd _, rfl, exd _, exd _, by decide⟩

/-- A device whose tile 0 buffers one page at 0x1_0000_0000, by a leaf word. -/
def paged (th : Thread) (leaf : Word) : State :=
  (dev th).setTile 0 { Tile.idle with tlb := [⟨0, 0x100000000, 0x10000, leaf⟩] }
theorem paged_executing (th : Thread) (leaf : Word) : Executing (paged th leaf) 0 th := ⟨rfl, rfl⟩

/-- LDS of a good address, of one outside every window, of one without a page, of a misaligned one; MCST to a page of
two replicas, to an ORDINARY page, and misaligned. -/
theorem meets_SpeculativeLoadsAndMulticastStores :
    (let th := thd [(6, 0x100), (7, 9)]
     let u := thd [(6, 0x60000)]
     let w := thd [(6, 0x100000000)]
     let n := th.wx 6 .voidword
     Executing (dev th) 0 th ∧ (dev th).memOk ∧ Executing (dev u) 0 u ∧ Executing (dev w) 0 w ∧ Executing (dev n) 0 n ∧ (n.rx 6).void = true ∧
     (th.rx 6).void = false ∧ (dev th).access th 0x100 8 .load .lds = .ok (.loc (tlLoc 0 0x100)) ∧
     ((u.rx 6).val.toNat % 8 = 0 ∧ windowEnd (u.rx 6).val.toNat = none) ∧
     ((w.rx 6).val.toNat % 8 = 0 ∧ translated (w.rx 6).val.toNat = true ∧ (dev w).leafOf w.tile w.aspace (w.rx 6).val.toNat = none)) ∧
    (let th := thd [(6, 0x100000000), (7, 9)]
     let r := paged th 0xA00000000010033F
     let o := paged th 0x000000000010003F
     Executing r 0 th ∧ r.memOk ∧ Executing o 0 th ∧ o.memOk ∧ (th.rx 6).void = false ∧ (th.rx 7).void = false ∧
     r.mcstPlaces th 0x100000000 8 9 = .ok [0x100000, 0x3000100000] ∧
     (0x100000000 % 8 = 0 ∧ translated 0x100000000 = true ∧
      (o.leafOf th.tile th.aspace 0x100000000).map (fun f => (f.bit 3, f.cls)) = some (true, 0)) ∧ (0x100000001 % 8 : Nat) ≠ 0) :=
  ⟨⟨exd _, rfl, exd _, exd _, exd _, by decide⟩, ⟨paged_executing _ _, rfl, paged_executing _ _, rfl, by decide⟩⟩

/-- No watchpoint of a thread without any is hit. -/
theorem no_watch (xs : List (XReg × Word)) (h : (thd xs).wp = Vector.replicate 4 ⟨0, 0, 0⟩) (a n : Nat) (u : Use) (d : Option Word) :
    (thd xs).watchHit a n u d = none := by
  unfold Thread.watchHit
  rw [h]
  split
  · rfl
  · simp [List.range_succ]

/-- An atomic on the word 9; a misaligned one; an AMOCAS that writes and one that does not; void operands. -/
theorem meets_AtomicsReturnOldAndWriteNew :
    let th := thd [(5, 9), (6, 0x100), (7, 3)]
    let s := (dev th).putNum (tlLoc 0 0x100) 8 9
    let u := thd [(6, 0x101), (7, 3)]
    let w := (thd [(6, 0x100), (7, 3)]).wx 5 .voidword
    Executing s 0 th ∧ (∀ v d, th.watchHit (th.rx 6).val.toNat 8 v d = none) ∧ Executing (dev u) 0 u ∧ Executing (dev w) 0 w ∧ s.memOk ∧
    (th.rx 6).void = false ∧ (th.rx 7).void = false ∧ (th.rx 5).void = false ∧ (w.rx 5).void = true ∧
    s.access { th with skipCheck := true } 0x100 8 .amo .base = .ok (.loc (tlLoc 0 0x100)) ∧
    (dev u).access { u with skipCheck := true } 0x101 8 .amo .base = .error (.trap 4 0x101) ∧
    (9 : Int) = (BitVec.ofNat 64 (leAt s (tlLoc 0 0x100) 8)).toInt ∧ (3 : Int) = (BitVec.ofNat 64 (th.rx 7).val.toNat).toInt ∧
    (amoResults .die .d 5 6 7 8 9 3 9).map (·.2.2) = List.replicate 8 true ∧ ((amoResults .die .d 5 6 7 8 9 3 8).map (·.2.2)).getD 2 true = false :=
  ⟨⟨rfl, rfl⟩, fun _ _ => no_watch _ rfl _ _ _ _, exd _, exd _, by unfold State.memOk; decide⟩

theorem meets_AccessesTouchOnlyTheirPage :
    (dev (thd [])).memOk ∧ translated 0x100 = false ∧ (1 : Nat) ≠ 0 ∧ (dev (thd [])).walk 0 0x100000000 = none ∧ (dev (thd [])).logRing 0 = none ∧
    (let s : State := { dev (thd []) with aspaces := [(0, ⟨0x100000, some 2, []⟩)], funcs := [(2, { Func.idle with logSize := some 6, logBase := 0x40 })] }
     (s.logRing 0).map (fun p => (p.1, p.2.2)) = some (2, 6)) := ⟨rfl, by decide⟩

/-- A page of device 3, with an answer there and without one. -/
theorem meets_PeerAccessesAreRemoteOperations :
    let th := thd [(6, 0x100000000), (7, 9)]
    let u : Thread := { th with peer := [⟨0x100000000, 8, false, [1, 0, 0, 0, 0, 0, 0, 0], .ok, 0⟩] }
    let s := paged th 0x801800000010003F
    Executing s 0 th ∧ Executing (paged u 0x801800000010003F) 0 u ∧ (th.rx 6).void = false ∧ (th.rx 7).void = false ∧
    s.access th 0x100000000 8 .load .base = .ok (.peer 3 0x100000) ∧ s.access th 0x100000000 8 .store .base (some 9) = .ok (.peer 3 0x100000) ∧
    (th.peer.find? (fun v => v.addr == 0x100000000 && v.n == 8 && !v.amo) = none) ∧
    (u.peer.find? (fun v => v.addr == 0x100000000 && v.n == 8 && !v.amo)).isSome = true := ⟨paged_executing _ _, paged_executing _ _, by decide⟩

/-- frm 4 is a mode and frm 5 is none; a void source that is read, and one that is not. -/
theorem meets_FloatArithmeticRoundsAndAccrues :
    let th : Thread := { thd [] with frm := 4 }
    let u : Thread := { thd [] with frm := 5 }
    let w := th.wf 3 .voidword
    Executing (dev th) 0 th ∧ Executing (dev u) 0 u ∧ Executing (dev w) 0 w ∧ (w.rf 3).void = true ∧
    roundingOf .dyn th.frm = some .rmm ∧ roundingOf .dyn u.frm = none ∧ roundingOf .rtz u.frm = some .rtz ∧
    fReads (.fsqrtS 4 1 .rne) = (false, false) ∧ fReads (.fmaddS 4 1 2 3 .rne) = (true, true) ∧ (fRounded 4 1 2 3 .rne .rne 0 0 0).length = 9 :=
  ⟨exd _, exd _, exd _, by decide⟩

theorem meets_FloatConversionsMovesAndComparisons :
    let th : Thread := { thd [] with frm := 4 }
    let u : Thread := { thd [] with frm := 7 }
    let w := (th.wf 1 .voidword).wx 6 .voidword
    Executing (dev th) 0 th ∧ Executing (dev u) 0 u ∧ Executing (dev w) 0 w ∧ (w.rf 1).void = true ∧ (w.rx 6).void = true ∧ (th.rf 1).void = false ∧
    (th.rx 6).void = false ∧ roundingOf .dyn th.frm = some .rmm ∧ roundingOf .dyn u.frm = none ∧ (intForms 5 1 .dyn).length = 4 ∧
    (floatForms 4 6 .dyn 0).length = 4 := ⟨exd _, exd _, exd _, by decide⟩

theorem meets_BaseFenceIsDieFence : (0x0000100F : W32).extractLsb' 0 7 = 0x0F#7 ∧ (0x0000100F : W32).extractLsb' 12 3 = 1#3 := by decide

/-- A copy record in flight for thread identifier 1 of scope 1 at tile 0. -/
def copy1 : Copy :=
  ⟨1, .compute, 5, 1, 1, 8, false, 1, 1000, 0x1000, 0x10080, 0, 0, [⟨0x1000, 1000, none, tlLoc 0 0x1000, (0, 0)⟩],
    [⟨0x10080, 1000, none, tlLoc 0 0x10080, (0, 0)⟩], none, 0, false, false, []⟩
/-- A device with it. -/
def copying (th : Thread) (c : Copy := copy1) : State := (dev th).setTile 0 { Tile.idle with copies := [c], locks := [⟨1, (0x1000, 1000), (0x10080, 1000)⟩] }
theorem copying_executing (th : Thread) (c : Copy) : Executing (copying th c) 0 th := ⟨rfl, rfl⟩

/-- A thread with a copy under way, one with a remote store at the reach where it counts and below it, and one idle. -/
theorem meets_FencesWaitForEngineOperations :
    let th := thd []
    let r : State := { dev th with remotes := [⟨4, 0, 0, 1, 3, 0x50, 0x100000000, 8, .store [1], 1, 6, 0, false⟩] }
    Executing (copying th) 0 th ∧ Executing r 0 th ∧ Executing (dev th) 0 th ∧
    ((4 : BitVec 3) ≠ 0 ∧ (7 : BitVec 3) ≠ 0 ∧ (4 : BitVec 3).getLsbD 2 = true ∧ (copying th).engineBusy 0 (th.tid 0) = true) ∧
    (2 : BitVec 3).getLsbD 1 = true ∧ 4 ≤ (Reach.bits .fabric).toNat ∧ ¬4 ≤ (Reach.bits .package).toNat ∧ r.remoteBusy (th.tid 0) = true ∧
    (dev th).engineBusy 0 (th.tid 0) = false ∧ (dev th).remoteBusy (th.tid 0) = false := ⟨copying_executing _ _, ⟨rfl, rfl⟩, exd _, by decide⟩

/-- An unlisted CSR, a read-only one written and only read, a writable one, and a void source. -/
theorem meets_CsrInstructions :
    let th := thd [(6, 1)]
    let u := th.wx 6 .voidword
    Executing (dev th) 0 th ∧ Executing (dev u) 0 u ∧ (0xC02 : Nat) ∉ csrNumbers ∧ 0xC00 ∈ csrNumbers ∧ 0x80B ∈ csrNumbers ∧ 0x80B < 0xC00 ∧ 0x80B ≠ 0x80A ∧
    ((csrForms th 5 6 1 0xC00).map (fun p => (p.2.1, p.2.2.1))) = List.replicate 6 (false, false) ∧
    ((csrForms th 5 0 0 0xC00).map (fun p => (p.2.1, p.2.2.1))) = List.replicate 6 (false, true) ∧
    ((csrForms u 5 6 1 0x80B).map (fun p => p.2.1)) = [true, true, true, false, false, false] := ⟨exd _, exd _, by decide⟩

theorem meets_CsrContents : (63 : Nat) < 64 ∧ 0x808 ∈ [0x808, 0x809] := by decide

/-- Table lengths −1, 0 and 3; indices 2 and 3; a void index; a table entry that can be read and one that cannot. -/
theorem meets_VoidWordsAndJumpTables :
    let th := thd [(5, 2), (6, 0x100)]
    let u := thd [(5, 3), (6, 0x100)]
    let w := th.wx 5 .voidword
    let b := thd [(5, 2), (6, 0x60000)]
    Executing (dev th) 0 th ∧ (dev th).memOk ∧ Executing (dev u) 0 u ∧ Executing (dev w) 0 w ∧ Executing (dev b) 0 b ∧
    (0 : BitVec 12).toInt ≤ 0 ∧ (0xFFF : BitVec 12).toInt ≤ 0 ∧ 0 < (3 : BitVec 12).toInt ∧ (w.rx 5).void = true ∧
    (3 : BitVec 12).toInt ≤ ((u.rx 5).val.toNat : Int) ∧ ((th.rx 5).val.toNat : Int) < (3 : BitVec 12).toInt ∧
    (dev th).access th ((th.rx 6).val + BitVec.ofNat 64 (4 * (th.rx 5).val.toNat)) 4 .load .base = .ok (.loc (tlLoc 0 0x108)) ∧
    (dev b).access b ((b.rx 6).val + BitVec.ofNat 64 (4 * (b.rx 5).val.toNat)) 4 .load .base = .error (.trap 5 0x60008) ∧
    (((thd []).wf 1 .voidword).rf 1).void = true := ⟨exd _, rfl, exd _, exd _, exd _, by decide⟩

/-- User and machine mode, with a debug session and without. -/
theorem meets_SystemInstructions :
    let th := thd []
    let m : Thread := { th with mode := .machine }
    let s : State := { dev th with funcs := [(0, { Func.idle with session := some ⟨1, []⟩ })] }
    Executing (dev th) 0 th ∧ Executing (dev m) 0 m ∧ Executing s 0 th ∧ th.mode = .user ∧ m.mode = .machine ∧
    (dev th).sessionFor th.cmd = none ∧ s.sessionFor th.cmd ≠ none ∧ th.skipCheck = false := ⟨exd _, exd _, ⟨rfl, rfl⟩, by decide⟩


/-- A device whose threads and scopes are the given ones, thread 0 current. -/
def world (ths : List (Nat × Thread)) (scs : List (Nat × Scope)) : State :=
  { State.reset with threads := ths, scopes := scs, cur := some 0 }
/-- Thread 0 with k1 the opener of scope record 1, k0 of the root. -/
def opener : Thread := (thd []).wk 1 ⟨.opener, 16385, 0x10000000000⟩
/-- A thread born into scope 16385. -/
def born : Thread := (thd [(6, 16385)]).wk 0 ⟨.birth, 16385, 0x8000000000⟩

/-- A cancelled thread, and one in a cancelled scope; as many slots as a buffer has, and fewer. -/
theorem meets_CancellationPointsDivert :
    let th : Thread := { thd [(6, 4)] with cancel := true }
    let u := thd [(6, 1)]
    let s : State := (world [(0, u)] [(0, { root0 with cancelled := true })]).setTile 0 { Tile.idle with cbs := Tile.idle.cbs.set 0 ⟨4, 1, 0, 0, 0, 4, 0, 0⟩ }
    Executing (dev th) 0 th ∧ Executing s 0 u ∧ th.cancel = true ∧ s.scopeCancelled u.sid0 = true ∧ th.shieldn = 0 ∧ u.shieldn = 0 ∧
    (∀ p ∈ pointForms 5 6 6 6 1 2 0, ∀ r ∈ p.2, (th.rx r).void = false) ∧ ((s.tile 0).cb 0).count = 4 ∧
    (th.rx 6).val.toNat ≤ 4 ∧ (u.rx 6).val.toNat ≤ 4 := ⟨exd _, ⟨rfl, rfl⟩, by decide⟩

/-- Each kind of handle; SENTER with a handle register that is full and empty, into a scope that is open, into one that
is not, into one that is not above, and past the last identifier. -/
theorem meets_ScopesOpenCloseAndEnter :
    let th := born
    let s := world [(0, th)] [(0, root0), (1, child1)]
    let o := opener
    let u := (thd [(6, 1), (7, 16385)]).wx 5 .voidword
    let big := thd [(6, 0x100000000)]
    Executing s 0 th ∧ Executing (dev o) 0 o ∧ Executing (dev u) 0 u ∧ Executing (dev big) 0 big ∧
    s.diverts th = false ∧ (dev o).diverts o = false ∧ (th.rk 0).kind = .birth ∧ (th.rk 2).kind = .empty ∧ s.scope? (th.rk 0).sid = some child1 ∧
    child1.depth < 255 ∧ s.pickScope 0 = some 2 ∧ (o.rk 1).kind = .opener ∧ (o.rk 0).kind ≠ .opener ∧ (u.rx 5).void = true ∧ (u.rx 6).void = false ∧
    ((thd []).wk 3 ⟨.closed, 16385, 0⟩ |>.rk 3).kind = .closed ∧
    (s.scope? 16385 = some child1 ∧ (16385 : Nat) < 2 ^ 32 ∧ child1.state = .opened ∧ s.under 16385 256 th.sid0 = true) ∧
    ((dev u).scope? 1).map (fun c => decide (c.state ≠ .opened)) = some true ∧ (dev u).under 16385 256 u.sid0 = false ∧
    2 ^ 32 ≤ (big.rx 6).val.toNat := ⟨⟨rfl, rfl⟩, exd _, exd _, exd _, by decide⟩

/-- A scope that is open; weights 0 and 1 and more. -/
theorem meets_WeightIsConservedAndSentHome :
    let s := world [] [(1, child1)]
    let one := (thd []).wk 1 ⟨.opener, 16385, 1⟩
    s.scope? 16385 = some child1 ∧ s.scope? (opener.rk 1).sid = some child1 ∧ 0 < (opener.rk 1).weight ∧ (opener.rk 1).weight ≠ 1 ∧
    s.scope? (one.rk 1).sid = some child1 ∧ (one.rk 1).weight = 1 := by decide

/-- A second thread; a scope that has a winner and one that has none; an EMPTY handle. -/
theorem meets_CancellationAndFirstSuccess :
    let th := opener
    let s := world [(0, th), (1, born), (2, thd [])] [(0, root0), (1, child1)]
    let w : Scope := { root0 with succeeded := true, winner := 513 }
    let s' := world [(0, th)] [(0, w)]
    Executing s 0 th ∧ Executing s' 0 th ∧ (th.rk 2).kind = .empty ∧ (th.rk 1).kind ≠ .empty ∧
    tfind s.scopes 1 = some child1 ∧ child1.state ≠ .free ∧ child1.state ≠ .joined ∧ s.thread? 1 = some born ∧
    s.scope? th.sid0 = some root0 ∧ root0.succeeded = false ∧ s'.scope? th.sid0 = some w ∧ w.succeeded = true ∧ w.winner ≠ th.tid 0 ∧
    s.thread? 2 = some (thd []) ∧ (thd []).sid0 = th.sid0 ∧ (thd []).tid 2 ≠ th.tid 0 := ⟨⟨rfl, rfl⟩, ⟨rfl, rfl⟩, by decide⟩

/-- An EMPTY handle, a BIRTH handle, a CLOSED one of a joined scope; the largest winner, cause and depth; the ends
of SHIELDN. -/
theorem meets_StatusWordsShieldsAndBareChecks :
    let th := (thd []).wk 1 ⟨.closed, 16385, 0⟩
    let j : Scope := { child1 with state := .joined, winner := 2 ^ 32 - 1, cause := 255, depth := 255 }
    let s := world [(0, th)] [(0, root0), (1, j)]
    let full : Thread := { thd [] with shieldn := 65535 }
    Executing s 0 th ∧ Executing (dev full) 0 full ∧ (th.rk 2).kind = .empty ∧ (th.rk 0).kind ≠ .empty ∧ s.scope? (th.rk 0).sid = some root0 ∧
    (th.rk 1).kind = .closed ∧ s.scope? (th.rk 1).sid = some j ∧ j.state = .joined ∧ j.winner < 2 ^ 32 ∧ j.cause < 2 ^ 8 ∧ j.depth < 2 ^ 8 ∧
    full.shieldn.toNat = 65535 ∧ th.shieldn.toNat = 0 ∧ s.diverts th = false := ⟨⟨rfl, rfl⟩, exd _, by decide⟩

/-- A tracker with room and one that is full; an EMPTY handle; a misaligned entry; placements that are legal and not;
a free record. -/
theorem meets_SpawnAndExit :
    let th := (opener.wx 6 (.of 0x2000)).wx 7 (.of 0x55)
    let s := dev th
    let f : State := s.setTile 0 { Tile.idle with tracker := List.replicate 32 ⟨1, 1, 0, [], none⟩ }
    let u := (th.wx 6 (.of 0x2002)).wx 7 .voidword
    Executing s 0 th ∧ Executing f 0 th ∧ Executing (dev u) 0 u ∧ (s.tile 0).tracker.length < 32 ∧ 32 ≤ (f.tile 0).tracker.length ∧
    (th.rx 6).void = false ∧ (th.rx 7).void = false ∧ (u.rx 7).void = true ∧ s.diverts th = false ∧ (th.rk 2).kind = .empty ∧ (th.rk 1).kind = .opener ∧
    (th.rx 6).val.toNat % 4 = 0 ∧ (u.rx 6).val.toNat % 4 ≠ 0 ∧ placeLegal s 0 = true ∧ placeLegal s 0x10000000000 = false ∧
    s.freeThread = some 1 ∧ s.thread? 1 = none := ⟨exd _, ⟨rfl, rfl⟩, exd _, by decide⟩

/-- Control words that are legal and not; a block that can be read; a task in each state, held signals at their limits. -/
theorem meets_TasksAreCreatedPublishedAndSignalled :
    let th := thd [(6, 1), (7, 0x30000), (5, 0x100)]
    let s0 := ((dev th).putNum (tlLoc 0 0x100) 8 0x2000).putNum (tlLoc 0 0x108) 8 0x77
    let held (k : Task) : State := { dev th with tasks := [(0, k)] }
    Executing s0 0 th ∧ (∀ k, Executing (held k) 0 th) ∧ (th.rx 6).void = false ∧ (th.rx 7).void = false ∧ taskCtlLegal s0 0x30000 = true ∧
    taskCtlLegal s0 0xF000000000000000 = false ∧
    s0.readVals th .base [(0x100, 8), (0x108, 8)] = .ok [0x2000, 0x77] ∧ 0x2000 % 4 = 0 ∧ (s0.touched th false [0x100, 0x108]).freeTask = some 0 ∧
    (∀ k ∈ [task0 .created 0 none, task0 .created 2 (some 2), task0 .created 1 (some 2), task0 .created 0 (some 65535), task0 .published 1 none,
       task0 .ready 0 none, task0 .running 0 none, task0 .done 0 none, task0 .discarded 65535 none], (held k).task? 1 = some k ∧ k.count < 2 ^ 16) ∧
    (held (task0 .created 0 none)).pendingHeld 3 < 256 ∧ (dev th).task? 1 = none :=
  ⟨⟨rfl, rfl⟩, fun _ => ⟨rfl, rfl⟩, by decide⟩

/-- 256 tasks of cluster 3 that each hold signals: one more must wait. -/
theorem meets_TasksAreCreatedPublishedAndSignalled_full :
    let k := task0 .created 0 none
    let s : State := { dev (thd [(6, 1)]) with tasks := (0, k) :: (List.range' 1 256).map (fun i => (i, task0 .created 2 (some 1))) }
    s.task? 1 = some k ∧ k.state = .created ∧ k.pending = none ∧ 256 ≤ s.pendingHeld k.cluster := by decide +kernel

/-- A thief that waits; operands at 2^32 and below; a bound range with a thief, without one, and another thread's. -/
theorem meets_LazyRangesAreClaimedAndStolen :
    let th := thd [(5, 8), (6, 0xFFFFFFFF), (7, 15)]
    let u := (thd [(5, 0), (6, 0x100000000), (7, 16)])
    let thief : Thread := { thd [] with wait := some ⟨.steal 0, 5, 0⟩ }
    let s (r : Ranges) (l : Nat := 0) : State := (world [(0, th), (1, thief)] [(0, root0)]).setTile l { Tile.idle with ranges := r }
    (s ⟨16, 100, 8, some 257, some 1⟩).byTid 257 = some (1, thief) ∧ thief.wait = some ⟨.steal 0, 5, 0⟩ ∧
    (∀ r l, Executing (s r l) 0 th) ∧ Executing (dev u) 0 u ∧ 2 ^ 32 ≤ (u.rx 6).val.toNat ∧ (u.rx 5).val.toNat = 0 ∧ (th.rx 6).val.toNat < 2 ^ 32 ∧
    0 < (th.rx 5).val.toNat ∧ (th.rx 5).val.toNat < 2 ^ 32 ∧ (8 : Nat) < 100 - 16 ∧
    ((dev th).tile 0).ranges.bound ≠ some (th.tid 0) ∧ ((dev th).tile 0).ranges.thief = none ∧
    15 < (u.rx 7).val.toNat ∧ (th.rx 7).val.toNat ≤ 15 ∧ ((dev th).tile 15).ranges.bound = none ∧
    (((s ⟨0, 1, 1, none, some 999⟩ 15).tile 15).ranges.bound = some 999 ∧ 999 ≠ th.tid 0 ∧ (s ⟨0, 1, 1, none, some 999⟩ 15).inService 15 = true) ∧
    th.tid 0 = 1 := by
  refine ⟨by decide, by decide, fun _ _ => ⟨rfl, rfl⟩, exd _, by decide⟩

/-- A live receiver with room and one without, one that is no more, identifiers at 2^32 and below; words that can be
read and that cannot; queues with and without a four-word message. -/
theorem meets_MessagesAreSentQueuedAndTaken :
    let th := thd [(6, 257), (7, 0x100)]
    let bad := thd [(6, 0x100000000), (7, 0x60000)]
    let w := th.wx 6 .voidword
    let toR (r : Thread) : State := world [(0, th), (1, r)] [(0, root0)]
    let full : Thread := { thd [] with inbox := List.replicate 16 ⟨1, [0], 1, 0⟩, overflow := List.replicate 4096 ⟨1, [0], 1, 0⟩ }
    let q : Thread := { thd [(6, 0x100)] with inbox := [⟨7, [5], 1, 0⟩, ⟨8, [1, 2, 3, 4], 1, 9⟩] }
    (Executing (toR (thd [])) 0 th ∧ Executing (toR full) 0 th ∧ Executing (dev bad) 0 bad ∧ Executing (dev w) 0 w ∧ Executing (dev q) 0 q) ∧
    (w.rx 6).void = true ∧ (th.rx 6).void = false ∧ (th.rx 7).void = false ∧ 2 ^ 32 ≤ (bad.rx 6).val.toNat ∧ (th.rx 6).val.toNat < 2 ^ 32 ∧
    ((toR (thd [])).byTid 257 = some (1, thd []) ∧ (thd []).ending = false ∧ (toR (thd [])).msgRoom (thd []) 4 = true) ∧
    (dev th).byTid 257 = none ∧ (toR (thd [])).readVals th .base [(0x100, 8), (0x108, 8), (0x110, 8), (0x118, 8)] = .ok [0, 0, 0, 0] ∧
    (dev bad).readVals bad .base [(0x60000, 8), (0x60008, 8), (0x60010, 8), (0x60018, 8)] = .error (.trap 5 0x60000) ∧
    (∀ m ∈ (thd []).inbox ++ (thd []).overflow, m.words.length ≠ 4) ∧
    (q.inbox ++ q.overflow = [⟨7, [5], 1, 0⟩] ++ ⟨8, [1, 2, 3, 4], 1, 9⟩ :: [] ∧ ∀ k ∈ [(⟨7, [5], 1, 0⟩ : Msg)], k.words.length ≠ 4) ∧
    (dev q).storeChecks q 8 [(0x100, 1), (0x108, 2), (0x110, 3), (0x118, 4)] =
      .ok [.loc (tlLoc 0 0x100), .loc (tlLoc 0 0x108), .loc (tlLoc 0 0x110), .loc (tlLoc 0 0x118)] :=
  ⟨⟨⟨rfl, rfl⟩, ⟨rfl, rfl⟩, exd _, exd _, exd _⟩, by decide⟩

/-- A receiver without room: its inbox and its cluster's overflow are full. -/
theorem meets_MessagesAreSentQueuedAndTaken_full :
    let full : Thread := { thd [] with inbox := List.replicate 16 ⟨1, [0], 1, 0⟩, overflow := List.replicate 4096 ⟨1, [0], 1, 0⟩ }
    let s := world [(0, thd [(6, 257)]), (1, full)] [(0, root0)]
    s.byTid 257 = some (1, full) ∧ full.ending = false ∧ s.msgRoom full 1 = false := ⟨by decide +kernel, rfl, by decide +kernel⟩

/-- A condition that holds, one that does not, and one whose read fails, for each kind of wait. -/
theorem meets_WaitsAndTheirConditions :
    let th := thd [(6, 0x100), (7, 5)]
    let u := thd [(6, 0x60000)]
    let c : Thread := { thd [] with cancel := true, shieldn := 1, inbox := [⟨8, [1, 2, 3, 4], 1, 0⟩, ⟨7, [5], 1, 0⟩, ⟨7, [6], 1, 0⟩] }
    let w := th.wx 7 .voidword
    let s := (dev th).putNum (tlLoc 0 0x100) 8 5
    Executing s 0 th ∧ Executing (dev u) 0 u ∧ Executing (dev c) 0 c ∧ Executing (dev w) 0 w ∧ s.memOk ∧
    (w.rx 7).void = true ∧ (th.rx 7).void = false ∧ s.diverts th = false ∧ (dev c).diverts c = false ∧ (dev c).cancelled c = true ∧ s.cancelled th = false ∧
    (∃ p, s.waitCond (seen th) (.word .eq 0x100 5) = .ok (some p)) ∧ s.waitCond (seen th) (.word .eq 0x100 6) = .ok none ∧
    (dev u).waitCond (seen u) (.word .eq 0x60000 0) = .error (.trap 5 0x60000) ∧
    s.access th 0x100 8 .load .base = .ok (.loc (tlLoc 0 0x100)) ∧
    (∀ m ∈ c.inbox ++ c.overflow, ¬(m.words.length = 1 ∧ ((9 : Nat) = 0 ∨ m.sender = 9))) ∧
    c.inbox ++ c.overflow = [⟨8, [1, 2, 3, 4], 1, 0⟩] ++ ⟨7, [5], 1, 0⟩ :: [⟨7, [6], 1, 0⟩] ∧
    (∀ k ∈ [(⟨8, [1, 2, 3, 4], 1, 0⟩ : Msg)], ¬(k.words.length = 1 ∧ ((7 : Nat) = 0 ∨ k.sender = 7))) := by
  refine ⟨⟨rfl, rfl⟩, exd _, exd _, exd _, by unfold State.memOk; decide, ?_, ?_, ?_, ?_, ?_, ?_, ⟨_, rfl⟩, ?_⟩ <;> decide

/-- A buffer that is unconfigured, one with slots; as many as there are and one more; masks of which no tag, one and
every tag is SET; a record of one arrival to come, of two, and of none. -/
theorem meets_BufferWaitsTagWaitsAndBarriers :
    let th := thd [(6, 4), (7, 5), (8, 0), (9, 0x200), (10, 0x208)]
    let x : Tile := { Tile.idle with cbs := Tile.idle.cbs.set 3 ⟨4, 1, 0, 0, 0, 4, 0, 0⟩, tags := [(tagKey .compute 2, .set 0 9)] }
    let s := ((dev th).setTile 0 x).putNum (tlLoc 0 0x200) 8 0x0000000700010002
    Executing s 0 th ∧ s.diverts th = false ∧ s.memOk ∧ (∀ r ∈ ([6, 7, 8, 9, 10] : List XReg), (th.rx r).void = false) ∧
    (x.cb 0).count = 0 ∧ (x.cb 3).count = 4 ∧ (th.rx 6).val.toNat ≤ (x.cb 3).free ∧ (x.cb 3).fill < (th.rx 6).val.toNat ∧ (x.cb 3).count < (th.rx 7).val.toNat ∧
    (th.rx 8).val = 0 ∧ x.tagMask .compute &&& 4 = 4 ∧ x.tagMask .compute &&& 5 ≠ 0 ∧ x.tagMask .compute &&& 5 ≠ 5 ∧ x.tagMask .compute &&& 1 = 0 ∧
    (th.rx 10).val.toNat % 16 ≠ 0 ∧ (th.rx 9).val.toNat % 16 = 0 ∧ s.access (seen th) 0x200 8 .amo .base = .ok (.loc (tlLoc 0 0x200)) ∧
    s.access (seen th) 0x208 8 .load .base = .ok (.loc (tlLoc 0 0x208)) ∧
    (leAt s (tlLoc 0 0x200) 8 % 2 ^ 16 = 2 ∧ leAt s (tlLoc 0 0x200) 8 / 2 ^ 16 % 2 ^ 16 = 1 ∧ leAt s (tlLoc 0 0x208) 8 ≤ 5) ∧
    leAt s (tlLoc 0 0x300) 8 % 2 ^ 16 = 0 :=
  ⟨⟨rfl, rfl⟩, by decide, by unfold State.memOk; decide, by decide⟩

/-- Words with operands at their ends. -/
theorem meets_DecodeAndEncodeAgree :
    (∀ i ∈ [Instr.addi 31 31 (-2048), .addi 0 0 2047, .cpy 63 31 31 31, .beq 31 0 (-2048), .jal 31 (-524288)],
      i.isEvent = false ∧ i.wf = true ∧ i.inVersion .v1 = true) ∧ decode .v1 0x800F8F93 = some (.addi 31 31 (-2048)) := by decide

/-- A word that only another version assigns, and one that none does. -/
theorem meets_SpelledAndUnassignedWords :
    decode .v3 0x0801800B = some (.scancel 3) ∧ decode .v2 0x0801800B = none ∧ (∀ v, decode v 0 = none) := by
  refine ⟨by decide, by decide, fun v => ?_⟩
  cases v <;> decide

/-- A device whose next turn fetches a word, one whose thread has no page, one without a thread; an event, a tick and
an empty agenda. -/
theorem meets_StepRunsDecodedInstruction :
    let s := State.reset.withFetchWord 32 0x00700293
    let th := State.freshThread 0x100000000 .v3
    let r : State := { s with agenda := [] }
    let u : State := { r with tiles := [] }
    s.agenda = .issue 0 .compute :: [] ∧ (∃ x, r.pick 0 .compute = some (x, 0, th)) ∧ th.pendMx = [] ∧ State.bpAt th = none ∧
    r.fetch th = .ok 0x00700293 ∧ decode th.ver 0x00700293 = some (.addi 5 0 7) ∧
    (∃ x, u.pick 0 .compute = some (x, 0, th)) ∧ u.fetch th = .error (.trap 12 0x100000000) ∧
    State.pick State.reset 0 .compute = none ∧ Instr.isEvent .waitTimeout = true ∧ State.reset.agenda = [] := by
  refine ⟨rfl, ⟨_, rfl⟩, ?_, ?_, ?_, ?_, ⟨_, rfl⟩, ?_⟩ <;> decide

/-- A step from reset, and one that runs an instruction. -/
theorem meets_MemoryStaysCanonical :
    State.reset.memOk ∧ Goes State.reset { State.reset with agenda := State.reset.plan } ∧
    (State.reset.withFetchWord 32 0x00700293).memOk ∧
    Goes (State.reset.withFetchWord 32 0x00700293) (nextOf (step (State.reset.withFetchWord 32 0x00700293)) State.reset) :=
  ⟨rfl, rfl, by unfold State.memOk; decide, rfl⟩

theorem meets_ReadsGiveWhatWasWritten :
    State.reset.memOk ∧ Memory.wf (State.reset.putNum 5 1 9).mem = true ∧ (31 : XReg) ≠ 0 ∧ (7 : MReg) ≠ 0 := by unfold State.memOk; decide

/-- An armed thread with a handler; one without a handler, a second fault, with room in the tracker, beside another
member; the resident handler's thread. -/
theorem meets_FaultsAreDeliveredOrEndTheThread :
    let th : Thread := { thd [] with utvec := 0x4000 }
    let u : Thread := { th with armed := false }
    let m : Thread := { thd [] with mode := .machine }
    let s (x : Thread) : State := world [(0, x), (1, thd [])] [(0, { root0 with state := .opened }), (1, child1)]
    (s th).thread? 0 = some th ∧ th.mode = .user ∧ th.utvec ≠ 0 ∧ th.armed = true ∧
    (s u).thread? 0 = some u ∧ u.armed = false ∧ u.ending = false ∧ (thd []).utvec = 0 ∧
    ((s u).scope? u.sid0).map (·.state) = some .opened ∧ ((dev u).scope? u.sid0).map (·.state) = some .closing ∧
    (s u).thread? 1 = some (thd []) ∧ (s u).under u.sid0 256 (thd []).sid0 = true ∧ (thd []).wait = none ∧ ((s u).tile 0).tracker.length < 32 ∧
    (s m).thread? 0 = some m ∧ m.mode = .machine ∧ (s m).inService m.tile = true := by decide

/-- Copies that are too long, that overlap, of length 0, over a BUSY tag, with a full table, to a bad address, to a
multicast range past the window; to a buffer that is unconfigured, ready, being filled and without a free slot. -/
theorem meets_CopiesAreIssued :
    let th := thd [(5, 0x10080), (6, 0x1000), (7, 1000), (8, 0), (9, 0x40000001), (10, 0xCB00000000000003), (11, 0x60000), (12, 0x10400), (13, 0x1001)]
    let w := th.wx 7 .voidword
    let ready : Cb := ⟨4, 16, 0x400, 1, 0, 3, 1, 0⟩
    let x (c : Cb) : Tile := { Tile.idle with cbs := Tile.idle.cbs.set 3 c }
    let busy : Tile := { Tile.idle with tags := [(tagKey .compute 5, .busy)], locks := List.replicate 16 ⟨9, (0, 1), (2, 1)⟩ }
    let s := dev th
    Executing s 0 th ∧ Executing (dev w) 0 w ∧ (w.rx 7).void = true ∧ (∀ r ∈ ([5, 6, 7, 8, 9, 10, 11, 12, 13] : List XReg), (th.rx r).void = false) ∧
    2 ^ 30 < (th.rx 9).val.toNat ∧ ¬2 ^ 30 < (th.rx 7).val.toNat ∧ ¬(th.rx 11).val.toNat < 0x60000 ∧ ((th.rx 5).val.toNat < 0x60000 ∧ (th.rx 5).val.toNat + 1000 ≤ 0x60000) ∧
    ¬designates (th.rx 5).val ∧ designates (th.rx 10).val ∧ tfind busy.tags (tagKey .compute 5) = some .busy ∧ 16 ≤ busy.locks.length ∧
    tfind (s.tile 0).tags (tagKey .compute 5) ≠ some .busy ∧ (s.tile 0).locks.length < 16 ∧ (th.rx 8).val.toNat = 0 ∧
    s.engineRows th false 0x60000 0 1000 1 = .error (5, 0x60000) ∧
    s.engineRows th false 0x1000 0 1000 1 = .ok [⟨0x1000, 1000, none, tlLoc 0 0x1000, (0, 0)⟩] ∧
    s.engineRows th true 0x10080 0 1000 1 = .ok [⟨0x10080, 1000, none, tlLoc 0 0x10080, (0, 0)⟩] ∧
    (0x1001 < 0x1000 + covers 1 1000 0 ∧ 0x1000 < 0x1001 + covers 1 1000 0 ∧ 0 < covers 1 1000 0) ∧ 0x1000 + covers 1 1000 0 ≤ 0x10080 ∧
    ((x ready).cb 3).count ≠ 0 ∧ 1000 ≤ ready.slotu * 64 ∧ ready.free ≠ 0 ∧ (∀ c ∈ (x ready).copies, c.cb ≠ some 3) ∧ ((x ready).cb 2).count = 0 ∧
    (∃ c ∈ ({ x ready with copies := [{ copy1 with cb := some 3 }] } : Tile).copies, c.cb = some 3) :=
  ⟨exd _, exd _, by unfold designates; decide⟩

/-- A copied destination is the address itself, or the slot of a buffer that has one. -/
theorem meets_CopiesAreIssued_copyTo :
    let x : Tile := { Tile.idle with cbs := Tile.idle.cbs.set 3 ⟨4, 16, 0x400, 1, 0, 3, 1, 0⟩ }
    copyTo x ⟨5, 0x10080, 0, 8, 1, 8, 0, 0, false⟩ True 0x10080 none ∧ copyTo x ⟨5, 0xCB00000000000003, 0, 8, 1, 8, 0, 0, false⟩ False 0x800 (some 3) := by
  refine ⟨.inl ⟨trivial, rfl, rfl⟩, .inr ⟨not_false, 3, ?_⟩⟩
  decide

/-- Buffers unconfigured and with slots, words that are legal and not, amounts at their limits; tags that are SET and
that are not; handles FREE, HELD and OFFERED, ranges that are legal, that are not and that overlap, a range a copy
reads. -/
theorem meets_BuffersTagsAndOwnership :
    let th := thd [(5, 9), (6, 3), (7, 0x0000010000000200), (8, 255), (9, 256), (10, 0x0000000200200800), (11, 1), (12, 0xFFFFFFFFFFFFFFFF), (13, 10), (14, 11), (15, 15), (16, 16), (17, 0)]
    let w := th.wx 6 .voidword
    let x : Tile := { Tile.idle with cbs := Tile.idle.cbs.set 3 ⟨4, 1, 0x400, 1, 0, 3, 1, 0⟩, tags := [(tagKey .compute 1, .set 1 640)], locks := [⟨9, (0x10000100, 8), (2, 1)⟩] }
    let o : Cluster := { Cluster.idle with owns := [(9, ⟨.held, 0x100, 2, 0, 0⟩), (10, ⟨.offered, 0x400, 1, 1, 0⟩), (11, ⟨.offered, 0x600, 1, 0, 3⟩)] }
    let s := ((dev th).setTile 0 x).setCluster 0 o
    Executing s 0 th ∧ Executing (dev w) 0 w ∧ (w.rx 6).void = true ∧ (th.rx 6).void = false ∧ (th.rx 7).void = false ∧
    (({ x with copies := [{ copy1 with cb := some 3 }] } : Tile).busyCb 3 = true ∧ x.busyCb 3 = false) ∧
    (0x0000000200200800 < 2 ^ 41 ∧ 0x0000000200200800 / 2 ^ 19 % 4 = 0 ∧ 0x0000000200200800 % 64 = 0 ∧ 0x0000000200200800 / 2 ^ 32 % 2 ^ 9 ≤ 256 ∧
      (1 ≤ 0x0000000200200800 / 2 ^ 21 % 2 ^ 11 ∧ 0x0000000200200800 / 2 ^ 21 % 2 ^ 11 ≤ 1024)) ∧ (1 : Nat) % 64 ≠ 0 ∧
    (x.cb 0).count = 0 ∧ (x.cb 3).count ≠ 0 ∧ (x.cb 3).free < 4 ∧ 3 ≤ (x.cb 3).free ∧ (x.cb 3).fill < 2 ∧ 1 ≤ (x.cb 3).fill ∧
    (∀ k : Nat, k < 64 → (1 : Word).getLsbD k = true → tfind x.tags (tagKey .compute k) = none) ∧
    ((1 : Nat) < 64 ∧ (3 : Word).getLsbD 1 = true ∧ tfind x.tags (tagKey .compute 1) = some (.set 1 640) ∧
      (∀ j : Nat, j < 1 → (3 : Word).getLsbD j = true → tfind x.tags (tagKey .compute j) = none)) ∧ (tkeys x.tags).Nodup ∧
    255 < (th.rx 9).val.toNat ∧ (th.rx 8).val.toNat ≤ 255 ∧ tfind o.owns 8 = none ∧ (tfind o.owns 9).map (·.state) = some .held ∧
    (tfind o.owns 10).map (fun p => (p.state, p.recip)) = some (.offered, 0) ∧ (tfind o.owns 11).map (fun p => (p.state, p.recip)) = some (.offered, 3) ∧
    (0x0000010000000200 < 2 ^ 54 ∧ 0x0000010000000200 / 2 ^ 23 % 2 ^ 9 = 0 ∧ 0x0000010000000200 / 2 ^ 32 % 2 ^ 22 = 0x100 ∧ 0x0000010000000200 % 2 ^ 23 = 0x200) ∧
    (∃ p ∈ o.owns, p.2.state ≠ .free ∧ p.2.base < 0x100 + 0x200 ∧ 0x100 < p.2.base + 256 * p.2.len) ∧
    (∀ p ∈ o.owns, p.2.state = .free ∨ 0x800 + 0x100 ≤ p.2.base ∨ p.2.base + 256 * p.2.len ≤ 0x800) ∧
    15 < (th.rx 16).val.toNat ∧ ((th.rx 15).val.toNat ≤ 15 ∧ s.inService 15 = true) ∧ (th.rx 12).val = BitVec.allOnes 64 ∧
    x.locks.any (fun k => overlap k.src (0x10000000 + 0x100) 512 || overlap k.dst (0x10000000 + 0x100) 512) = true ∧
    Tile.idle.locks.any (fun k => overlap k.src (0x10000000 + 0x100) 512 || overlap k.dst (0x10000000 + 0x100) 512) = false :=
  ⟨⟨rfl, rfl⟩, exd _, by decide⟩

/-- References that name no descriptor, a live one from memory and from the cache, a dead one, a poisoned one; offsets
misaligned, at the object's end and past it; a frozen object. -/
theorem meets_ReferencesResolveLoadAndStore :
    let th := thd [(6, 8), (7, 4), (8, 64), (9, 56)]
    let u := th.wx 6 .voidword
    let s := heaped th ref2
    let t := th.wq 1 ref2
    let c := s.setCluster 0 { Cluster.idle with cache := [((1, 2), ⟨1, 0x100000000, 0, 5, 64, 0⟩)] }
    let p : State := { s with poison := [0x801] }
    Executing s 0 t ∧ Executing (dev u) 0 u ∧ s.memOk ∧ p.memOk ∧ (u.rx 6).void = true ∧ (t.rx 6).void = false ∧
    namesDesc s 0 = none ∧ namesDesc s ref2 = some (⟨0x20000, 4, 0x200000000⟩, 2) ∧ namesDesc s (ref2 + 2) = none ∧
    (s.cluster 0).cache.find? (fun e => e.1 == (1, 2)) = none ∧ (c.cluster 0).cache.find? (fun e => e.1 == (1, 2)) = some ((1, 2), ⟨1, 0x100000000, 0, 5, 64, 0⟩) ∧
    s.poisonIn (0x20000 + 32 * 2) 32 = none ∧ p.poisonIn (0x20000 + 32 * 2) 32 ≠ none ∧ (descIn s 0x20020).state = 0 ∧ (descIn s 0x20040).state ≠ 0 ∧
    (s.resolve 0 ref2).1 = .live ⟨0x20000, 4, 0x200000000⟩ 2 ⟨1, 0x100000000, 0, 5, 64, 0⟩ ∧ (s.resolve 0 (ref2 + 0x10000000)).1 = .dead ∧
    (p.resolve 0 ref2).1 = .poisoned 0x200000040 ∧ (t.rx 7).val.toNat % 8 ≠ 0 ∧ (t.rx 8).val.toNat % 8 = 0 ∧ 64 < (t.rx 8).val.toNat + 8 ∧ (t.rx 9).val.toNat + 8 ≤ 64 ∧
    (s.resolve 0 ref2).2.access t (BitVec.ofNat 64 (0x100000000 + 56)) 8 .load .ref = .ok (.loc 0x10038) ∧
    (s.resolve 0 ref2).2.access t (BitVec.ofNat 64 (0x100000000 + 56)) 8 .store .ref (some 9) = .ok (.loc 0x10038) ∧
    (dev t).access t (BitVec.ofNat 64 (0x100000000 + 56)) 8 .load .ref = .error (.trap 13 0x100000038) ∧
    ref2.getLsbD 62 = false ∧ (ref2 + 0x4000000000000000).getLsbD 62 = true ∧ (descIn (heaped th ref2 3) 0x20040).state = 3 ∧
    (s.resolve 0 ref2).2.flipOpen 0 1 2 = false ∧ (descIn (heaped th ref2 2) 0x20040).state = 2 :=
  ⟨⟨rfl, rfl⟩, exd _, by unfold State.memOk; decide⟩

/-- Control words that are legal and not; a table with a free index and one without; windows at their limit; an object
that is pinned, frozen, free of pins; a window a copy touches; new addresses that are 1, 0, misaligned, over the object
and clear of it. -/
theorem meets_ObjectsPinsAndRelocations :
    let w : Window := ⟨ref2, 0x100000000, 64, false, 5⟩
    let th : Thread := { thd [(6, 0x100000400), (7, 0x0010000000000100), (8, 15), (9, 16), (10, 1), (11, 0), (12, 0x100000401), (13, 0x100000000)] with windows := [w] }
    let full : Thread := { th with windows := List.replicate 8 w }
    let s := heaped th ref2
    let t := th.wq 1 ref2
    let g : State := { s with heaps := [(1, ⟨0x20000, 1, 0x200000000⟩)] }
    let c : Copy := { copy1 with src := 0x100000000, rows := 1, rowBytes := 8 }
    let b := s.setTile 0 { s.tile 0 with copies := [c] }
    Executing s 0 t ∧ Executing (heaped full ref2) 0 (full.wq 1 ref2) ∧ Executing b 0 t ∧ s.memOk ∧ (heaped th ref2 3).memOk ∧
    ((t.wx 6 .voidword).rx 6).void = true ∧ (t.rx 6).void = false ∧ (t.rx 7).void = false ∧ 16 ≤ (t.rx 9).val.toNat ∧ (t.rx 8).val.toNat < 16 ∧
    (let k := (t.rx 7).val.toNat
     0 < k % 2 ^ 27 ∧ k % 2 ^ 27 ≤ 2 ^ 26 ∧ (t.rx 6).val.toNat % 64 = 0 ∧ k / 2 ^ 60 = 0 ∧ k / 2 ^ 27 % 2 ^ 25 = 0 ∧ k / 2 ^ 52 % 2 ^ 8 = 1) ∧ (t.rx 12).val.toNat % 64 ≠ 0 ∧
    tfind s.heaps 2 = none ∧ tfind s.heaps 1 = some ⟨0x20000, 4, 0x200000000⟩ ∧ s.heapRange t 0x100000400 0x100 0x100000400 = none ∧
    lockByte (s.tile 0).locks 0x100000400 0x100 = none ∧ s.freeIndex ⟨0x20000, 4, 0x200000000⟩ = some 1 ∧ g.freeIndex ⟨0x20000, 1, 0x200000000⟩ = none ∧
    (s.resolve 0 ref2).1 = .live ⟨0x20000, 4, 0x200000000⟩ 2 ⟨1, 0x100000000, 0, 5, 64, 0⟩ ∧ (s.resolve 0 0).1 = .dead ∧
    t.windows.length < 8 ∧ 8 ≤ (full.wq 1 ref2).windows.length ∧ (descIn s 0x20040).state < 2 ∧ 2 ≤ (descIn (heaped th ref2 3) 0x20040).state ∧
    (s.resolve 0 ref2).2.flipOpen 0 1 2 = false ∧ (descIn s 0x20040).pins < 65535 ∧
    (t.windows = [] ++ w :: [] ∧ sameObj w.ref ref2 = true) ∧ (∀ v ∈ t.windows, sameObj v.ref 0x0010000050000003 = false) ∧
    (∃ k ∈ (b.tile 0).copies, k.tid = t.tid 0 ∧ k.touches w = true) ∧ (∀ k ∈ (s.tile 0).copies, k.tid ≠ t.tid 0 ∨ k.touches w = false) ∧
    namesDesc s w.ref = some (⟨0x20000, 4, 0x200000000⟩, 2) ∧ 0 < (descIn (heaped th ref2 1 1) 0x20040).pins ∧
    s.resolveHome 0 = none ∧ s.resolveHome ref2 = some (⟨0x20000, 4, 0x200000000⟩, 2, ⟨1, 0x100000000, 0, 5, 64, 0⟩) ∧ s.flipOpen 0 1 2 = false ∧
    ((heaped th ref2 2).resolveHome ref2).map (fun p => (p.2.2.pins, p.2.2.state)) = some (0, 2) ∧
    (0x100000000 < 0x100000000 + 64 ∧ 0x100000000 + 64 ≤ 0x100000400) ∧ 64 ≤ (t.rx 6).val.toNat ∧ (s.heapRange t 0x60000 64 0x60000).isSome = true ∧
    s.heapRange t 0x100000400 64 0x100000400 = none ∧ (s.die 0).weevil.length < 64 ∧ ref2.getLsbD 61 = false ∧ (ref2 + 0x2000000000000000).getLsbD 61 = true :=
  ⟨⟨rfl, rfl⟩, ⟨rfl, rfl⟩, ⟨rfl, rfl⟩, by unfold State.memOk; decide⟩

/-- A compute core and a stage core; void lanes among the sources; a mask with active and inactive lanes. -/
theorem meets_MaskedLanesAndCompares :
    let th : Thread := { vth [1, 2] [4, 5] 5 with vpred := 1 }
    let u := th.wv 2 ((vr [1]).set 0 .voidword)
    let g : Thread := { th with cls := .stage }
    Executing (dev th) 0 th ∧ Executing (dev u) 0 u ∧ Executing (dev g) 0 g ∧ th.cls = .compute ∧ g.cls = .stage ∧ (lane (u.rv 2) 0).void = true ∧
    (th.rm th.vpred).getLsbD 2 = true ∧ (th.rm th.vpred).getLsbD 1 = false ∧ (7 : MReg) ≠ 0 ∧ (laneForms th .f32 1 2 3 3 1).length = 22 ∧ (maskForms 2 2 3).length = 5 :=
  ⟨exd _, exd _, exd _, by decide⟩

theorem meets_MaskRegisterOperations :
    let th := ((thd []).wm 1 12).wm 2 10
    Executing (dev th) 0 th ∧ th.cls = .compute := ⟨exd _, rfl⟩

/-- Lanes 0 and 2 active: addresses that serve, one that traps after one that serves, a void index, a void scalar, a
stride that is misaligned. -/
theorem meets_VectorLoadsAndStores :
    let th : Thread := { (vth [7, 8] [1, 0] 5 0x100).wx 7 (.of 8) with vpred := 1 }
    let b : Thread := { (vth [7, 8] [1, 0] 5 0x5FFFC).wx 7 (.of 6) with vpred := 1 }
    let u := (th.wx 6 .voidword).wv 3 ((vr []).set 2 .voidword)
    Executing (dev th) 0 th ∧ Executing (dev b) 0 b ∧ Executing (dev u) 0 u ∧ th.cls = .compute ∧ (dev th).memOk ∧ (u.rx 6).void = true ∧ (th.rx 6).void = false ∧
    (th.rx 7).void = false ∧ (th.rx 7).val.toNat % 4 = 0 ∧ (b.rx 7).val.toNat % 4 ≠ 0 ∧
    (∀ p ∈ laneLoads th 1 6 7 3 4, p.2.2 = true ∧ (reached th p.2.1).length = 2 ∧
      ∀ l ∈ reached th p.2.1, (dev th).access th l.2 4 .load .base = .ok (.loc (tlLoc 0 l.2.toNat))) ∧
    (∀ p ∈ laneStores th 2 6 7 3 4, (reached th (fun i => if (lane p.2.1 i).void then none else p.2.2 i)).length = 2 ∧
      ∀ l ∈ reached th (fun i => if (lane p.2.1 i).void then none else p.2.2 i),
        (dev th).access th l.2 4 .store .base (some ((lane p.2.1 l.1).val.setWidth 64)) = .ok (.loc (tlLoc 0 l.2.toNat))) ∧
    (reached b (laneAddrs b 6 7 3 0).1 = [(0, 0x5FFFC)] ++ (2, 0x60004) :: [] ∧ (dev b).access b 0x5FFFC 4 .load .base = .ok (.loc (tlLoc 0 0x5FFFC)) ∧
      (dev b).access b 0x60004 4 .load .base = .error (.trap 5 0x60004) ∧
      (dev b).access b 0x60004 4 .store .base (some 0) = .error (.trap 7 0x60004)) ∧
    ((laneAddrs u 6 7 3 0).2.1 2).isNone = true := ⟨exd _, exd _, exd _, rfl, rfl, by decide⟩

/-- Void and good scalars and lanes; lane numbers 63 and 64; list lengths 1, 32, 0 and 33; headers that can be read,
that are legal and that are not; registers that are and are not multiples of 4. -/
theorem meets_WholeVectorInstructions :
    let th : Thread := { vth [1, 2] [] 3 63 with vpred := 1 }
    let k := (((((th.wx 8 (.of 64)).wx 9 (.of 0x0000001000000020)).wx 10 (.of 0x21)).wx 11 (.of 0x400)).wx 12 (.of 0x401)).wx 13 (.of 0)
    let u := ((k.wx 6 .voidword).wf 6 .voidword).wv 2 ((vr []).set 0 .voidword)
    let s := ((dev k).putNum (tlLoc 0 0x400) 8 0x0000000101000000).putNum (tlLoc 0 0x418) 8 9
    let act (x : Thread) := (List.range 64).filter (fun i => (x.rm x.vpred).getLsbD i)
    Executing s 0 k ∧ Executing (dev u) 0 u ∧ k.cls = .compute ∧ (u.rx 6).void = true ∧ (u.rf 6).void = true ∧ (k.rx 6).void = false ∧ (k.rf 6).void = false ∧
    (k.rx 6).val.toNat ≤ 63 ∧ 63 < (k.rx 8).val.toNat ∧ (∃ i ∈ act u, (lane (u.rv 2) i).void = true) ∧ (∀ i ∈ act k, (lane (k.rv 2) i).void = false) ∧
    (cvtInfo .f32mx4).isSome = true ∧ (∀ l ∈ (List.range 64).map (lane (k.rv 2)), l.void = false) ∧ (∃ l ∈ (List.range 64).map (lane (u.rv 2)), l.void = true) ∧
    ((k.rx 9).val.toNat / 2 ^ 6 % 2 ^ 26 = 0 ∧ 1 ≤ (k.rx 9).val.toNat % 2 ^ 6 ∧ (k.rx 9).val.toNat % 2 ^ 6 ≤ 32) ∧ 32 < (k.rx 10).val.toNat % 2 ^ 6 ∧
    (k.rx 13).val.toNat % 2 ^ 6 = 0 ∧ (k.rx 12).val.toNat % 64 ≠ 0 ∧ (k.rx 11).val.toNat % 64 = 0 ∧
    s.readVals k .base [(0x400, 8), (0x418, 8)] = .ok [0x0000000101000000, 9] ∧ 0x0000000101000000 / 2 ^ 32 % 4 ≠ 0 ∧ headerLegal 0x0000000101000000 = true ∧
    headerLegal 0xFFFFFFFFFFFFFFFF = false ∧ (4 : VReg).toNat % 4 = 0 ∧ (6 : VReg).toNat % 4 ≠ 0 := ⟨⟨rfl, rfl⟩, exd _, by decide⟩

/-- Tile 0 with a queue of array commands, and buffers 3 and 4. -/
def arrayTile (w r : List ArrayOp) (d : Cb := ⟨4, 544, 0, 0, 0, 4, 0, 0⟩) (e : Cb := ⟨4, 544, 0x22000, 0, 0, 4, 0, 0⟩) (started : Bool := false) : Tile :=
  let c (o : ArrayOp) : ArrayCmd := ⟨1, 0, 1, 1, o, started, 0, false⟩
  { Tile.idle with weightQ := w.map c, rowQ := r.map c, cbs := (Tile.idle.cbs.set 3 d).set 4 e }

/-- Each class of core; buffers unconfigured, too small, good; words at and past their limits; planes EMPTY, of the
format and of another; queues with room and full; rows 127 and 128, poisoned and not; commands of this thread and of
none. -/
theorem meets_ArrayCommandsAndAccumulatorReads :
    let th := thd [(6, 10), (7, 11), (8, 128), (9, 129), (10, 127), (11, 0x05000001), (12, 0x06000001)]
    let u := (th.wx 6 .voidword).wf 1 .voidword
    let g : Thread := { th with cls := .stage }
    let x := arrayTile [] []
    let f := arrayTile [.ldw 3 6, .ldw 3 6] [.strm .bb 1 3 0 1 0, .zero 2]
    let v : Tile := { x with active := ⟨.valid, 0, []⟩, unclaimed := 1, accPoison := [2040] }
    let s := (dev th).setTile 0 x
    Executing s 0 th ∧ Executing (dev u) 0 u ∧ Executing (dev g) 0 g ∧ g.cls = .stage ∧ th.cls = .compute ∧ (u.rx 6).void = true ∧ (u.rf 1).void = true ∧
    (th.rx 6).void = false ∧ (th.rf 1).void = false ∧ x.unclaimed = 0 ∧ v.unclaimed ≠ 0 ∧ 10 < (th.rx 7).val.toNat ∧ ¬10 < (th.rx 6).val.toNat ∧
    (x.cb 5).count = 0 ∧ (x.cb 3).count ≠ 0 ∧ bytesOfPlane 10 ≤ (x.cb 3).count * (x.cb 3).slot ∧ x.weightQ.length < 2 ∧ x.rowQ.length < 2 ∧ ¬f.weightQ.length < 2 ∧ ¬f.rowQ.length < 2 ∧
    x.locks.length + 2 ≤ 16 ∧ 128 < (th.rx 9).val.toNat % 512 ∧ (th.rx 8).val.toNat % 512 ≤ 128 ∧
    ((x.cb 3).slot ≠ 0 ∧ (x.cb 3).slot % 256 = 0) ∧ (x.cb 4).slot % 16 = 0 ∧ (x.cb 3).slot % 192 ≠ 0 ∧ ((pairRows .bb).2.1 = 0 ∧ (pairRows .mx4).2.1 ≠ 0) ∧ (3 : CbReg) ≠ 15 ∧
    x.meets.1 = .empty ∧ v.meets.1 ≠ .empty ∧ v.meets.1 ≠ .invalid ∧ v.meets.2 = (pairRows .bb).2.2 ∧ v.meets.2 ≠ (pairRows .mx4).2.2 ∧
    (th.rx 11).val.toNat / 2 ^ 24 % 16 ≤ 5 ∧ 5 < (th.rx 12).val.toNat / 2 ^ 24 % 16 ∧ (x.cb 3).slot % (128 * outBytes 5) = 0 ∧
    127 < (th.rx 8).val.toNat ∧ (th.rx 10).val.toNat ≤ 127 ∧ v.rowPoisoned 1 127 = true ∧ x.rowPoisoned 1 127 = false ∧
    (∀ c ∈ x.weightQ ++ x.rowQ, c.tid ≠ th.tid 0) ∧ (∃ c ∈ f.weightQ ++ f.rowQ, c.tid = th.tid 0) := ⟨⟨rfl, rfl⟩, exd _, exd _, by decide⟩

/-- MXRD's row is a command's, or no command's. -/
theorem meets_ArrayCommandsAndAccumulatorReads_busy :
    (∃ c ∈ (arrayTile [] [.zero 2]).rowQ, touchesAcc c 2) ∧ (∃ c ∈ (arrayTile [] [.strm .bb 1 3 0 1 0]).rowQ, touchesAcc c 1) ∧
    (∀ c ∈ (arrayTile [] []).rowQ, ¬touchesAcc c 1) :=
  ⟨⟨⟨1, 0, 1, 1, .zero 2, false, 0, false⟩, List.mem_singleton.2 rfl, .inr (.inl rfl)⟩,
   ⟨⟨1, 0, 1, 1, .strm .bb 1 3 0 1 0, false, 0, false⟩, List.mem_singleton.2 rfl, .inl ⟨_, _, _, _, _, rfl⟩⟩, fun _ h => nomatch h⟩

/-- A load at the head, waiting and started, its slot filled and not, the first slot and the last; a swap, with rows
inside and none; a zero; a stream that waits with a good plane and without, started with its slots filled; a row
inside that is its command's last, and one that is not. -/
theorem meets_PlanesAndStreamedRows :
    let full : Cb := ⟨4, 544, 0, 0, 0, 0, 4, 0⟩
    let c (o : ArrayOp) (b : Bool := false) (pos : Nat := 0) : ArrayCmd := ⟨1, 0, 1, 1, o, b, pos, false⟩
    let ld := arrayTile [.ldw 3 6] [] full
    let sw := arrayTile [] [.swap]
    let strm : ArrayOp := .strm .bb 1 3 127 1 0x3F800000
    let st := arrayTile [] [strm] full
    let r : RowIn := ⟨1, .bb, 1, 127, List.replicate 256 0, [], 0x3F800000⟩
    let s (x : Tile) : State := { State.reset with tiles := [(0, x)], input := .num 0 }
    (∀ x, (s x).input = .num 0) ∧ (∀ x, (s x).tile 0 = x) ∧
    ld.weightQ.head? = some (c (.ldw 3 6)) ∧ ld.streamBefore (c (.ldw 3 6)) 3 = false ∧ ld.shadow.state = .empty ∧
    ({ ld with shadow := ⟨.valid, 6, []⟩ } : Tile).shadow.state = .valid ∧ (ld.cb 3).count ≠ 0 ∧ (ld.cb 3).fill ≠ 0 ∧ ((arrayTile [] []).cb 3).fill = 0 ∧
    (s ld).poisonIn (tlLoc 0 0) 34816 = none ∧ planeBytes 6 ≤ 34816 ∧ ({ full with slotu := 1 } : Cb).slot = 64 ∧ ((s ld).bytesAt (tlLoc 0 0) 64).length < planeBytes 6 ∧
    sw.rowQ.head? = some (c .swap) ∧ sw.rowsIn = [] ∧ ({ sw with rowsIn := [r] } : Tile).rowsIn ≠ [] ∧ (arrayTile [] [.zero 3]).rowQ.head? = some (c (.zero 3)) ∧
    st.rowQ.head? = some (c strm) ∧ st.loadBefore (c strm) .bb 3 = false ∧ st.active.state = .empty ∧
    ({ st with active := ⟨.valid, 0, []⟩ } : Tile).active = ⟨.valid, (pairRows .bb).2.2, []⟩ ∧ (pairRows .bb).2.1 = 0 ∧
    (arrayTile [] [strm] full (started := true)).rowQ.head? = some (c strm true) ∧ (s st).poisonIn (rowLoc 0 full 256) 256 = none ∧
    st.rowPoisoned 1 127 = false ∧ (c strm true 1).pos = 1 ∧ (∀ q ∈ ([] : List RowIn), q.cmd ≠ 1) ∧ (∃ q ∈ [r], q.cmd = 1) ∧
    (st.accRow 1 127).length = 128 ∧ ({ st with rowQ := [c strm true 1] } : Tile).rowQ.find? (fun k => k.id == r.cmd) = some (c strm true 1) := by
  refine ⟨fun _ => rfl, fun _ => rfl, ?_⟩
  decide

/-- A writeback at the head: of no row, without a free slot, of a last row and of another; cancelled commands of each
kind; rows of a stream inside and none; poison under a load and under a stream. -/
theorem meets_ArrayCommandsWriteStopAndFail :
    let c (o : ArrayOp) (b : Bool := false) (gone : Bool := false) : ArrayCmd := ⟨1, 0, 1, 1, o, b, 0, gone⟩
    let wb : ArrayOp := .wb 3 1 5 127 1 true
    let x := arrayTile [] [wb]
    let q (l : List ArrayCmd) : Tile := { Tile.idle with rowQ := l }
    let r : RowIn := ⟨1, .bb, 1, 127, [], [], 0⟩
    let full : Cb := ⟨4, 544, 0, 0, 0, 0, 4, 0⟩
    let p : State := { State.reset with poison := [tlLoc 0 0 / 64] }
    x.rowQ.head? = some (c wb) ∧ x.cmdBefore 1 = false ∧ (x.cb 3).count ≠ 0 ∧ (x.cb 3).free ≠ 0 ∧ ((arrayTile [] [wb] full).cb 3).free = 0 ∧ 127 + 0 < 128 ∧
    x.rowPoisoned 1 127 = false ∧ (x.cb 3).slot / (128 * outBytes 5) = 272 ∧
    (∀ o ∈ ([.swap, .zero 1, .strm .bb 1 3 0 1 0, wb] : List ArrayOp), (q [c o false true]).rowQ.head? = some (c o false true)) ∧
    (∀ k ∈ (q []).weightQ, k.id ≠ 1) ∧ ({ Tile.idle with weightQ := [c (.ldw 3 6) true true] } : Tile).weightQ.head? = some (c (.ldw 3 6) true true) ∧
    (∃ k ∈ ({ q [] with rowsIn := [r] } : Tile).rowsIn, k.cmd = 1) ∧ (∀ k ∈ (q []).rowsIn, k.cmd ≠ 1) ∧
    (arrayTile [.ldw 3 6] [] full (started := true)).weightQ.head? = some (c (.ldw 3 6) true) ∧
    p.poisonIn (tlLoc 0 0) (min full.slot (planeBytes 6)) ≠ none ∧ (arrayTile [] [.strm .bb 1 3 0 1 0] full (started := true)).rowQ.head? = some (c (.strm .bb 1 3 0 1 0) true) ∧
    p.poisonIn (rowLoc 0 full 256) 256 ≠ none ∧ State.reset.poisonIn (rowLoc 0 full 256) 256 = none ∧
    ({ x with accPoison := [1024] } : Tile).rowPoisoned 1 0 = true := by decide

/-- A stream with a recurrent state of 64 bytes at 0x81_4067_1200, which the tables of R58's case map. -/
def areaStream : Stream := { bargeStream with rsaddr := 0x8140671200, rsize := 64 }
/-- The device of a thread bound to a stream, with those tables and a frame header at tile-local 0x200. -/
def bound (th : Thread) (st : Stream := bargeStream) (h : Nat := 0xFF02) : State :=
  let s : State := { dev { th with stream := 0x10001 } with streams := [(1, st)], aspaces := [(0, ⟨0x100000, none, []⟩)], pfx := [(0, ⟨7, 64, 1, List.replicate 16 1, 0x900000, 1, 9, false⟩)] }
  (((s.putNum (tlLoc 0 0x200) 8 h).putNum 0x100008 8 0x110001).putNum 0x110028 8 0x120001).putNum 0x120018 8 (0x1234400000 + 0xF)

/-- Streams that are live and not, damaged, with 64 tokens unplayed, with a full pool and none, at the last position;
stamps of now and of before; positions at and past G. -/
theorem meets_StreamsFramesAndSnapshots :
    let th : Thread := { thd [(6, 0x10001), (7, 9), (8, 0), (9, 0x20000), (10, 0x100000000), (11, 12), (12, 13), (13, 7)] with stream := 0x10001 }
    let u := th.wx 6 .voidword
    let s := bound th
    let e : Stream := { bargeStream with g := 64, pages := bargeStream.pages, pool := [] }
    Executing s 0 th ∧ Executing (dev u) 0 u ∧ (u.rx 6).void = true ∧ (th.rx 6).void = false ∧ (th.rx 7).void = false ∧ (th.rx 8).val = 0 ∧ (6 : XReg) ≠ 0 ∧
    ((th.rx 6).val.toNat < 2 ^ 32 ∧ s.stream? (th.rx 6).val.toNat = some bargeStream) ∧ (2 ^ 32 ≤ (th.rx 10).val.toNat ∧ (th.rx 10).val ≠ 0) ∧
    (dev th).stream? th.stream.toNat = none ∧ BoundTo s th 0x10001 bargeStream ∧ 2 ^ 17 ≤ (th.rx 9).val.toNat ∧ (th.rx 11).val.toNat < 2 ^ 17 ∧
    (th.rx 7).val.toNat = bargeStream.i ∧ (th.rx 8).val.toNat ≠ bargeStream.i ∧ bargeStream.damaged = false ∧ ({ bargeStream with damaged := true } : Stream).damaged = true ∧
    bargeStream.g - bargeStream.p < 64 ∧ 64 ≤ ({ bargeStream with g := 104 } : Stream).g - bargeStream.p ∧ bargeStream.g ≠ 2 ^ 20 ∧ ({ bargeStream with g := 2 ^ 20 } : Stream).g = 2 ^ 20 ∧
    (e.g % 16 = 0 ∧ e.pool = []) ∧ ListOk bargeStream ∧ (bargeStream.g % 16 ≠ 0 ∨ bargeStream.pool ≠ []) ∧
    bargeStream.p + (th.rx 11).val.toNat % 65536 ≤ bargeStream.g ∧ bargeStream.g < bargeStream.p + (th.rx 12).val.toNat % 65536 ∧
    (th.rx 13).val.toNat ≤ 7 ∧ 7 < (th.rx 7).val.toNat :=
  ⟨⟨rfl, rfl⟩, ⟨rfl, rfl⟩, by unfold BoundTo ListOk; decide⟩

/-- Frames misaligned, not readable, illegal, late, barging and not, with a prefix that is pinned and one that is not,
that fit and that do not; areas that serve and that do not; positions kept and not. -/
theorem meets_StreamsFramesAndSnapshots_frames :
    let th : Thread := { thd [(6, 0x200), (7, 0x204), (8, 0x60000), (9, 52), (10, 53)] with stream := 0x10001 }
    let s := bound th
    let a := bound th areaStream
    let b : State := { a with aspaces := [] }
    let late : Stream := { bargeStream with ptime := 99, spos := [] }
    Executing s 0 th ∧ Executing a 0 th ∧ Executing b 0 th ∧ BoundTo s th 0x10001 bargeStream ∧ BoundTo a th 0x10001 areaStream ∧ BoundTo b th 0x10001 areaStream ∧
    BoundTo (bound th late) th 0x10001 late ∧ a.memOk ∧
    (th.rx 6).void = false ∧ (th.rx 7).val.toNat % 8 ≠ 0 ∧ (th.rx 6).val.toNat % 8 = 0 ∧ s.readVal th 0x60000 8 .base = .error (.trap 5 0x60000) ∧
    s.readVal th 0x200 8 .base = .ok 0xFF02 ∧ (0xFF02 < 2 ^ 64 ∧ 0xFF02 / 2 ^ 8 % 2 ^ 7 = 127 ∧ 0xFF02 / 2 ^ 15 % 2 = 1) ∧
    ((bound th bargeStream 0x4002).readVal th 0x200 8 .base = .ok 0x4002 ∧ 64 ≤ 0x4002 / 2 ^ 8 % 2 ^ 7) ∧
    s.readVals th .base [(0x208, 4), (0x20C, 4)] = .ok [0, 0] ∧
    (s.touched th false [0x200, 0x208, 0x20C]).areaFails bargeStream true = none ∧ (b.touched th false [0x200]).areaFails areaStream true = some 0x8140671200 ∧
    0 + late.tol < late.ptime ∧ tfind late.spos (late.p % 64) ≠ some late.p ∧ tfind bargeStream.spos (bargeStream.p % 64) = some bargeStream.p ∧
    (∃ e, tfind s.pfx 0 = some e ∧ e.pins ≠ 0) ∧ tfind s.pfx 1 = none ∧ (48 % 16 = 0 ∧ bargeStream.g % 16 ≠ 0) ∧
    ((40 + 16 * 0 + 2 + 15) / 16 - (40 + 15) / 16 - 0 ≤ bargeStream.pool.length ∧ 40 + 2 ≤ 2 ^ 20) ∧
    (([] : List Nat).length + 0 < (32 + 17 + 15) / 16 - (32 + 15) / 16 ∧ 2 ^ 20 < 2 ^ 20 - 1 + 2) ∧ ListOk bargeStream ∧ bargeStream.p ≤ 2 ^ 20 ∧
    (th.rx 9).val.toNat ≤ bargeStream.g ∧ bargeStream.g < (th.rx 10).val.toNat ∧ a.areaFails areaStream false = none ∧ b.areaFails areaStream false = some 0x8140671200 ∧
    (a.areaSegs 0 0x10001 areaStream = [⟨areaStream.rsaddr, areaStream.rsize, none, 0x1234471200, (0x8140600000, 0x200000)⟩] ∧ areaStream.rsize ≤ 65536 ∧
      areaStream.slots + 52 % 64 * areaStream.rsize + areaStream.rsize ≤ 0x1234471200) :=
  ⟨⟨rfl, rfl⟩, ⟨rfl, rfl⟩, ⟨rfl, rfl⟩, by
    unfold BoundTo ListOk State.memOk
    refine ⟨?_, ?_, ?_, ?_, ?_, ?_, ?_, ?_, ?_, ?_, ?_, ?_, ?_, ?_, ?_, ?_, ?_, ?_, ⟨_, rfl, ?_⟩, ?_⟩ <;> decide⟩

/-- The tokens of the worked prompt. -/
def sixBlocks : List Nat := (List.range 6).flatMap (fun j => [2 * j + 1, 2 * j + 2] ++ List.replicate 14 0)

/-- Addresses aligned and not, tokens at their limit, control words legal and not; a chain of four matches that the
fifth block ends; entries pinned to their limit, unpinned, absent; parents there and not; a block found, one to insert
with an entry free, with one to evict, and with none. -/
theorem meets_PrefixesDrawsAndTrees :
    let th : Thread := { thd [(6, 0x400), (7, 0x106), (8, 0x402), (9, 0x80), (10, 64), (11, 1), (12, 3), (13, 65)] with utvec := 0x4000, stream := 0x10001 }
    let u := th.wx 6 .voidword
    let s : State := { prompt th with streams := [(1, bargeStream)] }
    let block (j : Nat) : List Nat := (sixBlocks.drop (16 * j)).take 16
    let hash (j : Nat) : Word := (List.range (j + 1)).foldl (fun h k => nextHash h (block k)) 0
    let es : List Nat := [0, 1, 2, 3]
    let p : State := { s with pfx := s.pfx.map (fun x => (x.1, { x.2 with pins := 65535 })) }
    let full (pins : Nat) : State := { s with pfx := (List.range 64).map (fun e => (e, ⟨9, 64, 1, [], 0, pins, 9 + e, false⟩)) }
    Executing s 0 th ∧ Executing (dev u) 0 u ∧ (u.rx 6).void = true ∧ (th.rx 6).void = false ∧ (th.rx 7).void = false ∧
    (th.rx 8).val.toNat % 4 ≠ 0 ∧ (th.rx 6).val.toNat % 4 = 0 ∧
    s.readVals th .base (((List.range 96).map (fun i => (0x400 : Word) + BitVec.ofNat 64 (4 * i))).map (fun x => (x, 4))) = .ok sixBlocks ∧ (∀ k ∈ sixBlocks, k < 2 ^ 17) ∧
    ((th.rx 7).val.toNat / 2 ^ 9 = 0 ∧ (th.rx 7).val.getLsbD 7 = false ∧ (th.rx 7).val.toNat % 128 = 6 ∧ (th.rx 7).val.getLsbD 8 = true) ∧ (th.rx 9).val.getLsbD 7 = true ∧
    (es.length ≤ 6 ∧ (∀ j, j < 4 → s.matchEntry (hash j) (if j = 0 then 64 else es.getD (j - 1) 0) (block j) = some (es.getD j 0)) ∧
      s.matchEntry (hash 4) 3 (block 4) = none ∧ s.matchEntry 0 64 [] = none) ∧
    (∀ f ∈ es, s.pinsOf f ≠ 65535) ∧ (∃ f ∈ es, p.pinsOf f = 65535) ∧ BoundTo s th 0x10001 bargeStream ∧
    ((th.rx 10).val.toNat = 64 ∧ 64 < (th.rx 13).val.toNat ∧ ((tfind s.pfx 3).map (·.depth) = some 4)) ∧ 16 * 1 + 16 ≤ bargeStream.g ∧ bargeStream.g < 16 * 3 + 16 ∧
    (bargeStream.pages[1]?.map (·.shared) = some false ∧ (bargeStream.pages[1]?.map (·.tokens.length)) = some 16) ∧
    s.matchEntry (nextHash 0 (List.replicate 16 0)) 64 (List.replicate 16 0) = none ∧
    (({ s with pfx := [(5, ⟨0, 64, 1, List.replicate 16 0, 0, 0, 9, false⟩)] } : State).matchEntry (nextHash 0 (List.replicate 16 0)) 64 (List.replicate 16 0) = some 5) ∧
    (tfind s.pfx 5 = none ∧ ∀ f, f < 5 → (tfind s.pfx f).isSome = true) ∧ (∀ e, e < 64 → (tfind (full 0).pfx e).isSome = true) ∧ (full 0).evictable = some 0 ∧ (full 1).evictable = none ∧
    ((th.rx 12).val.toNat ≤ 63 ∧ (tfind s.pfx 3).isSome = true) ∧ (tfind s.pfx 63).isSome = false ∧ (∃ f ∈ s.chain 3, s.pinsOf f = 0) ∧ (∃ f ∈ p.chain 3, p.pinsOf f = 65535) :=
  ⟨⟨rfl, rfl⟩, ⟨rfl, rfl⟩, by unfold BoundTo; decide +kernel⟩

/-- Draw words at 2^32 and below; lists that are misaligned, illegal, good, not readable, whose page cannot be
written; the records of the small tree in memory and at its end; a draft tree whose path is two nodes, a void node. -/
theorem meets_PrefixesDrawsAndTrees_trees :
    let th := thd [(6, 0x400), (7, 0x100000001), (8, 0x410), (9, 0x100000021), (10, 0x100000000), (11, 0xFFFFFFFF), (12, 0x0202), (13, 0x5FFF8), (14, 0x020002), (15, 0x100000000)]
    let u := th.wx 6 .voidword
    let s := ((dev th).putNum (tlLoc 0 0x400) 8 0x400000003F800000).putNum (tlLoc 0 0x480) 256 (2 ^ 1024 - 1 - 2 ^ 64 + 1 + 0x0000000900000008)
    let ro := paged th 0x0000000000010037
    let word (e : Nat) : Word := if e = 0 then 0x40000000 else if e < 32 then 0xFF800000 else if e = 32 then 9 else 0xFFFFFFFF
    let recs : List Word := [0x0000000000060000, 0x0000000100030001, 0x0001000200020002, 0x0001010200030003, 0x0000010100060004, 0x0004000200050005, 0x0004010200060006]
    let n (p k : Nat) : W32 := BitVec.ofNat 32 (2 ^ 31 + p * 2 ^ 18 + k)
    let nodes (j : Nat) : W32 := ([n 0 0, n 0 11, n 1 21, n 1 22, n 0 12, n 4 23, n 4 24] : List W32).getD j 0
    let target (j : Nat) : W32 := ([12, 0, 0, 0, 24, 0, 31] : List W32).getD j 0
    let g : Thread := { th with cls := .stage }
    Executing s 0 th ∧ Executing (dev u) 0 u ∧ Executing ro 0 th ∧ Executing (dev g) 0 g ∧ (u.rx 6).void = true ∧ (th.rx 6).void = false ∧ (th.rx 7).void = false ∧
    2 ^ 32 ≤ (th.rx 10).val.toNat ∧ (th.rx 11).val.toNat < 2 ^ 32 ∧ (th.rx 8).val.toNat % 64 ≠ 0 ∧ (th.rx 6).val.toNat % 64 = 0 ∧ 32 < (th.rx 9).val.toNat % 64 ∧
    ((th.rx 7).val.toNat / 2 ^ 40 = 0 ∧ (th.rx 7).val.toNat / 2 ^ 6 % 2 ^ 26 = 0 ∧ (th.rx 7).val.toNat / 2 ^ 32 = 1 ∧ (th.rx 7).val.toNat % 64 = 1) ∧
    s.readVals th .base (((List.range 64).map (fun j => (0x400 : Word) + BitVec.ofNat 64 (4 * j))).map (fun x => (x, 4))) =
      .ok (0x3F800000 :: 0x40000000 :: List.replicate 30 0 ++ [8, 9] ++ List.replicate 30 0xFFFFFFFF) ∧
    (∀ e, e < 64 → s.access th (0x400 + BitVec.ofNat 64 (4 * e)) 4 .store .base (some (word e)) = .ok (.loc (tlLoc 0 (0x400 + 4 * e)))) ∧
    (s.readVals th .base [(0x60000, 4)] = .error (.trap 5 0x60000) ∧ ro.readVals th .base [(0x100000000, 4)] = .ok [0] ∧
      ro.access th 0x100000000 4 .store .base (some 0xFF800000) = .error (.trap 15 0x100000000)) ∧
    (widthsOf 0x0202 = [2, 2] ∧ sizeBelow [2, 2] = 7 ∧ 0x0202 / 256 ^ 2 = 0) ∧ (widthsOf 0x020002 = [2] ∧ 0x020002 / 256 ^ 1 ≠ 0) ∧ pathIn [2, 2] [1, 1] ∧
    (∀ e, e < 7 → s.access th (0x400 + BitVec.ofNat 64 (8 * e)) 8 .store .base (some (recs.getD e 0)) = .ok (.loc (tlLoc 0 (0x400 + 8 * e)))) ∧
    (s.access th 0x5FFF8 8 .store .base (some (recs.getD 0 0)) = .ok (.loc (tlLoc 0 0x5FFF8)) ∧ s.access th 0x60000 8 .store .base (some (recs.getD 1 0)) = .error (.trap 7 0x60000)) ∧
    g.cls = .stage ∧ th.cls = .compute ∧ ((th.wv 2 (Vector.replicate 64 .voidword)).rv 2)[5].void = true ∧
    (∀ j : Fin 64, (th.rv 2)[j].void = false) ∧ takenChild nodes target 0 = some 4 ∧ takenChild nodes target 4 = some 6 ∧ takenChild nodes target 6 = none :=
  ⟨⟨rfl, rfl⟩, ⟨rfl, rfl⟩, ⟨rfl, rfl⟩, ⟨rfl, rfl⟩, by unfold pathIn; decide +kernel⟩

/-- Waits of every kind that end, that go on and that expire; a parked thread that wakes and one that does not; a
watchdog at its limit; slices that run out with an item waiting and without; an item at its limit and none; items that
fit, that do not, and that were passed over eight times. -/
theorem meets_WaitsSlicesAndDispatch :
    let w (k : WaitKind) : Thread := { thd [] with wait := some ⟨k, 5, 10⟩, waittmo := 90 }
    let s (th : Thread) (time : Nat := 99) : State := { idle [(0, th)] with input := .num 0, time := time }
    let j : State := { s (w (.join 16385 1)) with scopes := [(0, root0), (1, { child1 with state := .joined })] }
    let m : Thread := { w (.recv 7) with inbox := [⟨7, [9], 1, 0⟩] }
    let p : Thread := { m with loc := .parked }
    let it (task : Bool) (r pr a k : Nat) (pl : Option Nat) : Item := ⟨task, r, pr, a, k, pl, .compute⟩
    let full : Table Thread := (List.range 4).map (fun c => (c, { thd [] with loc := .resident c, latlim := 1, prio := 1, slice := 1 }))
    let q (is : List Item) (ths : Table Thread) : State :=
      { (idle ths).setCluster 0 { Cluster.idle with ready := is } with input := .num 0, time := 2000, tasks := [(0, { task0 .ready 0 none with cls := .compute, cluster := 0 })] }
    (∀ th n, About (s th n) 0 th) ∧ About j 0 (w (.join 16385 1)) ∧ (w .mx).canEval = true ∧ (s (w .mx)).arrayIdle 0 1 = true ∧
    ((j.scope? 16385).map (·.state) = some .joined) ∧ (s (w (.recv 7))).diverts (w (.recv 7)) = false ∧ (s (w (.recv 7))).cancelled (w (.recv 7)) = false ∧
    (s { m with cancel := true }).diverts { m with cancel := true } = true ∧
    (∃ x, (s m).waitCond (seen m) (.recv 7) = .ok (some x)) ∧ (s (w (.recv 7))).waitCond (seen (w (.recv 7))) (.recv 7) = .ok none ∧
    ((s m 100).expired m ⟨.recv 7, 5, 10⟩ = true ∧ (s m 99).expired m ⟨.recv 7, 5, 10⟩ = false) ∧ p.canEval = false ∧ (thd []).wait = none ∧
    ((thd []).remoteOut = none ∧ (thd []).ending = false ∧ p.loc = .parked) ∧ (∃ k ∈ p.inbox ++ p.overflow, k.words.length = 1 ∧ ((7 : Nat) = 0 ∨ k.sender = 7)) ∧
    (∀ k ∈ (w (.recv 7)).inbox ++ (w (.recv 7)).overflow, ¬(k.words.length = 1 ∧ ((7 : Nat) = 0 ∨ k.sender = 7))) ∧
    ((thd []).watch < 2 ^ 30 ∧ 2 ^ 30 ≤ ({ thd [] with watch := 2 ^ 30 } : Thread).watch ∧ (thd []).loc = .resident 0 ∧ (thd []).saving = false ∧ (thd []).peer = [] ∧ (thd []).halted = none) ∧
    ({ m with pendMx := [5] } : Thread).pendMx = 5 :: [] ∧ ((s (thd [])).tile 0).ranges.bound ≠ some 1 ∧ (thd []).pendMx = [] ∧ ({ thd [] with saving := true } : Thread).saving = true ∧
    (thd []).slice = 0 ∧ ((1 : Nat) ≠ 0 ∧ 1 * 1000 ≤ 2000 - 0) ∧
    (q [it false 9 5 0 0 (some 0)] (full ++ [(9, { thd [] with prio := 5, loc := .queued })])).sliceTaken 0 { thd [] with latlim := 1, prio := 1, slice := 1 } = true ∧
    (q [] full).sliceTaken 0 { thd [] with latlim := 1, prio := 1, slice := 1 } = false ∧
    ((q [it false 9 5 0 0 (some 0)] (full ++ [(9, { thd [] with prio := 5, loc := .queued })])).limitVictim 0).isSome = true ∧ (q [] full).limitVictim 0 = none ∧
    (let x := q [it true 0 5 0 0 none] []
     x.ordered ((x.cluster 0).ready.filter (fun i => !x.heldItem i)) = [] ++ it true 0 5 0 0 none :: [] ∧ x.fitTile 0 (it true 0 5 0 0 none) = some 0 ∧
     x.lowCtx 0 .compute = some 0 ∧ (tfind x.tasks 0).isSome = true ∧ x.freeThread = some 0) ∧
    (q [] full).fitTile 0 (it false 9 5 0 8 (some 0)) = none ∧ 8 ≤ (it false 9 5 0 8 (some 0)).skips ∧
    ((q [] [(9, { thd [] with loc := .queued })]).thread? 9 = some { thd [] with loc := .queued } ∧ (thd []).saved = none) := by
  refine ⟨fun _ _ => ⟨rfl, rfl⟩, ⟨rfl, rfl⟩, ?_, ?_, ?_, ?_, ?_, ?_, ⟨_, rfl⟩, ?_⟩ <;> decide +kernel

/-- Returns that leave weight out, that end a scope, and none; an ended thread whose work is under way and landed; a
scope cancelled and not; walks that find a leaf, and none; a third restart within a second, and a second one. -/
theorem meets_ReturnsJoinsAndTranslations :
    let cl : Scope := { child1 with state := .closing }
    let w : Thread := { thd [] with wait := some ⟨.join 16385 1, 5, 0⟩ }
    let s (n : Nat) (x : Nat) : State := { idle [(0, w)] with scopes := [(0, root0), (1, cl)], returns := [⟨16385, x, .member, 0⟩], input := .num n }
    let e : Track := ⟨7, 1, 5, [], none⟩
    let t : State := { (idle []).setTile 0 { Tile.idle with tracker := [e] } with input := .num2 0 7 }
    let b : State := { t.setTile 0 { Tile.idle with tracker := [e], copies := [{ copy1 with tid := 7 }] } with input := .num2 0 7 }
    let c : State := { idle [(0, w)] with input := .num 1 }
    let k : State := { (((State.reset.putNum 0x100008 8 0x110001).putNum 0x110028 8 0x120001).putNum 0x120018 8 (0x1234400000 + 0xF)) with
      aspaces := [(0, ⟨0x100000, none, []⟩)], input := .walk 0 0 0x0081_4067_1234 false }
    let r (l : List Nat) : State := { State.reset.setCluster 5 { Cluster.idle with restarts := l } with input := .num 5, time := 999999999 }
    ((s 0 1).returns[0]? = some ⟨16385, 1, .member, 0⟩ ∧ (s 0 1).scope? 16385 = some cl ∧ ¬(cl.state = .closing ∧ cl.o - 1 = 0)) ∧
    (cl.state = .closing ∧ cl.o - 0x10000000000 = 0 ∧ cl.parent ≠ 0) ∧ (s 0 1).thread? 0 = some w ∧ w.canEval = true ∧ (s 1 1).returns[1]? = none ∧
    ((t.tile 0).tracker.find? (fun k => k.tid == 7) = some e ∧ t.engineBusy 0 7 = false ∧ t.remoteBusy 7 = false ∧ e.windows = [] ∧ e.weight ≠ 0 ∧
      (∀ p ∈ t.threads, p.2.ending = false)) ∧ b.engineBusy 0 7 = true ∧
    (c.scope? 1 = some root0 ∧ root0.cancelled = false ∧ ({ root0 with cancelled := true } : Scope).cancelled = true) ∧
    translated 0x0081_4067_1234 = true ∧ k.tlbMiss 0 0 0x0081_4067_1234 = true ∧ State.reset.walk 0 0x0081_4067_1234 = none ∧
    ((k.walk 0 0x0081_4067_1234).map (fun f => (f.bit 2, f.bit 3, f.bit 4, f.bit 5, f.entry)) = some (true, true, false, false, 0x120018)) ∧
    (let l := fun (x : List Nat) => (x ++ [999999999]).filter (fun y => decide (999999999 - y < 1000000000))
     (l [5]).length < 3 ∧ 3 ≤ (l [0, 5]).length) ∧ ((r [0, 5]).cluster 5).restarts = [0, 5] ∧ (5 : Nat) < 64 := by decide

/-- A copy with bytes to write, to one tile and to all of its cluster, at a source that is clean and that is poisoned;
copies stopped, failed, complete, with a remote read under way. -/
theorem meets_CopiesWritePiecesAndFinish :
    let s : State := { copying (thd []) with input := .num2 0 1 }
    let p : State := { s with poison := [tlLoc 0 0x1000 / 64] }
    let m : Copy := { copy1 with multicast := true }
    let r : State := { s with remotes := [⟨4, 0, 0, 1, 3, 0x50, 0x100000000, 8, .copyRead 1, 1, 6, 0, false⟩] }
    s.copy? 0 1 = some copy1 ∧ copy1.cancelled = false ∧ copy1.failed = false ∧ copy1.done < copy1.rows * copy1.rowBytes ∧ s.copyWaits 0 1 true = false ∧
    segRuns copy1.srcSegs 16 0x1000 128 = [(none, tlLoc 0 0x1000, 128)] ∧ min (256 - 0x10080 % 256) (1000 - 0 % 1000) = 128 ∧
    p.poisonIn (tlLoc 0 0x1000) 128 ≠ none ∧ s.poisonIn (tlLoc 0 0x1000) 128 = none ∧ copy1.multicast = false ∧ segRuns copy1.dstSegs 16 0x10080 128 = [(none, tlLoc 0 0x10080, 128)] ∧
    m.multicast = true ∧ Memory.wf s.mem = true ∧ 0x10080 + 128 ≤ 0x60000 ∧ s.inService 5 = true ∧ s.copyWaits 0 1 false = false ∧ r.copyWaits 0 1 false = true ∧
    ({ copy1 with done := 1000 } : Copy).rows * 1000 ≤ ({ copy1 with done := 1000 } : Copy).done := by decide

/-- A relocation with slices to copy, at the end of a clean pass, of the fourth and the fifth dirty one, in its flip,
given up with nothing written. -/
theorem meets_RelocationsCopyFlipAndEnd :
    let r : Reloc := ⟨1, 2, 1, 1, 1000, 0x100000, 0x200000, [⟨0x100000, 1000, none, 0x100000, (0, 0)⟩], [⟨0x200000, 1000, none, 0x200000, (0, 0)⟩], [], [], .pass 1 [0, 1], false⟩
    let s (x : Reloc) (inp : Input := .num 0) : State := { State.reset.setDie 0 { State.reset.die 0 with weevil := [x] } with input := inp }
    (s r).relocHead 0 = some r ∧ r.abandon = false ∧ r.phase = .pass 1 (0 :: [1]) ∧ (s r).mem = [] ∧ (0x100000 + 1000 ≤ 0x200000) ∧
    ({ r with phase := .pass 1 [] } : Reloc).phase = .pass 1 [] ∧ r.dirty = [] ∧ ({ r with dirty := [1], phase := .pass 4 [] } : Reloc).dirty ≠ [] ∧ ¬(5 ≤ 4) ∧
    ((s r).die 0).weevil = r :: [] ∧ ({ r with phase := .flipping } : Reloc).phase = .flipping ∧ r.phase ≠ .flipping ∧
    (s { r with abandon := true } (.num3 0 1 2)).relocOf 0 1 2 = some { r with abandon := true } ∧ r.copied = [] := by decide

/-- A remote load, a store and a copy's read, young and of 10 ms, whose thread waits; operations of peers in memory,
outside it and poisoned; a barrier record; lanes lost; a master ahead and behind, and too early. -/
theorem meets_RemoteOperationsLinksAndTime :
    let m (k : RemoteKind) : Remote := ⟨4, 0, 0, 1, 3, 0x50, 0x100000000, 8, k, 1, 6, 0, false⟩
    let th : Thread := { thd [] with remoteOut := some 4 }
    let s (k : RemoteKind) (inp : Input) (now : Nat := 9999999) : State := { (idle [(0, th)]).setTile 0 { Tile.idle with copies := [copy1] } with remotes := [m k], input := inp, time := now }
    let p : State := { State.reset with poison := [0x40] }
    (∀ k inp now, (s k inp now).remotes.find? (fun r => r.id == 4) = some (m k) ∧ (s k inp now).input = inp) ∧
    ((s .load .none).thread? 0 = some th ∧ th.tid 0 = 1 ∧ th.remoteOut = some 4) ∧ (s (.copyRead 1) .none).copy? 0 1 = some copy1 ∧
    (10000000 ≤ (s .load (.num 4) 10000000).time - (m .load).issued ∧ (s .load (.num 4)).time - (m .load).issued < 10000000) ∧
    State.reset.mem = [] ∧ inMemory 0x1000 8 = true ∧ inMemory 0xC000000000 8 = false ∧ p.poisonIn 0x1000 8 ≠ none ∧ State.reset.poisonIn 0x1000 8 = none ∧
    (leAt (State.reset.putNum 0x1000 8 0x0000000700010002) 0x1000 8 % 2 ^ 16 = 2 ∧ leAt (State.reset.putNum 0x1000 8 0x0000000700010002) 0x1008 8 ≤ 5) ∧
    ((17 : Nat) < 18 ∧ 4 < State.reset.portLanes 17 ∧ 4 ∈ [0, 1, 2, 4] ∧ State.reset.portLanes 17 ≤ 8) ∧
    ((0 : Nat) < 0 + 1000 ∧ 0 + 1000 ≤ 1000) ∧ (1000 : Nat) < 1001 ∧ (999 : Nat) < 1000 := by
  refine ⟨fun _ _ _ => ⟨rfl, rfl⟩, ?_⟩
  decide

/-- Launch records and an image: one section at 0x1_0000_0000, one stage context, a tile, version 3. -/
def imaged : State :=
  let w (a v : Nat) (s : State) : State := s.putNum a 8 v
  (w 0x100000 0x200000 <| w 0x100010 1 <| w 0x100018 0x40000000 <| w 0x100038 0x00010001 <|
   w 0x200000 0x46494C5301001003 <| w 0x200010 0x100000000 <| w 0x200040 0x100000000 <| w 0x200048 0x100 <| w 0x200050 4 <| w 0x200058 0x14 State.reset)
/-- Queue 0, active, with one entry to take at 0x300000. -/
def queue0 (head : Option LaunchRec := none) : Queue :=
  { Queue.idle with qbase := 0x300000, cbase := 0x310000, enable := true, state := .active, log2n := 3, notify := 1, head := head }
/-- The device with that queue, its entry's first two words, and input 0. -/
def fed (w0 w1 : Nat) (head : Option LaunchRec := none) : State :=
  { (imaged.putNum 0x300000 8 w0).putNum 0x300008 8 w1 with queues := [(0, queue0 head)], input := .num 0 }
/-- A launch that passed its checks: one stage context on tile 0, without sections. -/
def passed (secs : List Sec := []) : LaunchRec := ⟨0x200000, 9, 0, 1, 0x40000000, 0, 0, 0, 1, 1, .v3, 0x100000000, 1, 0, 0, 0, [], secs⟩

/-- A Kiln that takes nothing; heads that cannot be read, that are refused, that are carried out, that are launches to
check, that pass and fail their checks, that can be placed, that memory is missing for and tiles fail; a queue with
room for its completion, and one without. -/
theorem meets_KilnTakesPlacesAndPosts :
    let w (a b : Word) : List Word := [a, b, 0, 0, 0, 0, 0, 0]
    let far : State := { fed 0 0 with queues := [(0, { queue0 with qbase := 0xC000000000 })] }
    let out : State := (fed 1 0x100000 (some (passed))).setTile 0 { Tile.idle with outOfService := true }
    let done_ : State := { fed 0 0 with cmds := [(1, { kcmd 11 [] with phase := .finished }), (2, { kcmd 11 [] with queue := 1, phase := .finished })], donePosts := [2, 1] }
    ({ State.reset with booted := false } : State).kilnTakes = false ∧ ({ State.reset with cmds := [(1, kcmd 11 [])] } : State).kilnBusy = true ∧
    (fed 0 0).kilnTakes = true ∧ (fed 0 0).kilnBusy = false ∧
    far.kilnChoice = some (0, { queue0 with qbase := 0xC000000000 }, .bad) ∧ (fed 0xFF 0).kilnChoice = some (0, queue0, .other (w 0xFF 0) 1) ∧
    (fed 0x0B 1).kilnChoice = some (0, queue0, .other (w 0x0B 1) 2) ∧ (fed 2 1).kilnChoice = some (0, queue0, .other (w 2 1) 0) ∧
    (fed 1 0x100000).kilnChoice = some (0, queue0, .unchecked (w 1 0x100000)) ∧
    (∃ r, (fed 1 0x100000).checkLaunch 0 0x100000 = .ok r) ∧ (fed 1 0x100040).checkLaunch 0 0x100040 = .error (5, 1) ∧
    (fed 1 0x100000 (some passed)).kilnChoice = some (0, queue0 (some passed), .launch (w 1 0x100000) passed [0] 0) ∧
    (fed 1 0x100000 (some passed)).writeSections 0 0 0x200000 [] = some (fed 1 0x100000 (some passed)) ∧ (passed.ctxs = 1 ∧ passed.ctxc = 0) ∧
    (fed 1 0x100000 (some passed)).freeThread = some 0 ∧ (fed 1 0x100000 (some passed)).writeSections 0 0 0x200000 [⟨0x100000000, 0x100, 4, 0x14⟩] = none ∧
    out.kilnChoice = some (0, queue0 (some passed), .unmet (w 1 0x100000)) ∧
    (fed 1 0x100000).queueReady 0 (queue0) = true ∧ (fed 1 0x100000).headOf 0 queue0 = .unchecked (w 1 0x100000) ∧
    (done_.booted = true ∧ done_.kilnFailed = false ∧ Memory.wf done_.mem = true) ∧ ((queue0).cwidx - (queue0).chead).toNat < 2 ^ (queue0).log2n ∧
    2 ^ (queue0).log2n ≤ (({ queue0 with cwidx := 8 } : Queue).cwidx - (queue0).chead).toNat ∧ done_.donePosts = [2] ++ 1 :: [] ∧
    (∀ j ∈ [2], ∀ d ∈ tfind done_.cmds j, d.queue ≠ 0) ∧ (tfind done_.cmds 1).map (·.queue) = some 0 ∧ inMemory 0x310000 16 = true := by
  refine ⟨?_, ?_, ?_, ?_, rfl, rfl, rfl, rfl, rfl, ⟨_, rfl⟩, ?_, rfl, rfl, ?_, ?_, ?_, rfl, ?_, rfl, ?_⟩ <;> decide

/-- The Kiln with a command to carry out. -/
def kiln (op : Nat) (ws : List Word) (s : State := State.reset) : State := { s with cmds := (1, kcmd op ws) :: s.cmds, input := .num 1 }
theorem kiln_carries (op : Nat) (ws : List Word) (s : State) (h : (kiln op ws s).cmdOpen (kcmd op ws) = true) :
    Carries (kiln op ws s) 1 (kcmd op ws) op (fun k => (ws.getD k 0).toNat) := ⟨rfl, rfl, rfl, rfl, rfl, h, fun _ => rfl⟩

/-- Commands to kill that run, that were cancelled, and none; a counter that has come and not; heaps new, there, ill
placed, idle and in use; streams to create with a record and memory and without, to destroy, bound, and none. -/
theorem meets_KilnCommandsKillHeapsAndStreams :
    let live (b : Bool) : State := { State.reset with cmds := [(9, { kcmd 1 [] with phase := .running, root := 1 })], scopes := [(0, { root0 with cancelled := b })] }
    let hit (p : Nat × Command) : Bool := p.2.queue == 0 && p.2.index == 0 && (live false).rootLive p.2
    let sp : State := { State.reset with aspaces := [(1, ⟨0x100000, none, []⟩)] }
    let hp : State := { State.reset with heaps := [(1, ⟨0x20000, 4, 0x200000000⟩)] }
    let st : Stream := { bargeStream with pages := [], g := 0, p := 0 }
    let ss (ths : Table Thread) : State := { idle ths with streams := [(1, st)] }
    (∀ op ws s, (kiln op ws s).cmdOpen (kcmd op ws) = true → Carries (kiln op ws s) 1 (kcmd op ws) op (fun k => (ws.getD k 0).toNat)) ∧
    ((kiln 2 [0, 0] (live false)).cmds.find? hit).map (·.1) = some 9 ∧ (kiln 2 [0, 0]).cmds.find? (fun p => p.2.queue == 0 && p.2.index == 0 && (kiln 2 [0, 0]).rootLive p.2) = none ∧
    ((kiln 2 [0, 0] (live true)).scope? 1).map (·.cancelled) = some true ∧
    (0 ≤ ((0 : BitVec 32) - 0).toInt ∧ ¬0 ≤ ((0 : BitVec 32) - 1).toInt) ∧
    ((tfind sp.heaps 1).isSome = false ∧ 0x20000 % 65536 = 0 ∧ inMemory 0x20000 128 = true ∧ (sp.mapPage 1 0 0x200000000 0x20007).isSome = true ∧
      (State.reset.mapPage 1 0 0x200000000 0x20007).isSome = false ∧ 0x20001 % 65536 ≠ 0) ∧
    (tfind hp.heaps 1 = some ⟨0x20000, 4, 0x200000000⟩ ∧ hp.heapIdle 1 ⟨0x20000, 4, 0x200000000⟩ = true ∧
      (heaped (thd []) ref2).heapIdle 1 ⟨0x20000, 4, 0x200000000⟩ = false ∧ tfind hp.heaps 2 = none) ∧
    (translated 0x2000000000 = true ∧ sp.kvFree 1 0x2000000000 = true ∧ 64 % 64 = 0 ∧ ¬(State.reset.die 0).kvPool.length < 1 ∧
      State.reset.freeStream 0 = some (0, 1) ∧ (State.reset.allocRun 0 (slotPages 64)).isSome = true) ∧ translated 0 = false ∧
    ((ss []).stream? 0x10001 = some st ∧ (∀ p ∈ (ss []).threads, p.2.stream.toNat ≠ 0x10001) ∧ st.pages = [] ∧ st.g = 0 ∧ (ss []).stream? 9 = none ∧
      ∃ p ∈ (ss [(0, { thd [] with stream := 0x10001 })]).threads, p.2.stream.toNat = 0x10001) :=
  ⟨kiln_carries, by decide⟩

/-- Spaces without and with a copy that uses them; entries armed, and not, whose sample crosses and does not; a task
that takes the signal and one that underflows; clocks at the asked rate and another; groups of no root and of one. -/
theorem meets_SpacesThresholdsClocksAndGroups :
    let c : Copy := { copy1 with srcSegs := [⟨0x100000000, 1000, none, 0x10000, (0x100000000, 65536)⟩] }
    let u : State := { (State.reset.setTile 0 { Tile.idle with copies := [c] }) with
      scopes := [(0, { root0 with cmd := 9 })], cmds := [(9, { kcmd 1 [] with phase := .running, root := 1, launch := some passed })] }
    let e : Threshold := ⟨1, 0, true, 50, 5, 1, true, 0, 0, some 60⟩
    let s (x : Threshold) (ks : Table Task) (t : Nat) : State :=
      { (State.reset.setDie 0 { State.reset.die 0 with temp := t, power := t }) with thresholds := [(3, x)], tasks := ks, input := .num2 3 t }
    let g (b : Bool) : State := { State.reset with scopes := [(0, { root0 with group := 7, cancelled := b })], input := .num 7 }
    (∀ op ws s, (kiln op ws s).cmdOpen (kcmd op ws) = true → Carries (kiln op ws s) 1 (kcmd op ws) op (fun k => (ws.getD k 0).toNat)) ∧
    State.reset.opsUsing 0 0 (2 ^ 64) = [] ∧ (u.opsUsing 0 0 (2 ^ 64) = [1] ∧ u.opsDone [1] = false) ∧ (0x100000 : Nat) ≠ 0 ∧
    ((s e [] 50).kilnTakes = true ∧ tfind (s e [] 50).thresholds 3 = some e ∧ e.armed = true ∧ ({ e with armed := false } : Threshold).armed = false) ∧
    ((s e [] 50).sampleOf e 50 = 50 ∧ (50 < 60 ∧ 50 ≤ 50) ∧ (s e [] 51).sampleOf e 51 = 51 ∧ ¬(51 ≤ 50)) ∧
    ((s e [(0, task0 .published 2 none)] 50).signal 1).toOption.isSome = true ∧ ((s e [(0, task0 .done 0 none)] 50).signal 1).toOption.isSome = false ∧
    ((State.reset.die 1).mhz = 1800 ∧ (1800 : Nat) ≠ 1500) ∧ ((State.reset.die 1).stallUntil = 0) ∧
    (∀ p ∈ (g false).scopes, p.2.group = 7 → p.2.cancelled = false) ∧ State.reset.groupRoots 7 = [] ∧
    (g false).groupRoots 7 = [(0, { root0 with group := 7, cancelled := false })] := ⟨kiln_carries, by decide⟩

/-- Queues DISABLED, ACTIVE and in ERROR; a NOTIFY at the ring's size and past it; functions under reset, locked, and
open; a command of the queue that is live, silent, and none; addresses of the function 0 that are memory and are not. -/
theorem meets_HostRegisters :
    let s (x : Queue) : State := { State.reset with queues := [(0, x)] }
    let l : State := { State.reset with funcs := [(2, { Func.idle with tdisp := .locked }), (3, { Func.idle with flr := true })] }
    let c (b : Bool) : State := { State.reset with cmds := [(1, { kcmd 11 [] with silent := b })] }
    State.reset.hostOpen = true ∧ State.reset.booted = true ∧ (State.reset.func 0).flr = false ∧ (l.func 3).flr = true ∧ (l.func 0).flr = false ∧
    ((s Queue.idle).queue 0).state = .disabled ∧ ((s queue0).queue 0).state = .active ∧ ((s { queue0 with state := .error }).queue 0).state = .error ∧
    ((8 : BitVec 32) - queue0.ridx).toNat ≤ 2 ^ queue0.log2n ∧ 2 ^ queue0.log2n < ((9 : BitVec 32) - queue0.ridx).toNat ∧
    State.reset.locked 0 = false ∧ l.locked 2 = true ∧ (32 / 16 = 2) ∧ Queue.idle.errVal = none ∧ (∀ p ∈ State.reset.cmds, p.2.queue ≠ 0) ∧
    (∃ p ∈ (c false).cmds, p.2.queue = 0 ∧ p.2.silent = false) ∧ l.regOwner (.msix 2 0) = 2 ∧ l.regOwner (.logBase 2) = 0 ∧ HostReg.devNum ≠ .grant 0 ∧
    State.reset.cxlLoc 0 0x1000 64 = some 0x1000 ∧ State.reset.cxlLoc 0 0xC000000000 64 = none ∧ (767 : Nat) < 768 ∧ (6 : Nat) ≤ 20 := by decide

/-- Functions that can be reset, locked, run, in each TDISP state; each life-cycle state; tiles in service and out; a
Kiln with a standby and without, and failed; samples at 95 °C and an eighth below; dies cool and hot long enough and not;
temperatures of 105 °C and an eighth below. -/
theorem meets_ResetsFailuresAndThermalSteps :
    let f (t : Tdisp) : State := { State.reset with funcs := [(2, { Func.idle with tdisp := t })] }
    let s (x : Die → Die) (now : Nat) : State := { State.reset.setDie 1 (x (State.reset.die 1)) with time := now, input := .num 1 }
    (State.reset.hostOpen = true ∧ (63 : Nat) ≠ 0 ∧ 63 < 64 ∧ (∀ p ∈ State.reset.cmds, p.2.queue / 16 ≠ 63) ∧ (tfind (f .run).funcs 2).isSome = true) ∧
    (∀ t, t ≠ .unlocked → ((f t).func 2).tdisp ≠ .unlocked) ∧ ((f .run).func 2).tdisp = .run ∧ ((f .locked).func 2).tdisp ≠ .run ∧
    (State.reset.life = .deployed ∧ State.reset.life ≠ .blank) ∧ State.reset.mem = [] ∧ State.reset.booted = true ∧
    (State.reset.kilnFailed = false ∧ State.reset.standby = true ∧ ({ State.reset with standby := false } : State).standby = false ∧ State.reset.kilnDie = 0 ∧ (2 : Nat) = 2 - 0) ∧
    (State.reset.inService 7 = true ∧ (∀ p ∈ State.reset.threads, p.2.tile ≠ 7) ∧ (State.reset.tile 7).copies = [] ∧ (State.reset.setTile 7 { Tile.idle with outOfService := true }).inService 7 = false) ∧
    (State.reset.pfx = [] ∧ State.reset.streams = [] ∧ (({ State.reset with dies := [(0, { State.reset.die 0 with kvPool := [] })] } : State).die 0).kvPool = [] ∧ 4095 < 4096) ∧
    ((3 : Nat) < 4 ∧ (760 : Nat) ≤ 760 ∧ ¬(760 : Nat) ≤ 759 ∧ (State.reset.die 1).lastStep = none ∧ (State.reset.die 1).mhz ≠ 900 ∧
      ((s (fun d => { d with lastStep := some 5 }) 100005).die 1).lastStep = some 5 ∧ 100000 ≤ 100005 - 5) ∧
    (let c := (s (fun d => { d with coolSince := some 0, stepped := 1, mhz := 900 }) 1000000)
     (c.die 1).coolSince = some 0 ∧ 1000000 ≤ c.time - 0 ∧ 0 < (c.die 1).stepped ∧ (c.die 1).mhz ≠ 1800 ∧ c.tripped = false) ∧ (State.reset.die 1).coolSince = none ∧
    (let c := (s (fun d => { d with limitSince := some 0, mhz := 900 }) 1000000)
     (c.die 1).limitSince = some 0 ∧ 1000000 ≤ c.time - 0 ∧ (c.die 1).mhz = 900 ∧ (c.die 1).halved = false) ∧ (State.reset.die 1).limitSince = none ∧
    ((s (fun d => { d with temp := 839 }) 0).die 1).temp < 840 ∧ 840 ≤ ((s (fun d => { d with temp := 840 }) 0).die 1).temp ∧
    (∀ p ∈ State.reset.cmds, State.reset.rootLive p.2 = false) := by
  refine ⟨?_, ?_, ?_⟩
  · decide
  · intro t h; cases t <;> first | exact absurd rfl h | decide
  · decide

/-- A request with an opcode, an index, and the thread 1 or the scope 1 it names. -/
def asking (op i : Nat) (ws : List Word) (scope : Bool := false) (who : Nat := 1) : DbgReq :=
  ⟨BitVec.ofNat 64 (who * 2 ^ 32 + (if scope then 2 ^ 16 else 0) + i * 2 ^ 8 + op), ws⟩
/-- A device whose function 0 is in a session and asks, over a thread. -/
def asked (r : DbgReq) (th : Thread) (inSession : Bool := true) : State :=
  { idle [(0, th)] with funcs := [(0, { Func.idle with session := if inSession then some ⟨5, [(1, .request)]⟩ else none })], dbgScopes := if inSession then [(0, 1, .halt)] else [], input := .dbg 0 r }

/-- Requests in a session and outside one, with reserved bits, to a thread that halts, that ended, that another
function owns; over scopes; a step of a thread that waits; every index of READ and WRITE at its ends; blocks of 1 and
256 bytes in the tile's window. -/
theorem meets_DebugRequests :
    let th : Thread := { thd [(6, 9)] with cmd := 1 }
    let h : Thread := { th with halted := some .request }
    let w : Thread := { h with wait := some ⟨.bar 0x100 7 0, 5, 0⟩ }
    let gone : Thread := { th with ending := true }
    let other : State := { asked (asking 0x10 0 []) th with cmds := [(1, { kcmd 1 [] with queue := 32 })], funcs := [(2, { Func.idle with tdisp := .run }), (0, { Func.idle with session := some ⟨5, []⟩ })] }
    let wp : Watch := ⟨0x100, 0x100000001, 0⟩
    (∀ op ∈ [(0x01 : Nat), 0x02, 0x10, 0x11, 0x12, 0x20, 0x21, 0x30, 0x31, 0x32, 0x33, 0x40], ∀ b : Bool, Asks (asked (asking op 0 [] b) th) 0 (asking op 0 [] b) op ∧ AsksOf (asked (asking op 0 [] b) h) 0 (asking op 0 [] b) op b) ∧
    (((asked (asking 0x10 0 []) th false).func 0).session = none ∧ ((⟨0x20010, []⟩ : DbgReq).hdr.toNat / 2 ^ 17 % 2 ^ 15 ≠ 0)) ∧
    ((asked (asking 0x10 0 []) gone).thread? 0 = some gone ∧ gone.reuse = 1 % 256 ∧ gone.ending = true) ∧ (asked (asking 0x10 0 [] false 0x300) th).thread? 3 = none ∧
    other.locked (other.ownerOf th.cmd) = true ∧ (th.halted = none ∧ h.halted.isSome = true ∧ h.wait = none ∧ w.wait = some ⟨.bar 0x100 7 0, 5, 0⟩) ∧
    ((asked (asking 0x10 0 [] true) th).scope? 1 = some root0 ∧ (asked (asking 0x10 0 [] true) th).mayName 0 root0.cmd = true ∧ root0.cmd = 1) ∧
    ((asking 0x20 7 []).hdr.toNat / 2 ^ 8 % 2 ^ 8 = 7 ∧ (asking 0x20 8 []).hdr.toNat / 2 ^ 8 % 2 ^ 8 = 8 ∧ (asking 0x21 3 []).hdr.toNat / 2 ^ 8 % 2 ^ 8 < 4) ∧
    (wp.ctl.toNat / 2 ^ 37 = 0 ∧ wp.ctl.getLsbD 32 = true ∧ wp.ctl.toNat % 2 ^ 32 ≠ 0) ∧
    (∀ n ∈ [(0 : Nat), 1, 2, 3, 4, 5, 6, 7, 8, 9, 10, 0x3F, 0x40, 0x5F, 0x60], (asking 0x30 n []).hdr.toNat / 2 ^ 8 % 2 ^ 8 = n) ∧ h.cls = .compute ∧
    (csrWritable 0x80B = true ∧ csrWritable 0x808 = false) ∧ (((asking 0x31 1 [31, 7, 1]).ws.getD 2 0).toNat / 2 = 0 ∧ ((asking 0x31 1 [31, 7, 2]).ws.getD 2 0).toNat / 2 ≠ 0) ∧
    ((asked (asking 0x33 0 [0x5FF00, 256]) th).mem = [] ∧ 0x5FF00 + 256 ≤ 2 ^ 64 ∧
      (∀ j : Nat, j < 256 → translated (0x5FF00 + j) = false ∧ windowLoc 0 (0x5FF00 + j) = windowLoc 0 0x5FF00 + j ∧ (windowEnd (0x5FF00 + j)).isSome = true) ∧
      2 + (256 + 7) / 8 ≤ (0x5FF00 :: 0x8000000000000100 :: List.replicate 32 (0 : Word)).length ∧
      (∀ j : Nat, j < 256 → (asked (asking 0x33 0 [0x5FF00, 256]) th).poisonIn (windowLoc 0 0x5FF00 + j) 1 = none)) := by
  unfold AsksOf Asks
  decide

/-- A thread and a scope that a request names and its session may name. -/
theorem meets_DebugRequests_names :
    let th : Thread := { thd [(6, 9)] with cmd := 1 }
    let h : Thread := { th with halted := some .request }
    Names (asked (asking 0x10 0 []) th) 0 (asking 0x10 0 []) 0 th ∧ Names (asked (asking 0x12 0 []) h) 0 (asking 0x12 0 []) 0 h ∧
    NamesScope (asked (asking 0x10 0 [] true) th) 0 (asking 0x10 0 [] true) root0 ∧ (asked (asking 0x10 0 [] true) th).haltFar 0 1 = false := by
  unfold Names NamesScope
  decide

/-! ### Further clauses: what waits at a peer's write, a stalled link, a log ring, a record in use -/

/-- A store of thread 0 under way at device 3. -/
def farStore : Remote := ⟨4, 0, 0, 1, 3, 0x50, 0x100000000, 8, .store [1], 1, 6, 0, false⟩
/-- A device with it: a release at FABRIC or SYSTEM waits there, and none on a device without one or below FABRIC. -/
def sending (th : Thread) : State := { dev th with remotes := [farStore] }
theorem sending_held (th : Thread) (n : Nat) (h : 4 ≤ n) : Held (sending th) n := ⟨h, farStore, .head _, [1], rfl⟩
theorem dev_held (th : Thread) (n : Nat) : ¬Held (dev th) n := fun ⟨_, _, h, _⟩ => by cases h
theorem meets_StoresWriteLittleEndian_held :
    let th := thd [(6, 0x100), (7, 9)]
    Executing (sending th) 0 th ∧ (sending th).memOk ∧ Held (sending th) Reach.fabric.bits.toNat ∧ ¬Held (sending th) 3 ∧ ¬Held (dev th) 5 ∧
    (.stl .fabric .d 6 7, 0x100, 8, 4) ∈ storeForms th 6 7 0 .fabric ∧
    (sending th).access th 0x100 8 .store .base (some 9) = .ok (.loc (tlLoc 0 0x100)) ∧
    (sending th).access { th with skipCheck := true } 0x100 8 .amo .base = .ok (.loc (tlLoc 0 0x100)) :=
  ⟨⟨rfl, rfl⟩, rfl, sending_held _ _ (by decide), fun h => absurd h.1 (by decide), dev_held _ _, by decide⟩

/-- LDS whose checks answer void and that trap, with no walk held; MCST whose checks trap. -/
theorem meets_SpeculativeLoadsAndMulticastStores_checks :
    let th := thd [(6, 0x60000), (7, 9)]
    let u := thd [(6, 0x101), (7, 9)]
    Executing (dev th) 0 th ∧ Executing (dev u) 0 u ∧ (dev th).access th 0x60000 8 .load .lds = .error .void ∧
    (dev u).access u 0x101 8 .load .lds = .error (.trap 4 0x101) ∧ (dev u).walkHeld 0 0 0x100000000 = false ∧
    (dev th).mcstPlaces th 0x60000 8 9 = .error (.trap 7 0x60000) := ⟨exd _, exd _, by decide⟩

/-- A first store: a leaf without its D bit, in the table and not yet in the buffer, of a space with a log ring. -/
theorem meets_AccessesTouchOnlyTheirPage_first :
    let s : State := { dev (thd []) with aspaces := [(0, ⟨0x100000, some 2, []⟩)], funcs := [(2, { Func.idle with logSize := some 6, logBase := 0x40 })] }
    let s := ((s.putNum 0x100008 8 0x110001).putNum 0x110028 8 0x120001).putNum 0x120018 8 (0x1234400000 + 0xF)
    s.memOk ∧ translated 0x0081_4067_1234 = true ∧
    (s.leafOf 0 0 0x0081_4067_1234).map (fun f => (f.bit 5, decide (f.entry ≠ 0))) = some (false, true) ∧
    (s.walk 0 0x0081_4067_1234).map (fun f => (f.bit 5, decide (f.entry + 8 ≤ locHost))) = some (false, true) ∧
    (s.logRing 0).isSome = true := by unfold State.memOk; decide

/-- Answers of a peer that are poisoned and failed, for a load, an LDS and a JTAB. -/
theorem meets_PeerAccessesAreRemoteOperations_answers :
    let th (n : Nat) (a : PeerAns) : Thread := { thd [(6, 0x100000000), (5, 0)] with peer := [⟨0x100000000, n, false, [1, 0, 0, 0], a, 0⟩] }
    let s (n : Nat) (a : PeerAns) : State := paged (th n a) 0x801800000010003F
    (∀ n a, Executing (s n a) 0 (th n a)) ∧ (s 8 .poisoned).access (th 8 .poisoned) 0x100000000 8 .load .base = .ok (.peer 3 0x100000) ∧
    (s 8 .poisoned).access (th 8 .poisoned) 0x100000000 8 .load .lds = .ok (.peer 3 0x100000) ∧
    ((th 8 .poisoned).peer.find? (fun v => v.addr == 0x100000000 && v.n == 8 && !v.amo)).map (·.ans) = some .poisoned ∧
    ((th 8 .failed).peer.find? (fun v => v.addr == 0x100000000 && v.n == 8 && !v.amo)).map (·.ans) = some .failed ∧
    (s 4 .ok).access (th 4 .ok) 0x100000000 4 .load .base = .ok (.peer 3 0x100000) ∧ ((th 4 .ok).rx 5).val = 0 ∧
    ((th 4 .ok).peer.find? (fun v => v.addr == 0x100000000 && v.n == 4 && !v.amo)).map (·.ans) = some .ok ∧ ((th 4 .ok).rk 0).weight ≠ 1 :=
  ⟨fun _ _ => paged_executing _ _, by decide⟩

/-- A store at a peer, a row of an MXWB, neither. -/
theorem meets_BaseFenceIsDieFence_busy :
    let th := thd []
    let m : State := (dev th).setTile 0 { Tile.idle with rowQ := [⟨1, 0, 1, 1, .wb 3 1 0 0 4 false, false, 0, false⟩] }
    Executing (sending th) 0 th ∧ Executing m 0 th ∧ (sending th).storesBusy 0 (th.tid 0) = true ∧ m.storesBusy 0 (th.tid 0) = true ∧
    (dev th).storesBusy 0 (th.tid 0) = false ∧ (dev th).engineBusy 0 (th.tid 0) = false ∧ (copying th).engineBusy 0 (th.tid 0) = true :=
  ⟨⟨rfl, rfl⟩, ⟨rfl, rfl⟩, by decide⟩

/-- STREAM written with a live stream, with none, and with 0; read without a write. -/
theorem meets_CsrInstructions_stream :
    let th := thd [(6, 0x10001), (7, 9)]
    let s : State := { dev th with streams := [(1, bargeStream)] }
    let reg (r : XReg) (v : Nat) : Prop := ∃ p ∈ csrForms th 5 r 1 0x80A, p.2.1 = false ∧ p.2.2.1 = false ∧ (p.2.2.2.2 0).toNat % 2 ^ 32 = v
    Executing s 0 th ∧ s.csrRead 0 th 0x80A = 0 ∧ reg 6 0x10001 ∧ s.stream? 0x10001 = some bargeStream ∧ reg 7 9 ∧ s.stream? 9 = none ∧
    reg 8 0 ∧ (∃ p ∈ csrForms th 5 0 0 0x80A, p.2.1 = false ∧ ¬(p.2.2.2.1 = true ∨ p.2.2.1 = false)) ∧
    (∃ p ∈ csrForms (th.wx 6 .voidword) 5 6 1 0x80A, p.2.1 = true) ∧ th.loc = .resident 0 := by
  refine ⟨⟨rfl, rfl⟩, ?_, ?_, ?_, ?_, ?_, ?_, ?_, ?_, ?_⟩ <;> decide

/-- A session that covers the thread, and the first instruction after a resume. -/
theorem meets_SystemInstructions_resumed :
    let th : Thread := { thd [] with skipCheck := true }
    let s : State := { dev th with funcs := [(0, { Func.idle with session := some ⟨1, []⟩ })] }
    Executing s 0 th ∧ s.sessionFor th.cmd = some 0 ∧ th.skipCheck = true := ⟨⟨rfl, rfl⟩, by decide⟩

/-- The winner's own second SUCCEED; scopes that others opened in the scope. -/
theorem meets_CancellationAndFirstSuccess_children :
    let th := thd []
    let w : Scope := { root0 with succeeded := true, winner := th.tid 0 }
    let s := world [(0, th)] [(0, root0), (1, child1)]
    Executing s 0 th ∧ (world [(0, th)] [(0, w)]).scope? th.sid0 = some w ∧ w.succeeded = true ∧ w.winner = th.tid 0 ∧
    tfind s.scopes 1 = some child1 ∧ child1.parent = th.sid0 ∧ child1.opener ≠ th.tid 0 ∧ child1.state ≠ .free ∧ child1.state ≠ .joined :=
  ⟨⟨rfl, rfl⟩, by decide⟩

/-- A table that lists every record from k on has none free below its end. -/
theorem lowestUnlisted_full {α : Type} (used : α → Bool) (a : α) (h : used a = true) :
    ∀ n k, lowestUnlisted used ((List.range' k n).map (fun i => (i, a))) k = k + n
  | 0, _ => rfl
  | n + 1, k => by
    simp only [List.range'_succ, List.map_cons, lowestUnlisted, Nat.lt_irrefl, if_false, if_true, h]
    rw [lowestUnlisted_full used a h n (k + 1)]; omega
/-- A table of n records in use has none free below n. -/
theorem lowestUnlisted_none {α : Type} (used : α → Bool) (a : α) (h : used a = true) (n : Nat) :
    ¬lowestUnlisted used ((List.range' 0 n).map (fun i => (i, a))) 0 < n := by rw [lowestUnlisted_full used a h n 0]; omega
/-- Every thread record in use, and every task record. -/
theorem meets_SpawnAndExit_full : ∃ s u th, Executing s 0 th ∧ s.freeThread = none ∧ Executing u 0 th ∧ u.freeTask = none := by
  obtain ⟨n, hn⟩ : ∃ n, n + 1 = 0x100000 := ⟨0xFFFFF, rfl⟩
  let th := thd [(6, 0x2000), (7, 0x55)]
  refine ⟨{ dev th with threads := (List.range' 0 (n + 1)).map (fun i => (i, th)) },
    { dev th with tasks := (List.range' 0 (n + 1)).map (fun i => (i, task0 .created 0 none)) }, th, ⟨rfl, ?_⟩, ?_, ⟨rfl, rfl⟩, ?_⟩
  · simp only [State.thread?, List.range'_succ, List.map_cons]; rfl
  · unfold State.freeThread; rw [← hn]; exact if_neg (lowestUnlisted_none _ th rfl _)
  · unfold State.freeTask; rw [← hn]; exact if_neg (lowestUnlisted_none _ (task0 .created 0 none) rfl _)

/-- A block that cannot be read, a misaligned entry, a scope that is cancelled; void operands of the task instructions. -/
theorem meets_TasksAreCreatedPublishedAndSignalled_refused :
    let th := thd [(6, 0x60000), (7, 0x30000)]
    let odd : State := (dev th).putNum (tlLoc 0 0x100) 8 0x2002
    let c : State := { dev th with scopes := [(0, { root0 with cancelled := true })] }
    Executing odd 0 th ∧ Executing c 0 th ∧ taskCtlLegal (dev th) 0x30000 = true ∧ ((th.wx 6 .voidword).rx 6).void = true ∧
    (dev th).readVals th .base [(0x60000, 8), (0x60008, 8)] = .error (.trap 5 0x60000) ∧
    odd.readVals th .base [(0x100, 8), (0x108, 8)] = .ok [0x2002, 0] ∧ 0x2002 % 4 ≠ 0 ∧ c.scopeCancelled th.sid0 = true ∧ (dev th).scopeCancelled th.sid0 = false :=
  ⟨⟨rfl, rfl⟩, ⟨rfl, rfl⟩, by decide⟩

/-- A receiver that is ending, and one that ended. -/
theorem meets_MessagesAreSentQueuedAndTaken_ending :
    let gone : Thread := { thd [] with ending := true }
    let s := world [(0, thd [(6, 257)]), (1, gone)] [(0, root0)]
    s.byTid 257 = some (1, gone) ∧ gone.ending = true ∧ (dev (thd [])).byTid 257 = none := by decide

/-- A record that cannot be read; one of reach FABRIC behind a store at a peer. -/
theorem meets_BufferWaitsTagWaitsAndBarriers_reach :
    let th := thd [(6, 0x60000), (9, 0x200)]
    let s := ((sending th).putNum (tlLoc 0 0x200) 8 0x0000000700010002).putNum (tlLoc 0 0x208) 8 4
    Executing s 0 th ∧ Held s 4 ∧ s.memOk ∧ (dev th).barPlaces (seen th) 0x60000 = .error (.trap 5 0x60000) ∧ (0x60000 : Word).toNat % 16 = 0 ∧
    leAt s (tlLoc 0 0x208) 8 = 4 ∧ s.access (seen th) 0x208 8 .load .base = .ok (.loc (tlLoc 0 0x208)) :=
  ⟨⟨rfl, rfl⟩, ⟨by decide, farStore, .head _, [1], rfl⟩, by unfold State.memOk; decide⟩

/-- A watchdog past 2^30 at a boundary; a scope behind a stalled link. -/
theorem meets_StepRunsDecodedInstruction_held :
    let th : Thread := { thd [] with watch := 2 ^ 30 }
    let far := (thd []).wk 1 ⟨.opener, 0x40000001, 1⟩
    let s : State := (dev far).setDie 1 { State.reset.die 1 with stallUntil := 5 }
    2 ^ 30 ≤ th.watch ∧ th.peer = [] ∧ s.unitsHeld far (.scancel 1) = true ∧ (dev far).unitsHeld far (.scancel 1) = false := by decide

/-- A thread that faults while its tile's tracker is full. -/
theorem meets_FaultsAreDeliveredOrEndTheThread_full :
    let th := thd []
    let s : State := (dev th).setTile 0 { Tile.idle with tracker := List.replicate 32 ⟨1, 1, 0, [], none⟩ }
    s.thread? 0 = some th ∧ th.mode = .user ∧ th.utvec = 0 ∧ th.ending = false ∧ s.scope? th.sid0 = some root0 ∧ root0.state = .closing ∧
    32 ≤ (s.tile th.tile).tracker.length := by decide

/-- A device whose die d waits for its clock. -/
def stalling (s : State) (d : Nat) : State := s.setDie d { s.die d with stallUntil := 5 }
/-- Address space 0 with its table at some place, and a log ring of 64 entries that holds n. -/
def logging (s : State) (root n : Nat) : State :=
  { s with aspaces := [(0, ⟨root, some 2, []⟩)], funcs := [(2, { Func.idle with logSize := some 6, logBase := 0x40, logTail := n })] }
/-- Copies: behind a stalled link; to a page not yet dirty, with a full ring and with room; from a peer and from host
memory, behind a store at a peer and not. -/
theorem meets_CopiesAreIssued_waits :
    let th := thd [(5, 0x10080), (6, 0x1000), (7, 1000)]
    let far := stalling (logging (dev th) 0x3000100000 0) 1
    let page (n : Nat) : State := logging (paged th 0x100000000001001F) 0x100000 n
    Executing far 0 th ∧ (∀ n, Executing (page n) 0 th) ∧ Executing (sending th) 0 th ∧
    far.rowsHeld th false 0x100000000 0 1000 1 = true ∧ (page 0).rowsHeld th false 0x1000 0 1000 1 = false ∧
    (page 0).engineRows th true 0x100000000 0 1000 1 = .ok [⟨0x100000000, 1000, none, 0x10000, (0x100000000, 0x10000)⟩] ∧
    (page 64).logFits 0 0 [0x100000000] = false ∧ (page 63).logFits 0 0 [0x100000000] = true ∧
    Held (sending th) 4 ∧ ¬Held (dev th) 4 ∧
    (∃ g ∈ [(⟨0x100000000, 1000, some 3, 0, (0, 0)⟩ : Seg)], g.peer.isSome = true ∨ locHost ≤ g.at_) ∧
    (∀ g ∈ [(⟨0x1000, 1000, none, tlLoc 0 0x1000, (0, 0)⟩ : Seg)], g.peer = none ∧ g.at_ < locHost) :=
  ⟨⟨rfl, rfl⟩, fun _ => ⟨rfl, rfl⟩, ⟨rfl, rfl⟩, by decide, by decide, by decide, by decide, by decide, sending_held _ _ (by decide), dev_held _ _,
    by decide, by decide⟩

/-- An object whose relocation flips, and one with a poisoned descriptor, named by a weak and a strong reference. -/
theorem meets_ObjectsPinsAndRelocations_flips :
    let th := thd [(6, 0x100000400)]
    let s := heaped th ref2 2
    let f := s.setDie 0 { s.die 0 with weevil := [⟨1, 2, 1, 1, 64, 0x100000000, 0x100000400, [], [], [], [0], .flipping, false⟩] }
    let p : State := { heaped th ref2 with poison := [0x801] }
    Executing f 0 (th.wq 1 ref2) ∧ Executing p 0 (th.wq 1 ref2) ∧ f.flipOpen 0 1 2 = true ∧ s.flipOpen 0 1 2 = false ∧ p.memOk ∧
    (p.resolve 0 ref2).1 = .poisoned 0x200000040 ∧ (p.resolve 0 (ref2 + 0x8000000000000000)).1 = .poisoned 0x200000040 ∧
    ref2.getLsbD 63 = false ∧ (ref2 + 0x8000000000000000).getLsbD 63 = true := ⟨⟨rfl, rfl⟩, ⟨rfl, rfl⟩, by unfold State.memOk; decide⟩

/-- A thread on a stage core. -/
def staged : Thread := { thd [] with cls := .stage }
theorem meets_MaskedLanesAndCompares_stage : Executing (dev staged) 0 staged ∧ staged.cls = .stage := ⟨exd _, rfl⟩
theorem meets_MaskRegisterOperations_stage : Executing (dev staged) 0 staged ∧ staged.cls = .stage := ⟨exd _, rfl⟩
theorem meets_WholeVectorInstructions_stage : Executing (dev staged) 0 staged ∧ staged.cls = .stage := ⟨exd _, rfl⟩
/-- A stage core; a store of a lane to a page not yet dirty, with the ring full and with room. -/
theorem meets_VectorLoadsAndStores_full :
    let th := thd [(6, 0x100000000)]
    let s (n : Nat) : State := logging (paged th 0x100000000001001F) 0x100000 n
    Executing (dev staged) 0 staged ∧ staged.cls = .stage ∧ (∀ n, Executing (s n) 0 th) ∧
    (s 63).access th 0x100000000 4 .store .base (some 0) = .ok (.loc 0x10000) ∧ (s 64).logFits 0 0 [0x100000000] = false ∧
    (s 63).logFits 0 0 [0x100000000] = true := ⟨exd _, rfl, fun _ => ⟨rfl, rfl⟩, by decide⟩

/-- A swap that has started, with the shadow ready, empty and neither. -/
theorem meets_PlanesAndStreamedRows_swap :
    let c : ArrayCmd := ⟨1, 0, 1, 1, .swap, true, 0, false⟩
    let x : Tile := { Tile.idle with rowQ := [c], shadow := ⟨.valid, 0, []⟩ }
    let e : Tile := { x with shadow := ⟨.loading, 0, []⟩ }
    let later : Tile := { x with rowQ := [⟨1, 0, 1, 1, .strm .bb 1 3 0 0 0, false, 0, false⟩, ⟨2, 0, 1, 1, .strm .bb 1 3 0 1 0, false, 0, false⟩] }
    x.rowQ.head? = some c ∧ c.op = .swap ∧ c.started = true ∧ x.shadow.state = .valid ∧ e.rowQ.head? = some c ∧ e.shadow.state = .loading ∧
    laterStrm later 1 1 = true ∧ laterStrm x 1 1 = false ∧ later.rowQ.head?.map (fun c => (c.started, c.cancelled)) = some (false, false) := by decide

/-- A swap to be cancelled that has started; a writeback whose next row is poisoned. -/
theorem meets_ArrayCommandsWriteStopAndFail_poison :
    let sw : ArrayCmd := ⟨1, 0, 1, 1, .swap, true, 0, true⟩
    let wb : ArrayCmd := ⟨1, 0, 1, 1, .wb 3 1 0 0 4 false, false, 0, false⟩
    let x : Tile := { arrayTile [] [.wb 3 1 0 0 4 false] with accPoison := [1024] }
    ({ Tile.idle with rowQ := [sw] } : Tile).rowQ.head? = some sw ∧ sw.cancelled = true ∧ x.rowQ.head? = some wb ∧ wb.pos < 4 ∧
    x.wbReady wb 3 (128 * outBytes 0) = true ∧ x.rowPoisoned 1 (0 + wb.pos) = true := by decide

/-- A row 127, and one past it. -/
theorem meets_ArrayCommandsAndAccumulatorReads_row0 : ¬127 < (0x7F : Nat) ∧ 127 < (0x80 : Nat) ∧ (0x80 + 0 : Nat) ≤ 128 := by decide

/-- An area at a peer that has not been read, and one that has; one that is all here. -/
theorem meets_StreamsFramesAndSnapshots_peer :
    let g : List Seg := [⟨0x100000000, 64, some 3, 0x50, (0, 0)⟩]
    let st : Stream := { areaStream with rsaddr := 0x100000000 }
    let th : Thread := { thd [] with peer := [⟨0x100000000, 64, false, List.replicate 64 0, .ok, 0⟩] }
    (State.areaStop (thd []) (State.areaPeers st g)).isSome = true ∧ State.areaStop th (State.areaPeers st g) = none ∧
    State.areaStop (thd []) (State.areaPeers st [⟨0x100000000, 64, none, 0x50, (0, 0)⟩]) = none := by decide

/-- A list to be written to a page not yet dirty, with the ring full and with room. -/
theorem meets_PrefixesDrawsAndTrees_full :
    let th := thd [(6, 0x100000000)]
    let s (n : Nat) : State := logging (paged th 0x100000000001001F) 0x100000 n
    (∀ n, Executing (s n) 0 th) ∧ (s 64).logFits 0 0 [0x100000000, 0x100000008] = false ∧ (s 63).logFits 0 0 [0x100000000, 0x100000008] = true :=
  ⟨fun _ => ⟨rfl, rfl⟩, by decide⟩

/-- A scope that joined behind a stalled link; a parked thread that waits for it; an operation that is out; the item whose
turn a tile's range registers are. -/
theorem meets_WaitsSlicesAndDispatch_turn :
    let w : Thread := { thd [] with wait := some ⟨.join 0x40000001 1, 5, 0⟩ }
    let s : State := idle [(0, w)]
    let saved : Thread := { thd [] with loc := .queued, latlim := 1 }
    let it : Item := ⟨false, 9, 5, 0, 0, some 0, .compute⟩
    let q : State := ((idle [(9, { thd [] with loc := .queued, wait := none })]).setCluster 0 { Cluster.idle with ready := [it] }).setTile 0 { Tile.idle with rangeTurn := some 9 }
    s.joinHeard w 0x40000001 = true ∧ (stalling s 1).joinHeard w 0x40000001 = false ∧ saved.stepping = none ∧ saved.halting = false ∧
    (q.turnItem 0 = some it → q.fitTile 0 it = some 0) ∧ (idle []).turnItem 3 = none ∧ (idle []).turnItem 0 = none ∧ (thd []).remoteOut = none ∧ (thd []).peer = [] := by
  decide

/-- A return, a walk and a first store behind a stalled link; a root scope's last return, of a command that is silent and
one that is not; an ended thread's window that an operation touches and not; a scope of a die whose ports stall. -/
theorem meets_ReturnsJoinsAndTranslations_links :
    let s : State := { stalling (idle []) 1 with returns := [⟨0x40000001, 1, .member, 0⟩], input := .num 0 }
    let root : State := { idle [] with returns := [⟨1, 0x10000000000, .member, 0⟩], input := .num 0, cmds := [(1, kcmd 0 [])] }
    let far := stalling (logging (dev (thd [])) 0x3000100000 0) 1
    let w : Window := ⟨ref2, 0x100000000, 64, false, 5⟩
    let t (c : Copy) : State := { (idle []).setTile 0 { Tile.idle with tracker := [⟨1, 1, 5, [w], none⟩], copies := [c] } with input := .num2 0 1 }
    let shut : State := (List.range 4).foldl stalling (idle [])
    (s.returns[0]? = some ⟨0x40000001, 1, .member, 0⟩ ∧ s.linkOpen 0 (0x40000001 / 0x40000000) = false) ∧
    (root.scope? 1 = some root0 ∧ root0.state = .closing ∧ root0.o - 0x10000000000 = 0 ∧ root0.parent = 0 ∧ (tfind root.cmds root0.cmd).map (·.silent) = some false ∧
      ({ kcmd 0 [] with silent := true } : Command).silent = true) ∧
    (root.linkOpen 0 (1 / 0x40000000) = true) ∧ far.walkHeld 0 0 0x100000000 = true ∧
    ((t copy1).tile 0).tracker.find? (fun k => k.tid == 1) = some ⟨1, 1, 5, [w], none⟩ ∧ (t copy1).engineBusy 0 1 = true ∧ (t copy1).memOk ∧
    (t copy1).windowFree 0 1 w = true ∧ (t { copy1 with src := 0x100000000, rows := 1, rowBytes := 8 }).windowFree 0 1 w = false ∧
    shut.fabricOpen 0 = false ∧ (idle []).fabricOpen 0 = true := by unfold State.memOk; decide

/-- A copy's piece behind a stalled link; one whose source is poisoned and whose destination is open. -/
theorem meets_CopiesWritePiecesAndFinish_links :
    let c : Copy := { copy1 with srcSegs := [⟨0x1000, 1000, none, 0x3000000000, (0, 0)⟩] }
    let s : State := { stalling (copying (thd []) c) 1 with input := .num2 0 1 }
    let p : State := { copying (thd []) with input := .num2 0 1, poison := [tlLoc 0 0x1000 / 64] }
    s.copy? 0 1 = some c ∧ segRuns c.srcSegs 128 0x1000 128 = [(none, 0x3000000000, 128)] ∧ s.homeOpen 0 0x3000000000 = false ∧ s.copyWaits 0 1 true = false ∧
    s.homeOpen 0 (tlLoc 0 0x10080) = true ∧ (stalling s 0).homeOpen 0 0x3000000000 = false ∧ p.homeOpen 0 (tlLoc 0 0x1000) = true ∧
    p.poisonIn (tlLoc 0 0x1000) 128 ≠ none ∧ p.homeOpen 0 (tlLoc 0 0x10080) = true := by decide

/-- A slice behind a stalled link and open ones; a flip that a die does not answer; an abandoned relocation with a slice
written. -/
theorem meets_RelocationsCopyFlipAndEnd_links :
    let r : Reloc := ⟨1, 2, 1, 1, 1000, 0x100000, 0x3000000000, [⟨0x100000, 1000, none, 0x100000, (0, 0)⟩], [⟨0x3000000000, 1000, none, 0x3000000000, (0, 0)⟩], [], [0], .pass 1 [1], true⟩
    let s : State := { State.reset.setDie 0 { State.reset.die 0 with weevil := [r] } with input := .num3 0 1 2 }
    State.reset.sliceOpen 0 r 1 = true ∧ (stalling s 1).sliceOpen 0 r 1 = false ∧ (∃ d < 4, (stalling s 1).linkOpen 0 d = false) ∧ (∀ d < 4, s.linkOpen 0 d = true) ∧
    s.relocOf 0 1 2 = some r ∧ r.abandon = true ∧ r.phase ≠ .flipping ∧ 0 ∈ r.copied ∧ s.mem = [] := by decide

/-- Answers that wait at the ports and that are heard, poisoned and refused; operations of peers that wait; a device that
is the domain's time master. -/
theorem meets_RemoteOperationsLinksAndTime_ports :
    let m (k : RemoteKind) : Remote := ⟨4, 0, 0, 1, 3, 0x50, 0x100000000, 8, k, 1, 6, 0, false⟩
    let th : Thread := { thd [] with remoteOut := some 4 }
    let s (k : RemoteKind) (a : AckData) : State := { (idle [(0, th)]).setTile 0 { Tile.idle with copies := [copy1] } with remotes := [m k], input := .ack 4 a }
    let shut (s : State) : State := (List.range 4).foldl stalling s
    let p : State := { State.reset with input := .peer 3 1 (.load 0x1000 8) }
    (∀ k a, (s k a).remotes.find? (fun r => r.id == 4) = some (m k) ∧ (s k a).thread? 0 = some th) ∧ (s .load .refused).fabricOpen 0 = true ∧
    (shut (s .load .refused)).fabricOpen 0 = false ∧ (s (.copyWrite 1 [1]) .refused).copy? 0 1 = some copy1 ∧ p.fabricOpen 0 = true ∧ (shut p).fabricOpen 0 = false ∧
    peerAddr (.load 0x1000 8) / dieRange = 0 ∧ State.reset.portOpen = true ∧ (shut State.reset).portOpen = false ∧
    (State.reset.timeMaster = false ∧ ({ State.reset with timeMaster := true } : State).timeMaster = true) := by
  refine ⟨fun _ _ => ⟨rfl, rfl⟩, ?_⟩
  decide

/-- A takeover and its NOTIFY writes; a completion whose ring or root's die is behind a stalled link; a queue in
ERROR that is drained, and one that is not. -/
theorem meets_KilnTakesPlacesAndPosts_waits :
    let late : State := { State.reset with takeoverUntil := 5, lateNotify := [(0, 1)] }
    let far : State := { fed 0 0 with queues := [(0, { queue0 with cbase := 0x3000000000 })] }
    let root : State := { stalling (fed 0 0) 1 with cmds := [(1, { kcmd 1 [] with root := 0x40000001, phase := .finished })], donePosts := [1] }
    let bad (c : Table Command) : State := { fed 0 0 with queues := [(0, { queue0 with state := .error, errVal := some 7 })], cmds := c }
    (late.time < late.takeoverUntil ∧ ({ late with time := 5 } : State).takeoverUntil ≤ ({ late with time := 5 } : State).time ∧ State.reset.lateNotify = []) ∧
    State.reset.kilnChoice = none ∧ late.kilnServes = false ∧ (fed 0 0).kilnServes = true ∧ (stalling far 1).homeOpen 0 0x3000000000 = false ∧
    (fed 0 0).homeOpen 0 0x310000 = true ∧ root.linkOpen 0 (0x40000001 / 0x40000000) = false ∧ root.donePosts = [] ++ 1 :: [] ∧
    ((bad []).queue 0).errVal = some 7 ∧ ((bad []).queue 0).state = .error ∧ (∀ p ∈ (bad []).cmds, p.2.queue = 0 → p.2.silent = true) ∧
    (∃ p ∈ (bad [(1, kcmd 11 [])]).cmds, p.2.queue = 0 ∧ p.2.silent ≠ true) ∧ (∀ j ∈ (bad []).donePosts, tfind (bad []).cmds j = none) ∧ (fed 0 0).memOk := by
  unfold State.memOk; decide

/-- Every command of the Kiln finds its links open on a device where no die stalls, and not behind a stalled one; a
WAIT_TOKEN that holds its queue and one that does not; a heap whose last page would reach a hole. -/
theorem meets_KilnCommandsKillHeapsAndStreams_links :
    let ws : List Word := [0, 1, 0x20000, 0, 0, 0, 0, 0]
    (∀ op ∈ [(2 : Nat), 3, 4, 5, 6, 7, 8, 9, 10, 11, 12], (kiln op ws).cmdOpen (kcmd op ws) = true) ∧
    (stalling (kiln 6 [0, 1]) 1).cmdOpen (kcmd 6 [0, 1]) = false ∧ (({ queue0 with hold := some 1 } : Queue).hold = some 1 ∧ queue0.hold ≠ some 1) ∧
    inMemory 0x2CB4170000 (65536 * ((64 + 65535) / 65536)) = false ∧ inMemory 0x2CB4170000 64 = true := by decide

/-- A command that drains, done and not; an entry that waits behind a stalled die, that owes a signal and that owes
none; a step that is to come, before and at its cycle boundary; a group's message that waits. -/
theorem meets_SpacesThresholdsClocksAndGroups_waits :
    let c : Copy := { copy1 with srcSegs := [⟨0x100000000, 1000, none, 0x10000, (0x100000000, 65536)⟩] }
    let u : State := { (State.reset.setTile 0 { Tile.idle with copies := [c] }) with scopes := [(0, { root0 with cmd := 9 })] }
    let k : Command := { kcmd 8 [0, 1] with phase := .draining [1] }
    let e : Threshold := ⟨1, 1, true, 50, 5, 1, true, 0, 1, some 60⟩
    let x : Die := { State.reset.die 0 with phase := 5, nextMhz := some 1500 }
    let t : State := { State.reset with thresholds := [(3, e)], tasks := [(0, task0 .published 2 none)] }
    let w : State := { t with thresholds := [(3, { e with owed := 0 })] }
    (State.opsDone u [1] = false ∧ State.opsDone State.reset [1] = true) ∧ k.phase = .draining [1] ∧ k.silent = false ∧ State.reset.cmdOpen k = true ∧
    (∃ d ∈ (stalling t 1).thresholdDies e, (stalling t 1).linkOpen 0 d = false) ∧ (∀ d ∈ t.thresholdDies e, t.linkOpen t.kilnDie d = true) ∧
    (t.signal e.task).toOption.isSome = true ∧ (0 < e.owed ∧ e.armed = true) ∧ (tfind w.thresholds 3).map (·.owed) = some 0 ∧
    (x.nextMhz = some 1500 ∧ 18 * 0 < State.cycleLen x.mhz - x.phase ∧ State.cycleLen x.mhz - x.phase ≤ 18 * 1) ∧
    ((List.range 4).foldl stalling State.reset).portOpen = false := by decide

/-- The host's writes during a stall, a stall of the link to the Kiln, a takeover, and on a device that did not
boot; queues that do not exist; a function reset that is not over, one whose scopes joined, and one of 100 ms; a
grant to a locked function; an access whose home is behind a stalled link. -/
theorem meets_HostRegisters_waits :
    let on2 : State := { stalling State.reset 2 with kilnDie := 2 }
    let r (b : Bool) (now : Nat) : State := { State.reset with funcs := [(2, { Func.idle with flr := true })], cmds := [(1, { kcmd 1 [] with queue := 32, root := 1, silent := b })], time := now }
    let l : State := { State.reset with funcs := [(2, { Func.idle with tdisp := .locked }), (3, { Func.idle with tdisp := .run })] }
    ((stalling State.reset 0).time < ((stalling State.reset 0).die 0).stallUntil ∧ on2.hostKiln = false ∧ on2.hostOpen = true ∧ on2.takeoverUntil ≤ on2.time) ∧
    ({ State.reset with booted := false } : State).booted = false ∧ State.reset.hostKiln = true ∧ ({ State.reset with takeoverUntil := 5 } : State).time < 5 ∧
    (((r true 5).func 2).flr = true ∧ (r true 5).silentLive 2 = true ∧ (r true 5).time < ((r true 5).func 2).flrAt + 100000000 ∧ (r false 5).silentLive 2 = false ∧
      ((r true 100000000).func 2).flrAt + 100000000 ≤ (r true 100000000).time) ∧
    (l.locked 2 = true ∧ (2 : Word).toNat % 64 = 2 ∧ l.locked (l.regOwner (.grant 5)) = false) ∧
    ((stalling State.reset 1).homeOpen 0 0x3000001000 = false ∧ State.reset.homeOpen 0 0x3000001000 = true) ∧ ((l.func 3).tdisp = .run ∧ (0 : Word).getLsbD 0 = false) ∧
    ((Queue.idle).notify = (Queue.idle).ridx ∧ (queue0).notify ≠ (queue0).ridx) := by decide

/-- Function 0 with no command; a function with an IDE stream and one without; a clock inside a cycle and at a boundary; a
heartbeat that is late and one that is not; a Kiln that failed. -/
theorem meets_ResetsFailuresAndThermalSteps_more :
    let f (t : Tdisp) (b : Bool) : State := { State.reset with funcs := [(2, { Func.idle with tdisp := t, ide := b })] }
    (State.reset.cmds = [] ∧ State.reset.lateNotify = [] ∧ State.reset.hostKiln = true) ∧ ((f .unlocked true).func 2).ide = true ∧ ((f .unlocked false).func 2).ide = false ∧
    ((f .unlocked true).func 2).tdisp = .unlocked ∧ ({ State.reset with kilnFailed := true } : State).kilnFailed = true ∧ (10000 ≤ 10000 ∧ 9999 < 10000) ∧
    ((State.reset.die 1).phase = 0 ∧ ({ State.reset.die 1 with phase := 5 } : Die).phase ≠ 0) ∧ (State.reset.die 1).nextMhz.getD (State.reset.die 1).mhz = 1800 ∧
    ({ State.reset.die 1 with nextMhz := some 900 } : Die).nextMhz.getD 1800 = 900 ∧ ({ State.reset with tripped := true } : State).tripped = true := by decide

/-- Threads to halt: one that waits for a steal, one with an operation at a peer, and plain ones; entries of this session
and of another; a stepped wait that goes on, and one that ends its thread; a parked thread. -/
theorem meets_DebugRequests_more :
    let th : Thread := { thd [] with cmd := 1 }
    let out : Thread := { th with remoteOut := some 4 }
    let steal : Thread := { th with wait := some ⟨.steal 3, 5, 0⟩ }
    let h : Thread := { th with halted := some .request, wait := some ⟨.recv 7, 5, 0⟩ }
    let park : Thread := { h with loc := .parked }
    let s := asked (asking 0x12 0 []) h
    let s1 := (awaits s 0 (.step 1)).evalWait 0 { h with halted := none, stepping := some 0 } ⟨.recv 7, 5, 0⟩
    (Halts 0 out { out with halting := true, haltedBy := 0 } ∧ (out.wait = none ∧ out.remoteOut.isSome = true)) ∧ steal.wait = some ⟨.steal 3, 5, 0⟩ ∧
    (th.bpBy[0] = 0 ∧ ({ th with bpBy := th.bpBy.set 0 3 } : Thread).bpBy[0] ≠ 0) ∧ ((s.threads.map (·.1)).Nodup ∧ ∀ p ∈ s.threads, p.2.halting = false ∧ p.2.remoteOut = none ∧ p.2.peer = []) ∧
    (∃ x, s1.thread? 0 = some x ∧ x.ending = false ∧ x.stepping = some 0 ∧ x.halting = false ∧ x.halted = none ∧ x.stalled = false ∧
      x.remoteOut = none ∧ x.reuse = 1 ∧ ∀ l rd t0, x.wait ≠ some ⟨.steal l, rd, t0⟩) ∧ park.loc = .parked ∧ park.wait.isSome = true ∧
    (∀ d < 4, State.reset.stalledDie d = false) := by
  refine ⟨⟨⟨fun h => ?_, fun _ _ => ⟨fun _ => rfl, fun h => absurd ⟨rfl, .inl rfl⟩ h, fun h => absurd ⟨rfl, .inl rfl⟩ h⟩⟩, ?_⟩, rfl, ?_, ?_,
    ⟨_, rfl, rfl, rfl, rfl, rfl, rfl, rfl, rfl, fun _ _ _ h => ?_⟩, ?_⟩
  · rcases h with h | h <;> cases h
  · exact ⟨rfl, rfl⟩
  · decide
  · decide
  · cases h
  · decide

/-! ### Further clauses: watchpoints and breakpoints, checks, faults behind a link -/

/-- A thread whose watchpoint 0, of 8 bytes, is met by what CTL says: loads and stores unless it says otherwise. -/
def watching (th : Thread) (a : Word) (ctl : Word := 0x700000008) : Thread := { th with wp := th.wp.set 0 ⟨a, ctl, 0⟩ }
/-- A second thread of scope 1 at another tile. -/
def beside (s : State) (l : Nat) : State := { s with threads := s.threads ++ [(1, { thd [] with tile := l })] }

/-- Hits with ACTION 0 and 1; with a session and without; with the scope's other thread behind a stalled link and not. -/
theorem meets_StepRunsDecodedInstruction_hits :
    let w := watching (thd []) 0x100
    let v := watching (thd []) 0x100 0xF00000008
    let b : Thread := { thd [] with bp := (thd []).bp.set 2 0x1001 }
    let c : Thread := { thd [] with bp := (thd []).bp.set 7 0x1003 }
    let far := stalling (beside (dev (thd [])) 256) 1
    let sess : State := { dev (thd []) with funcs := [(0, { Func.idle with session := some ⟨5, []⟩ })] }
    w.wp[0].ctl.getLsbD 35 = false ∧ v.wp[0].ctl.getLsbD 35 = true ∧ w.wpBy[0] = 0 ∧ ((dev w).func 0).session = none ∧ (sess.func 0).session.isSome = true ∧
    far.haltFar 0 1 = true ∧ (beside (dev (thd [])) 256).haltFar 0 1 = false ∧ ((beside (dev (thd [])) 256).threads.map (·.1)).Nodup ∧
    (beside (dev (thd [])) 256).under 1 256 (thd []).sid0 = true ∧
    (BreaksAt b 2 ∧ ∀ j < 2, ¬BreaksAt b j) ∧ b.bp[2].getLsbD 1 = false ∧ BreaksAt c 7 ∧ c.bp[7].getLsbD 1 = true := by
  refine ⟨?_, ?_, ?_, ?_, ?_, ?_, ?_, ?_, ?_, ⟨⟨rfl, rfl, _, rfl, by decide⟩, ?_⟩, ?_, ⟨rfl, rfl, _, rfl, by decide⟩, ?_⟩ <;> first | decide | skip
  rintro j hj ⟨-, -, x, hx, hy, -⟩
  have : x = 0 := by
    match j, hj with
    | 0, _ => exact (Option.some.inj hx).symm
    | 1, _ => exact (Option.some.inj hx).symm
  subst this
  cases hy

/-- A load, a store, a float access and an LDS that meet a watchpoint; an MCST, an atomic, a wait and BAR likewise. -/
theorem meets_watchpoints :
    (let th := watching (thd [(6, 0x100), (7, 9)]) 0x100
     (∀ p ∈ loadForms th 5 6 0 .die, (dev th).access th p.2.1 p.2.2.1 .load .base = .error (.watch 0)) ∧
     (∀ p ∈ storeForms th 6 7 0 .die, (dev th).access th p.2.1 p.2.2.1 .store .base (some 9) = .error (.watch 0)) ∧
     (dev th).access th 0x100 4 .load .base = .error (.watch 0) ∧ (dev th).access th 0x100 4 .store .base (some ((th.rf 1).val.setWidth 64)) = .error (.watch 0) ∧
     (∀ z ∈ [(Size.b, (1 : Nat)), (Size.h, 2), (Size.w, 4), (Size.d, 8)], (dev th).access th 0x100 z.2 .load .lds = .error (.watch 0)) ∧
     (dev th).waitCond (seen th) (.word .eq 0x100 5) = .error (.watch 0)) ∧
    (let th := watching (thd [(6, 0x100000000), (7, 9)]) 0x100000000
     (paged th 0xA00000000010033F).mcstPlaces th 0x100000000 8 9 = .error (.watch 0)) ∧
    (let th := watching (thd [(6, 0x60000)]) 0x60000
     (dev th).access th 0x60000 4 .load .base = .error (.trap 5 0x60000)) := by decide

/-- An atomic whose read meets the watchpoint, and one whose write alone does; a written value that VALUE names and one
that it does not. -/
theorem meets_AtomicsReturnOldAndWriteNew_watch :
    let r := watching (thd [(5, 9), (6, 0x100), (7, 3)]) 0x100
    let w := watching (thd [(5, 9), (6, 0x100), (7, 3)]) 0x100 0x500000008
    let v := watching (thd [(5, 9), (6, 0x100), (7, 3)]) 0x100 0x1500000008
    let s (th : Thread) := (dev th).putNum (tlLoc 0 0x100) 8 9
    (r.skipCheck = false ∧ ∃ x, r.wp[0]? = some x ∧ Watches x 0x100 8 .load none) ∧
    (∀ j : Nat, j < 4 → ∀ x, w.wp[j]? = some x → ¬Watches x 0x100 8 .load none) ∧
    (w.skipCheck = false ∧ ∃ x, w.wp[0]? = some x ∧ Watches x 0x100 8 .store (some 3)) ∧
    (∃ x, v.wp[0]? = some x ∧ ¬Watches x 0x100 8 .store (some 3) ∧ Watches x 0x100 8 .store (some 0)) ∧
    Executing (s r) 0 r ∧ (s w).access { w with skipCheck := true } 0x100 8 .amo .base = .ok (.loc (tlLoc 0 0x100)) := by
  refine ⟨⟨rfl, _, rfl, ?_⟩, ?_, ⟨rfl, _, rfl, ?_⟩, ⟨_, rfl, ?_, ?_⟩, ⟨rfl, rfl⟩, ?_⟩
  · exact ⟨rfl, by decide, by decide, .inl ⟨by decide, rfl⟩⟩
  · intro j hj x hx
    match j, hj with
    | 0, _ => cases hx; rintro ⟨-, -, -, h | h⟩ <;> [exact absurd h.2 (by decide); exact h.1 rfl]
    | 1, _ => cases hx; rintro ⟨h, -⟩; cases h
    | 2, _ => cases hx; rintro ⟨h, -⟩; cases h
    | 3, _ => cases hx; rintro ⟨h, -⟩; cases h
  · exact ⟨rfl, by decide, by decide, .inr ⟨by decide, rfl, fun h => by cases h⟩⟩
  · rintro ⟨-, -, -, h | ⟨-, -, h⟩⟩
    · exact h.1 rfl
    · exact absurd (h rfl 3 rfl) (by decide)
  · exact ⟨rfl, by decide, by decide, .inr ⟨by decide, rfl, fun _ v h => by cases h; decide⟩⟩
  · decide

/-- BAR records whose word 0 is read, whose word 1 is read, and whose word 0 is written under a watchpoint. -/
theorem meets_BufferWaitsTagWaitsAndBarriers_watch :
    let th := thd [(9, 0x200)]
    let s (t : Thread) := (dev t).putNum (tlLoc 0 0x200) 8 0x0000000700010002
    let a := watching th 0x200
    let b := watching th 0x208
    let c := watching th 0x200 0x500000008
    (∀ t, Executing (s t) 0 t) ∧ (∀ t ∈ [th, a, b, c], (s t).barPlaces (seen t) 0x200 = .ok (.loc (tlLoc 0 0x200), .loc (tlLoc 0 0x208))) ∧
    (a.skipCheck = false ∧ ∃ w, a.wp[0]? = some w ∧ Watches w 0x200 8 .load none) ∧ (∃ w, b.wp[0]? = some w ∧ Watches w 0x208 8 .load none ∧ ¬Watches w 0x200 8 .load none) ∧
    (∃ w, c.wp[0]? = some w ∧ Watches w 0x200 8 .store (some 0x800000002) ∧ ¬Watches w 0x200 8 .load none ∧ ¬Watches w 0x208 8 .load none) ∧
    (∀ (w : Watch), w = ⟨0, 0, 0⟩ → ¬Watches w 0x200 8 .load none) ∧ leAt (s th) (tlLoc 0 0x208) 8 ≤ 5 := by
  refine ⟨fun _ => ⟨rfl, rfl⟩, by decide, ⟨rfl, _, rfl, rfl, by decide, by decide, .inl ⟨by decide, rfl⟩⟩,
    ⟨_, rfl, ⟨rfl, by decide, by decide, .inl ⟨by decide, rfl⟩⟩, fun h => absurd h.2.1 (by decide)⟩,
    ⟨_, rfl, ⟨rfl, by decide, by decide, .inr ⟨by decide, rfl, fun h => by cases h⟩⟩, ?_, fun h => absurd h.2.2.1 (by decide)⟩, ?_, by decide⟩
  · rintro ⟨-, -, -, h | h⟩
    · exact absurd h.2 (by decide)
    · exact h.1 rfl
  · rintro w rfl ⟨h, -⟩; cases h

/-- References whose access meets a watchpoint, and whose access fails a check. -/
theorem meets_ReferencesResolveLoadAndStore_watch :
    let th := watching (thd [(6, 8)]) 0x100000008
    let s := heaped th ref2
    let t := th.wq 1 ref2
    let n : State := { s with tiles := [] }
    Executing s 0 t ∧ Executing n 0 t ∧ (s.resolve 0 ref2).1 = .live ⟨0x20000, 4, 0x200000000⟩ 2 ⟨1, 0x100000000, 0, 5, 64, 0⟩ ∧
    (s.resolve 0 ref2).2.access t 0x100000008 8 .load .ref = .error (.watch 0) ∧ (s.resolve 0 ref2).2.access t 0x100000008 8 .store .ref (some 9) = .error (.watch 0) ∧
    (n.resolve 0 ref2).1 = .live ⟨0x20000, 4, 0x200000000⟩ 2 ⟨1, 0x100000000, 0, 5, 64, 0⟩ ∧ (n.resolve 0 ref2).2.access t 0x100000008 8 .load .ref = .error (.trap 13 0x100000008) ∧
    (n.resolve 0 ref2).2.access t 0x100000008 8 .store .ref (some 9) = .error (.trap 15 0x100000008) := ⟨⟨rfl, rfl⟩, ⟨rfl, rfl⟩, by decide⟩

/-- Lanes 0 and 2 active; the second meets a watchpoint. -/
theorem meets_VectorLoadsAndStores_watch :
    let th := watching ({ (vth [7, 8] [1, 0] 5 0x100).wx 7 (.of 8) with vpred := 1 }) 0x108
    Executing (dev th) 0 th ∧ reached th (laneAddrs th 6 7 3 0).1 = [(0, 0x100)] ++ (2, 0x108) :: [] ∧
    (dev th).access th 0x100 4 .load .base = .ok (.loc (tlLoc 0 0x100)) ∧ (dev th).access th 0x108 4 .load .base = .error (.watch 0) ∧
    (dev th).access th 0x100 4 .store .base (some 7) = .ok (.loc (tlLoc 0 0x100)) ∧ (dev th).access th 0x108 4 .store .base (some 7) = .error (.watch 0) :=
  ⟨exd _, by decide⟩

/-- The checks of R165, one access that each of them stops and one that none does: no window; a reference to a window; a
walk behind a link; no page, no permission; a reference to an ORDINARY page; a HEAP page without a pin window and with
one; an atomic on a REPLICA page; a first store behind a link and with a full log ring; an owned buffer; the locks of a
copy; a place behind a link; poison; a watchpoint. -/
theorem meets_MisalignedAccessesTrap_checks :
    let th := thd []
    let leaf (w : Word) : State := paged th w
    let cls (w : Word) : Nat := (⟨w, 0, 0x100000000, 0x10000⟩ : Leaf).cls
    (∀ w ∈ windowsOf, ¬(w.1 ≤ 0x60000 ∧ 0x60000 < w.2)) ∧ ((0x10000000, 0x10400000) ∈ windowsOf ∧ (0x3FFFFFFF : Nat) < 2 ^ 32) ∧
    (stalling (logging (dev th) 0x3000100000 0) 1).walkHeld 0 0 0x100000000 = true ∧ (dev th).walkHeld 0 0 0x100000000 = false ∧
    (dev th).leafOf 0 0 0x100000000 = none ∧ (∃ f, (leaf 0x100000000001001B).leafOf 0 0 0x100000000 = some f ∧ allows f .load = false ∧ allows f .store = true) ∧
    (∃ f, (leaf 0x000000000001001F).leafOf 0 0 0x100000000 = some f ∧ allows f .load = true ∧ f.cls = 0) ∧
    (∃ f, (leaf 0x200000000001003F).leafOf 0 0 0x100000000 = some f ∧ allows f .amo = true ∧ f.cls = 1) ∧ cls 0xA00000000010033F = 5 ∧
    (¬InPin th 0x100000000 8 .load ∧ InPin { th with windows := [⟨ref2, 0x100000000, 64, true, 5⟩] } 0x100000000 8 .load ∧
      ¬InPin { th with windows := [⟨ref2, 0x100000000, 64, true, 5⟩] } 0x100000000 8 .store) ∧
    (∃ f, (logging (leaf 0x000000000001001F) 0x100000 64).leafOf 0 0 0x100000000 = some f ∧
      (logging (leaf 0x000000000001001F) 0x100000 64).logBlocks 0 0x100000000 f = true ∧ (logging (leaf 0x000000000001001F) 0x100000 64).dirtyHeld 0 0 0x100000000 f = false ∧
      (stalling (logging (leaf 0x000000000001001F) 0x3000100000 0) 1).dirtyHeld 0 0 0x100000000 f = true) ∧
    Stands (dev th) th 0x100 8 .load .base (.loc (tlLoc 0 0x100)) ∧
    (NotOwned ((dev th).setCluster 0 { Cluster.idle with owns := [(3, ⟨.held, 0x100, 4, 1, 0⟩)] }) 0 0x10000100 8 ∧ ¬NotOwned (dev th) 0 0x10000100 8) ∧
    (Locked (copying th) 0 0x10080 8 .load ∧ Locked (copying th) 0 0x1000 8 .store ∧ ¬Locked (dev th) 0 0x1000 8 .store) ∧
    ((stalling (dev th) 1).placeOpen th 0x100000000 (.loc 0x3000000000) = false ∧ (dev th).placeOpen th 0x100 (.loc (tlLoc 0 0x100)) = true) ∧
    ((({ dev th with poison := [4] } : State).badUnit (0x100 / 64) = true) ∧ (dev th).badUnit 4 = false) ∧
    (∃ w, (watching th 0x100).wp[0]? = some w ∧ Watches w 0x100 8 .load none) := by
  refine ⟨by decide, by decide, by decide, by decide, by decide, ⟨_, rfl, by decide, by decide⟩, ⟨_, rfl, by decide, by decide⟩,
    ⟨_, rfl, by decide, by decide⟩, by decide, ⟨?_, ?_, ?_⟩, ⟨_, rfl, by decide, by decide, by decide⟩, ?_, ⟨?_, ?_⟩, ⟨?_, ?_, ?_⟩, by decide, by decide, ?_⟩
  · rintro ⟨w, h, -⟩; cases h
  · exact ⟨_, .head _, by decide, by decide, fun h => absurd rfl h⟩
  · rintro ⟨w, h, -, -, hr⟩
    cases h with
    | head => exact absurd (hr (by decide)) (by decide)
    | tail _ h => cases h
  · exact .inl ⟨by decide, ⟨_, .head _, by decide⟩, by decide, rfl⟩
  · exact ⟨by decide, by decide, _, .head _, by decide, by decide, by decide, by decide⟩
  · rintro ⟨-, -, h, hm, -⟩; cases hm
  · exact ⟨_, .head _, .inl ⟨by decide, by decide, by decide⟩⟩
  · exact ⟨_, .head _, .inr ⟨by decide, by decide, by decide, by decide⟩⟩
  · rintro ⟨k, h, -⟩; cases h
  · exact ⟨_, rfl, rfl, by decide, by decide, .inl ⟨by decide, rfl⟩⟩

/-- A thread with a handle on a scope of die 1, and its device while the links of die 1 stall. -/
def farOwner : Thread := (thd []).wk 1 ⟨.opener, 0x40000001, 1⟩
def farDev (th : Thread := farOwner) : State := stalling (dev th) 1
theorem all_ending {o : Option Thread} (h : o.all (·.ending) = true) : ∀ y, o = some y → y.ending = true := by
  rintro y rfl; exact h

/-- A fault that ends its thread behind a stalled link, in user mode and in machine mode; one that no link holds back. -/
theorem meets_SpelledAndUnassignedWords_held :
    let m : Thread := { farOwner with mode := .machine }
    let t (s : State) (th : Thread) : State := s.trap 0 th 2 0
    HeldBack (farDev) (t farDev farOwner) 0 farOwner ∧ HeldBack (farDev m) (t (farDev m) m) 0 m ∧
    ¬HeldBack (dev farOwner) (t (dev farOwner) farOwner) 0 farOwner ∧ ¬HeldBack farDev farDev 0 farOwner ∧
    decode farOwner.ver 0 = none ∧ (∀ v, decode v 0 = none) ∧ decode .v2 0x0801800B = none ∧ decode .v3 0x0801800B ≠ none := by
  refine ⟨⟨all_ending (by decide), by decide⟩, ⟨all_ending (by decide), by decide⟩, fun h => absurd h.2 (by decide), fun h => absurd (h.1 _ rfl) (by decide), by decide, ?_, by decide, by decide⟩
  intro v; cases v <;> decide

/-- A thread stalled at issue in its turn and one that is not; a matrix fault held for a boundary; a page behind a link;
a word that is none; an EXIT; an instruction whose fault ends its thread behind a link and one that no link holds. -/
theorem meets_StepRunsDecodedInstruction_turns :
    let p : Thread := { thd [] with pendMx := [7] }
    let q : Thread := { thd [] with pc := 0x100000000 }
    let a : Thread := { thd [] with stalled := true }
    let g : Thread := { farOwner with pc := 0x100000000 }
    let s1 : State := { farDev g with cur := some 0 }
    let c : State := (paged g 0x10017).putNum 0x10000 4 0x1400000B
    (p.watch < 2 ^ 30 ∧ p.peer = [] ∧ p.pendMx = 7 :: []) ∧ (thd []).ending = false ∧ (thd []).pendMx = [] ∧ (∀ i, ¬BreaksAt (thd []) i) ∧
    ((dev a).thread? 0 = some a ∧ a.stalled = true ∧ a.remoteOut = none) ∧ ((dev p).thread? 0 = some p ∧ p.stalled = false) ∧
    (stalling (logging (dev q) 0x3000100000 0) 1).fetch q = .error .link ∧ (paged g 0x10017).fetch g = .ok 0 ∧ decode g.ver 0 = none ∧
    decode g.ver 0x1400000B = some .exit ∧ c.fetch g = .ok 0x1400000B ∧ (stalling c 1).fetch g = .ok 0x1400000B ∧ s1.unitsHeld g .exit = true ∧ s1.unitsHeld g (.lds .d 5 6) = false ∧
    (∃ s2, exec (.ld 5 6 0x7FF) s1 = .next s2 ∧ HeldBack s1 s2 0 g) ∧ s1.unitsHeld g (.ld 5 6 0x7FF) = false ∧ ¬HeldBack (dev (thd [])) (dev (thd [])) 0 (thd []) ∧
    (∃ x, (State.reset.withFetchWord 32 0x00700293).pick 0 .compute = some x) ∧ ({ dev (thd []) with threads := [] } : State).pick 0 .compute = none := by
  refine ⟨?_, rfl, rfl, ?_, ⟨rfl, rfl, rfl⟩, ⟨rfl, rfl⟩, ?_, ?_, ?_, ?_, ?_, ?_, ?_, ?_, ⟨_, rfl, all_ending ?_, ?_⟩, ?_, fun h => absurd h.2 (by decide), ⟨_, rfl⟩, ?_⟩ <;> first | decide | skip
  rintro i ⟨-, -, b, hb, hx, -⟩
  have : b = 0 := by
    have h : i < 8 := by by_contra h; simp [Vector.getElem?_eq_none (by omega : 8 ≤ i)] at hb
    rw [Vector.getElem?_eq_getElem h] at hb
    exact (Option.some.inj hb).symm.trans (by simp [thd, State.freshThread, State.fresh])
  subst this
  cases hx

/-- RNGINIT and RCLAIM while a thief waits, with a chunk and fewer numbers left; void operands. -/
theorem meets_LazyRangesAreClaimedAndStolen_thief :
    let th := thd [(5, 8), (6, 16), (7, 24)]
    let thief : Thread := { thd [] with wait := some ⟨.steal 0, 5, 0⟩ }
    let s (r : Ranges) : State := (world [(0, th), (1, thief)] [(0, root0)]).setTile 0 { Tile.idle with ranges := r }
    let few : Ranges := ⟨16, 24, 8, some 257, some 1⟩
    let v (r : XReg) := th.wx r .voidword
    (∀ r, Executing (s r) 0 th) ∧ (∀ r, Executing (dev (v r)) 0 (v r)) ∧ ((s few).tile 0).ranges.thief = some 257 ∧ few.bound = some (th.tid 0) ∧
    few.hi - few.lo ≤ few.chunk ∧ (⟨16, 25, 8, some 257, some 1⟩ : Ranges).chunk < 25 - 16 ∧
    ((th.rx 6).val.toNat < 2 ^ 32 ∧ (th.rx 7).val.toNat < 2 ^ 32 ∧ 0 < (th.rx 5).val.toNat) ∧ ((v 5).rx 5).void = true ∧ ((v 6).rx 6).void = true ∧ ((v 7).rx 7).void = true :=
  ⟨fun _ => ⟨rfl, rfl⟩, fun _ => exd _, by decide⟩

/-- An object with all pins counted; one that a relocation moves already; a Weevil with 64 relocations. -/
theorem meets_ObjectsPinsAndRelocations_limits :
    let th := thd [(6, 0x100000400)]
    let r : Reloc := ⟨1, 1, 1, 1, 64, 0x100000000, 0x100000400, [], [], [], [], .waiting, false⟩
    let s := heaped th ref2 1 65535
    let m := heaped th ref2 2
    let f := (heaped th ref2).setDie 0 { State.reset.die 0 with weevil := List.replicate 64 r }
    Executing s 0 (th.wq 1 ref2) ∧ Executing m 0 (th.wq 1 ref2) ∧ Executing f 0 (th.wq 1 ref2) ∧ (descIn s 0x20040).pins = 65535 ∧ (descIn s 0x20040).state < 2 ∧
    th.windows.length < 8 ∧ s.flipOpen 0 1 2 = false ∧ 2 ≤ (descIn m 0x20040).state ∧ (descIn m 0x20040).pins = 0 ∧ 64 ≤ (f.die 0).weevil.length ∧
    (descIn f 0x20040).state = 1 ∧ (descIn f 0x20040).pins = 0 := ⟨⟨rfl, rfl⟩, ⟨rfl, rfl⟩, ⟨rfl, rfl⟩, by decide⟩

/-- A fault in a wait that a link holds back, and one that none does; a thread parked in SCLOSE whose scope joined before;
a save that answers an item and an item without one; an item ahead of the one whose turn it is. -/
theorem meets_WaitsSlicesAndDispatch_held :
    let w : Thread := { farOwner with wait := some ⟨.word .eq 0x60000 0, 5, 0⟩ }
    let s : State := { farDev w with input := .num 0 }
    let p : Thread := { thd [] with loc := .parked, wait := some ⟨.join 16385 1, 5, 0⟩ }
    let j : State := { idle [(0, p)] with scopes := [(0, root0), (1, { child1 with state := .joined, joinedAt := 7 })], input := .num 0, time := 99 }
    let it (r : Nat) : Item := ⟨false, r, 5, 0, 0, some 0, .compute⟩
    let full : Table Thread := (List.range 4).map (fun c => (c, { thd [] with loc := .resident c, latlim := 1, prio := 1 }))
    let wait : Table Thread := [(9, { thd [] with prio := 5, loc := .queued }), (10, { thd [] with prio := 5, loc := .queued })]
    let q : State := { (idle (full ++ wait)).setCluster 0 { Cluster.idle with ready := [it 9, it 10] } with time := 2000, input := .num 0 }
    let sv : State := { q with threads := tset q.threads 0 { thd [] with loc := .resident 0, latlim := 1, prio := 1, saving := true, savingFor := some (false, 9) } }
    let free : State := { (idle wait).setCluster 0 { Cluster.idle with ready := [it 9, it 10] } with input := .num 0 }
    HeldBack s (s.trap 0 w 5 0x60000) 0 w ∧ ¬HeldBack (dev w) ((dev w).trap 0 w 5 0x60000) 0 w ∧ s.waitCond (seen w) (.word .eq 0x60000 0) = .error (.trap 5 0x60000) ∧
    ((j.scope? 16385).map (fun c => (c.state, c.joinedAt)) = some (.joined, 7) ∧ j.joinHeard p 16385 = true) ∧ ({ thd [] with saving := true } : Thread).ending = false ∧
    (q.ordered (q.cluster 0).ready = [] ++ it 9 :: [it 10] ∧ q.heldItem (it 9) = false ∧ q.fitTile 0 (it 9) = none ∧ q.saveUnderWay (it 9) = false ∧ (q.victim 0 (it 9)).isSome = true) ∧
    (sv.ordered (sv.cluster 0).ready = [it 9] ++ it 10 :: [] ∧ sv.saveUnderWay (it 9) = true ∧ sv.saveUnderWay (it 10) = false ∧ (sv.victim 0 (it 10)).isSome = true) ∧
    (free.setTile 0 { Tile.idle with rangeTurn := some 10 }).turnItem 0 = none ∧
    (let r : State := { free.setTile 0 { Tile.idle with rangeTurn := some 10 } with threads := tset free.threads 10 { thd [] with prio := 5, loc := .queued, saved := some (1, 2, 1) } }
     r.turnItem 0 = some (it 10) ∧ r.fitTile 0 (it 10) = some 0 ∧ r.ordered ((r.cluster 0).ready.filter (fun i => !r.heldItem i)) = [it 9] ++ it 10 :: [] ∧ it 10 ∉ [it 9]) := by
  refine ⟨⟨all_ending (by decide), by decide⟩, fun h => absurd h.2 (by decide), ?_⟩
  decide +kernel

/-- A cancellation and a map-out that a link holds back, and ones that none does; a tile out of service whose copy ends;
a flip whose beginning a link holds back; an abandoned one. -/
theorem meets_ReturnsJoinsAndTranslations_held :
    let far : Table Thread := [(0, { thd [] with tile := 256 })]
    let s : State := { stalling (idle far) 1 with input := .num 1 }
    let m : State := farDev { farOwner with tile := 3 }
    (s.scope? 1).map (·.cancelled) = some false ∧ s.fabricOpen 0 = true ∧ s.treeHeld 0 1 = true ∧ (idle far).treeHeld 0 1 = false ∧
    (∃ l, l / 16 = 0 ∧ m.mapHeld l = true) ∧ (¬∃ l, l / 16 = 0 ∧ State.reset.mapHeld l = true) ∧
    ((State.reset.setTile 0 { Tile.idle with outOfService := true, copies := [copy1] }).tile 0).outOfService = true ∧
    (∃ d < 4, (stalling State.reset 1).linkOpen 0 d = false) ∧ (∀ d < 4, State.reset.linkOpen 0 d = true) := by
  refine ⟨?_, ?_, ?_, ?_, ⟨3, by decide, by decide⟩, ?_, by decide, by decide, by decide⟩
  · decide
  · decide
  · decide
  · decide
  · rintro ⟨l, -, h⟩
    cases h

/-- A part of a stream's area read for a command, and a store at a peer whose scope a link holds. -/
theorem meets_RemoteOperationsLinksAndTime_commands :
    let m (k : RemoteKind) : Remote := ⟨4, 0, 0, 1, 3, 0x50, 0x100000000, 8, k, 1, 6, 0, false⟩
    let s (k : RemoteKind) (a : AckData) : State := { idle [] with remotes := [m k], input := .ack 4 a, cmds := [(9, kcmd 6 [])] }
    let far : State := { stalling (idle [(0, { thd [] with tile := 256 })]) 1 with remotes := [m (.store [1])], input := .ack 4 .refused }
    (∀ k a, (s k a).remotes.find? (fun r => r.id == 4) = some (m k) ∧ (s k a).input = .ack 4 a ∧ tfind (s k a).cmds 9 = some (kcmd 6 [])) ∧
    (m (.cmdRead 9)).kind = .cmdRead 9 ∧ (s (.cmdRead 9) .poisoned).fabricOpen 0 = true ∧ far.treeHeld 0 1 = true ∧ far.fabricOpen 0 = true ∧
    (s (.store [1]) .refused).treeHeld 0 1 = false := by
  refine ⟨fun _ _ => ⟨rfl, rfl, rfl⟩, ?_⟩
  decide

/-- A Kiln whose standby cannot hear of a decision, one without a standby, one that failed. -/
theorem meets_KilnTakesPlacesAndPosts_standby :
    (stalling State.reset 2).decides = false ∧ State.reset.standby = true ∧ State.reset.linkOpen 0 2 = true ∧ State.reset.decides = true ∧
    ({ stalling State.reset 2 with standby := false } : State).decides = true ∧ State.reset.kilnTakes = true ∧ ({ State.reset with devEvents := 128 } : State).kilnTakes = false := by decide

/-- A command of CREATE_STREAM whose area stands at device 3, and its device. -/
def farArea (got : List PeerVal) : Command := { kcmd 6 [0, 0, 7, 1, 0x0081_4067_1200, 64 + 2 ^ 48, 0x2000000000, 0] with got := got }
def farSpace (got : List PeerVal) : State :=
  { ((State.reset.putNum 0x100008 8 0x110001).putNum 0x110028 8 0x120001).putNum 0x120018 8 (0x8018001234400000 + 0xF) with
    aspaces := [(1, ⟨0x100000, none, []⟩)], cmds := [(1, farArea got)], input := .num 1 }
/-- A kill that a link holds back and one that none does; an area at a peer whose part is to be read, was read, and was not
sent; a fabric that is open and not. -/
theorem meets_KilnCommandsKillHeapsAndStreams_peer :
    let live (s : State) : State := { s with cmds := [(9, { kcmd 1 [] with phase := .running, root := 1 })], threads := [(0, { thd [] with tile := 256 })], scopes := [(0, root0)] }
    let part (got : List PeerVal) := missingPart got (State.areaPeers (streamFor (farArea got) 0 0 []) ((farSpace got).areaSegs 0 0x00000001 (streamFor (farArea got) 0 0 [])))
    let good : List PeerVal := [⟨0x0081_4067_1200, 64, false, [], .ok, 0⟩]
    let bad : List PeerVal := [⟨0x0081_4067_1200, 64, false, [], .failed, 0⟩]
    (stalling (live State.reset) 1).killHeld 9 1 = true ∧ (live State.reset).killHeld 9 1 = false ∧
    (Carries (farSpace []) 1 (farArea []) 6 (fun k => ((farArea []).words.getD k 0).toNat)) ∧ (part [] = some (false, (0x0081_4067_1200, some 3, 0x1234471200, 64))) ∧
    part good = none ∧ part bad = some (true, (0x0081_4067_1200, some 3, 0x1234471200, 64)) ∧ (farSpace []).freeStream 0 = some (0, 1) ∧
    ((farSpace []).allocRun 0 (slotPages 64)).isSome = true ∧ (farSpace []).kvFree 1 0x2000000000 = true ∧ (∀ k ∈ (farSpace []).remotes, k.kind ≠ .cmdRead 1) ∧
    (farSpace []).fabricOpen 0 = true ∧ ((List.range 4).foldl stalling (farSpace [])).fabricOpen 0 = false ∧
    (∃ k ∈ ({ farSpace [] with remotes := [⟨4, 0, 0, 0, 3, 0x50, 0, 8, .cmdRead 1, 0, 0, 0, false⟩] } : State).remotes, k.kind = .cmdRead 1) := by
  refine ⟨by decide, by decide, ⟨rfl, rfl, rfl, rfl, rfl, by decide, fun _ => rfl⟩, ?_, ?_, ?_, ?_, ?_, ?_, ?_, ?_, ?_, ⟨_, .head _, rfl⟩⟩
  all_goals decide

/-- Clocks at the asked rate, at another, on their way to it and to a third, at a cycle's boundary and inside one; after
a trip; a SET_CLOCK that drains; a group's root that a link holds. -/
theorem meets_SpacesThresholdsClocksAndGroups_steps :
    let d (n : Option Nat) (p : Nat) : Die := { State.reset.die 1 with nextMhz := n, phase := p }
    let s (n : Option Nat) (p : Nat) : State := { State.reset.setDie 1 (d n p) with cmds := [(1, { kcmd 11 [0, 1, 1500] with phase := .draining [] })], input := .num 1 }
    let g : State := { stalling (idle [(0, { thd [] with tile := 256 })]) 1 with scopes := [(0, { root0 with group := 7 })], input := .num 7 }
    (d none 0).mhz = 1800 ∧ (d none 0).phase = 0 ∧ (d none 5).phase ≠ 0 ∧ (d none 0).nextMhz ≠ some 1500 ∧ (d (some 1500) 5).nextMhz = some 1500 ∧ (d (some 900) 5).nextMhz = some 900 ∧
    (s none 0).tripped = false ∧ ({ s none 0 with tripped := true } : State).tripped = true ∧
    ((s (some 1500) 5).cmdOpen { kcmd 11 [0, 1, 1500] with phase := .draining [] } = true ∧ ((s (some 1500) 5).die 1).nextMhz = some 1500 ∧ ((s none 0).die 1).nextMhz ≠ some 1500) ∧
    (g.groupRoots 7 = [(0, { root0 with group := 7 })] ∧ g.portOpen = true ∧ g.treeHeld 0 1 = true ∧ ({ idle [] with scopes := [(0, { root0 with group := 7 })] } : State).treeHeld 0 1 = false) := by decide

/-- A standby that cannot hear; counters 255 and 256; IDE torn down in each TDISP state; a function whose command a link
holds. -/
theorem meets_HostRegisters_standby :
    let live (s : State) : State := { s with cmds := [(9, { kcmd 1 [] with phase := .running, root := 1, queue := 32 })], threads := [(0, { thd [] with tile := 256 })], scopes := [(0, root0)] }
    (stalling State.reset 2).journalOpen = false ∧ State.reset.journalOpen = true ∧ ({ stalling State.reset 2 with standby := false } : State).journalOpen = true ∧
    ((256 : Nat) ≤ 256 ∧ (255 : Nat) < 256) ∧ (0 : Word).getLsbD 0 = false ∧ (∀ t ∈ [Tdisp.unlocked, .error], t ≠ .run ∧ t ≠ .locked) ∧
    (stalling (live State.reset) 1).silenceHeld 2 = true ∧ (live State.reset).silenceHeld 2 = false ∧ (stalling (live State.reset) 1).silenceHeld 3 = false := by decide

/-- What waits for a link: the end of a session's halts, a map-out, a damaged stream's owner, a trip; a standby whose own
state is the Kiln's. -/
theorem meets_ResetsFailuresAndThermalSteps_held :
    let h : Thread := { thd [] with tile := 256, halted := some .request, haltedBy := 2 }
    let st : Stream := { bargeStream with owner := 1 }
    let s (x : State) : State := { stalling x 1 with streams := [(1, st)] }
    let live (s : State) : State := { s with cmds := [(9, { kcmd 1 [] with phase := .running, root := 1 })], threads := [(0, { thd [] with tile := 256 })], scopes := [(0, root0)] }
    (stalling (idle [(0, h)]) 1).unsetFar 2 = true ∧ (idle [(0, h)]).unsetFar 2 = false ∧ (stalling (idle [(0, h)]) 1).unsetFar 3 = false ∧
    (farDev).mapHeld 0 = true ∧ (dev farOwner).mapHeld 0 = false ∧
    ((s (idle [(0, h)])).damageHeld (64 * 0x4000 / 65536 * 65536) = true ∧ (idle []).damageHeld 0x100000 = false) ∧
    ((stalling (live State.reset) 1).tripHeld = true ∧ (live State.reset).tripHeld = false) ∧
    (State.reset.shadow = State.reset.sched ∧ State.reset.replica = State.reset.journal ∧ (∀ p ∈ State.reset.funcs, ∀ k ∈ p.2.tokens, k.1 < 256)) ∧
    (let t := ev .tokenCounterWrite (.num3 2 9 5) (ev .queueEnable (.num 3) State.reset)
     let u := ev .registerWrite (.reg (.control 3) 0x05000204) t
     let v := ev .kilnReload (.flag true) { u with standby := false }
     (ev .kilnTakeover (.num 10000) u).queue 3 = u.queue 3 ∧ (ev .kilnTakeover (.num 10000) u).func 2 = u.func 2 ∧ v.shadow = v.sched ∧ v.shadow ≠ State.reset.sched) := by
  refine ⟨?_, ?_, ?_, ?_, ?_, ?_, ?_, ?_, ?_⟩
  all_goals decide

/-- A code that is none, and one that is another request's; links to a thread and to a scope that stall; a scope that is
no more, and one of another function; entries behind a link; a STEP that a halt overtook; a wait whose fault a link
holds; a wait for a join. -/
theorem meets_DebugRequests_links :
    let th : Thread := { thd [] with cmd := 1 }
    let far (op : Nat) : State := stalling (asked (asking op 0 []) { th with tile := 256 }) 1
    let sc : State := { stalling (asked (asking 0x32 0 [] true 0x40000001) th) 1 with scopes := [(65536, root0)] }
    let other : State := { asked (asking 0x32 0 [] true) th with cmds := [(1, { kcmd 1 [] with queue := 32 })], funcs := [(2, { Func.idle with tdisp := .run }), (0, { Func.idle with session := some ⟨5, []⟩ })] }
    let own : Thread := { th with tile := 256, bpBy := th.bpBy.set 0 0, bp := th.bp.set 0 1 }
    let w : Thread := { farOwner with cmd := 1, halted := some .request, wait := some ⟨.word .eq 0x60000 0, 5, 0⟩ }
    let ws := stalling (asked (asking 0x12 0 []) w) 1
    let j : Thread := { th with halted := some .request, wait := some ⟨.join 16385 1, 5, 0⟩ }
    Asks (asked (asking 0x7F 0 []) th) 0 (asking 0x7F 0 []) 0x7F ∧ 0x7F ∉ [(0x01 : Nat), 0x02, 0x10, 0x11, 0x12, 0x20, 0x21, 0x30, 0x31, 0x32, 0x33, 0x40] ∧
    ((far 0x10).thread? 0 = some { th with tile := 256 } ∧ (far 0x10).linkOpen 0 (tileDie 256) = false) ∧
    (sc.scope? 0x40000001 = some root0 ∧ sc.linkOpen 0 (0x40000001 / 0x40000000) = false) ∧ (asked (asking 0x32 0 [] true 9) th).scope? 9 = none ∧
    (other.scope? 1 = some root0 ∧ other.mayName 0 root0.cmd = false) ∧ (far 0x10).haltFar 0 1 = true ∧
    ((stalling (asked (asking 0x02 0 []) own) 1).unsetFar 0 = true ∧ (asked (asking 0x02 0 []) own).unsetFar 0 = false) ∧
    (let s : State := { asked (asking 0x12 0 []) w with funcs := [(0, { Func.idle with session := some ⟨5, []⟩, dbgWait := [.step 1] })] }
     DbgWait.step 1 ∈ (s.func 0).dbgWait ∧ (stepAnew s 0 1 |>.func 0).dbgOut = [4]) ∧
    HeldBack ws ((awaits ws 0 (.step 1)).evalWait 0 { w with halted := none, stepping := some 0 } ⟨.word .eq 0x60000 0, 5, 0⟩) 0 w ∧
    j.wait = some ⟨.join 16385 1, 5, 0⟩ ∧ j.halted.isSome = true := by
  refine ⟨⟨rfl, by decide, by decide, by decide⟩, by decide, by decide, by decide, by decide, by decide, by decide, by decide, ⟨by decide, by decide⟩, ⟨all_ending (by decide), by decide⟩, rfl, rfl⟩

/-- A row of an MXWB that begins where the accumulator ends, with none to write. -/
theorem meets_ArrayCommandsAndAccumulatorReads_none : ¬128 < (128 + 0 : Nat) ∧ 128 < (128 + 1 : Nat) := by decide

/-- A hit beside reads at peers: weight that they took from k0, with a scope that has it, with none, and with the
scope behind a stalled link; the way to the host port open and stalled; an event already on its way. -/
theorem meets_watchpoints_reads :
    let th : Thread := { thd [] with peer := [⟨0x100000000, 8, false, [], .ok, 5⟩] }
    let far : Thread := th.wk 0 ⟨.birth, 0x40000001, 7⟩
    let s : State := { dev th with funcs := [(0, { Func.idle with session := some ⟨5, []⟩ })] }
    readsTook th = 5 ∧ readsTook (thd []) = 0 ∧ (s.scope? th.sid0).isSome = true ∧ (farDev far).scope? far.sid0 = none ∧
    (farDev far).linkOpen (tileDie far.tile) (scopeDie far.sid0) = false ∧ s.linkOpen (tileDie th.tile) (scopeDie th.sid0) = true ∧
    s.haltFar 0 th.sid0 = false ∧ (s.threads.map (·.1)).Nodup ∧ (s.func 0).session = some ⟨5, []⟩ ∧
    s.hostLink 0 = true ∧ (stalling s 0).hostLink 0 = false ∧ (stalling s 1).hostLink 1 = false ∧
    (0, Post.event 3) ∈ ({ s with posts := [(0, .event 3)] } : State).posts ∧ (0, Post.event 3) ∉ s.posts := by decide

/-- No watchpoint of a thread without any is hit by a read. -/
theorem no_hit (th : Thread) (h : th.wp = Vector.replicate 4 ⟨0, 0, 0⟩) (a n i : Nat) : ¬hitAt th a n i := by
  rintro ⟨-, w, hw, hc, -⟩
  rw [h] at hw
  simp only [Vector.getElem?_replicate] at hw
  split at hw
  · cases hw; exact absurd hc (by decide)
  · cases hw

/-- A load of a peer whose answer a watchpoint meets, and one that none meets; the same for an LDS. -/
theorem meets_PeerAccessesAreRemoteOperations_hits :
    let u : Thread := { thd [(6, 0x100000000)] with peer := [⟨0x100000000, 8, false, [1, 0, 0, 0, 0, 0, 0, 0], .ok, 5⟩] }
    let w := watching u 0x100000000
    let s (th : Thread) := paged th 0x801800000010003F
    Executing (s w) 0 w ∧ (s w).access w 0x100000000 8 .load .base = .ok (.peer 3 0x100000) ∧
    (s w).access w 0x100000000 8 .load .lds = .ok (.peer 3 0x100000) ∧
    (w.peer.find? (fun v => v.addr == 0x100000000 && v.n == 8 && !v.amo)).map (·.ans) = some .ok ∧
    hitAt w 0x100000000 8 0 ∧ (∀ j, j < 0 → ¬hitAt w 0x100000000 8 j) ∧ (∀ i, ¬hitAt u 0x100000000 8 i) := by
  refine ⟨paged_executing _ _, by decide, by decide, by decide, ⟨rfl, _, rfl, rfl, by decide, by decide, .inl ⟨by decide, rfl⟩⟩,
    fun j h => absurd h (Nat.not_lt_zero j), no_hit _ (by decide) _ _⟩

/-- What stops an engine's range: no window; a handle that is not the tile's; no page; a page that may not be read or
written; a REPLICA page written; a HEAP page inside no pin window, inside one, inside a read-only one; a destination
that fails. -/
theorem meets_CopiesAreIssued_checks :
    let th := thd []
    let s (w : Word) : State := paged th w
    let pinned : Thread := { th with windows := [⟨ref2, 0x100000000, 64, true, 5⟩] }
    let pin (th : Thread) (a : Nat) (write : Bool) : Prop := ∃ w ∈ th.windows, w.base ≤ a ∧ a < w.base + w.size ∧ (write = true → w.readOnly = false)
    (∀ w ∈ windowsOf, ¬(w.1 ≤ 0x60000 ∧ 0x60000 < w.2)) ∧ ((0x10000000, 0x10400000) ∈ windowsOf ∧ 0x10000100 + 1000 ≤ 0x10400000) ∧
    (NotOwned ((dev th).setCluster 0 { Cluster.idle with owns := [(3, ⟨.held, 0x100, 4, 1, 0⟩)] }) 0 0x10000100 1000 ∧ ¬NotOwned (dev th) 0 0x10000100 1000) ∧
    (dev th).leafOf 0 0 0x100000000 = none ∧
    (∃ f, (s 0x100000000001001B).leafOf 0 0 0x100000000 = some f ∧ f.bit 2 = false ∧ f.bit 3 = true ∧ 0x100000000 + 1000 ≤ f.va + f.size) ∧
    (∃ f, (s 0x1000000000010017).leafOf 0 0 0x100000000 = some f ∧ f.bit 3 = false) ∧
    (∃ f, (s 0xA00000000001033F).leafOf 0 0 0x100000000 = some f ∧ f.bit 3 = true ∧ f.cls = 5) ∧
    (∃ f, (s 0x200000000001003F).leafOf 0 0 0x100000000 = some f ∧ f.bit 3 = true ∧ f.cls = 1) ∧
    (¬pin th 0x100000000 false ∧ pin pinned 0x100000000 false ∧ ¬pin pinned 0x100000000 true) ∧
    (s 0).engineRows th false 0x1000 0 1000 1 = .ok [⟨0x1000, 1000, none, tlLoc 0 0x1000, (0, 0)⟩] ∧
    (s 0).engineRows th true 0x60000 0 1000 1 = .error (7, 0x60000) ∧
    (s 0xA00000000001033F).engineRows th true 0x100000000 0 1000 1 = .error (55, 0x100000000) := by
  refine ⟨by decide, by decide, ⟨⟨by decide, by decide, _, .head _, by decide, by decide, by decide, by decide⟩, ?_⟩, by decide,
    ⟨_, rfl, by decide⟩, ⟨_, rfl, by decide⟩, ⟨_, rfl, by decide⟩, ⟨_, rfl, by decide⟩, ⟨?_, ?_, ?_⟩, by decide, by decide, by decide⟩
  · rintro ⟨-, -, h, hm, -⟩; cases hm
  · rintro ⟨w, h, -⟩; cases h
  · exact ⟨_, .head _, by decide, by decide, by decide⟩
  · rintro ⟨w, h, -, -, hr⟩
    cases h with
    | head => exact absurd (hr rfl) (by decide)
    | tail _ h => cases h

/-- A word as a number, from its fields. -/
theorem realOf_of {w : W32} {n : Bool} {e f : ℕ} (h : negOf w = n ∧ expOf w = e ∧ fracOf w = f) : realOf w =
    (if n then -1 else 1) * (if e = 0 then (f : ℝ) * 2 ^ (-149 : ℤ) else ((2 ^ 23 + f : ℕ) : ℝ) * 2 ^ ((e : ℤ) - 150)) := by
  unfold realOf; rw [h.1, h.2.1, h.2.2]
/-- Words as numbers: 1, 1/2, 3, 192, -192, the least subnormal and -0. -/
theorem numbers : realOf 0x3F800000 = 1 ∧ realOf 0x3F000000 = 1 / 2 ∧ realOf 0x40400000 = 3 ∧ realOf 0x43400000 = 192 ∧
    realOf 0xC3400000 = -192 ∧ realOf 1 = 2 ^ (-149 : ℤ) ∧ realOf 0x80000000 = 0 := by
  refine ⟨(realOf_of (n := false) (e := 127) (f := 0) (by decide)).trans ?_, (realOf_of (n := false) (e := 126) (f := 0) (by decide)).trans ?_,
    (realOf_of (n := false) (e := 128) (f := 0x400000) (by decide)).trans ?_, (realOf_of (n := false) (e := 134) (f := 0x400000) (by decide)).trans ?_,
    (realOf_of (n := true) (e := 134) (f := 0x400000) (by decide)).trans ?_, (realOf_of (n := false) (e := 0) (f := 1) (by decide)).trans ?_,
    (realOf_of (n := true) (e := 0) (f := 0) (by decide)).trans ?_⟩ <;> norm_num

/-- Operands of the four functions: NaN, infinities, zeros, a negative number, integers below -149, in the range and
above it, numbers that are no integer, powers of two and of four and a number that is none, a reciprocal of 2^128 or
more and one below. -/
theorem meets_MaskedLanesAndCompares_functions :
    (IsNan 0x7FC00000 ∧ IsInf 0x7F800000 ∧ IsInf 0xFF800000 ∧ negOf 0xFF800000 = true ∧ negOf 0xC3400000 = true) ∧
    (∀ w ∈ ([0x3F800000, 0x3F000000, 0x40400000, 0x43400000, 0xC3400000, 1, 0, 0x80000000] : List W32), IsFin w) ∧
    (realOf 0x40400000 = (3 : ℤ) ∧ realOf 0x43400000 = (192 : ℤ) ∧ realOf 0xC3400000 = (-192 : ℤ)) ∧
    ((∀ n : ℤ, realOf 0x3F000000 ≠ n) ∧ realOf 0x3F000000 < 128) ∧
    ((∀ n : ℤ, realOf 0x43400001 ≠ n) ∧ 128 < realOf 0x43400001) ∧
    (realOf 0x3F800000 = 2 ^ (0 : ℤ) ∧ realOf 0x3F000000 = 2 ^ (-1 : ℤ) ∧ realOf 0x3F800000 = 4 ^ (0 : ℤ)) ∧
    (∀ n : ℤ, realOf 0x40400000 ≠ 2 ^ n) ∧
    (realOf 0x80000000 = 0 ∧ (realOf 1 ≠ 0 ∧ 2 ^ 128 ≤ |1 / realOf 1|) ∧ |1 / realOf 0x40400000| < 2 ^ 128) := by
  obtain ⟨h1, h2, h3, h4, h5, h6, h7⟩ := numbers
  have h8 : realOf 0x43400001 = 12582913 / 65536 :=
    (realOf_of (n := false) (e := 134) (f := 0x400001) (by decide)).trans (by norm_num)
  rw [h1, h2, h3, h4, h5, h6, h7, h8]
  refine ⟨by unfold IsNan IsInf; decide, fun w hw => by fin_cases hw <;> exact (show expOf _ ≠ 255 by decide), ⟨by norm_num, by norm_num, by norm_num⟩, ⟨?_, by norm_num⟩, ⟨?_, by norm_num⟩,
    ⟨by norm_num, by norm_num, by norm_num⟩, ?_, rfl, ⟨by norm_num, by norm_num [abs_of_pos]⟩, by norm_num [abs_of_pos]⟩
  · intro n h
    have : (1 : ℝ) = (2 * n : ℤ) := by push_cast; linarith
    have : (1 : ℤ) = 2 * n := by exact_mod_cast this
    omega
  · intro n h
    have : (12582913 : ℝ) = (65536 * n : ℤ) := by push_cast; linarith
    have : (12582913 : ℤ) = 65536 * n := by exact_mod_cast this
    omega
  · intro n h
    rcases lt_or_ge n 2 with hn | hn
    · have : (2 : ℝ) ^ n ≤ 2 ^ (1 : ℤ) := zpow_le_zpow_right₀ (by norm_num) (by omega)
      norm_num at this; linarith
    · have : (2 : ℝ) ^ (2 : ℤ) ≤ 2 ^ n := zpow_le_zpow_right₀ (by norm_num) hn
      norm_num at this; linarith

/-- Words of block and packed conversions: sixteen of them without NaN and with one, with infinities and without; the
largest finite magnitude; a code of NaN, of an infinity and of a number; lanes all active and one void. -/
theorem meets_WholeVectorInstructions_formats :
    let ws : List W32 := List.replicate 15 0x3F800000 ++ [0x40400000]
    (IsNan 0x7FC00000 ∧ IsInf 0x7F800000 ∧ (∀ w ∈ ws, ¬IsNan w ∧ ¬IsInf w)) ∧
    (0x40400000 ∈ ws ∧ IsFin 0x40400000 ∧ realOf 0x40400000 ≠ 0 ∧ (∀ w ∈ ws, IsFin w → |realOf w| ≤ |realOf 0x40400000|)) ∧
    (∀ w ∈ ([0, 0x80000000] : List W32), IsFin w → realOf w = 0) ∧
    (codeNan .e5m2 0x7E ∧ codeInf .e5m2 0x7C ∧ ¬codeNan .e5m2 0x3C ∧ ¬codeInf .e5m2 0x3C ∧ codeNan .lns6 32) ∧
    (∃ l : ℤ, (2 : ℝ) ^ (((l : ℝ) - 1 / 2) / 4 - 4) ≤ |1| ∧ |1| < (2 : ℝ) ^ (((l : ℝ) + 1 / 2) / 4 - 4)) ∧
    ((∃ w ∈ (0x7F800000 :: ws : List W32), IsInf w) ∧ (∀ w ∈ ws, IsFin w)) ∧
    (∀ i, i < 64 → (lane (vr ws) i).void = false) ∧ (lane ((vr ws).set 3 ⟨0, true⟩) 3).void = true := by
  obtain ⟨h1, -, h3, -, -, -, h7⟩ := numbers
  have hm (w : W32) (h : w ∈ List.replicate 15 (0x3F800000 : W32) ++ [0x40400000]) : w = 0x3F800000 ∨ w = 0x40400000 := by
    rcases List.mem_append.mp h with h | h
    · exact .inl (List.eq_of_mem_replicate h)
    · exact .inr (List.mem_singleton.mp h)
  have hz : realOf 0 = 0 := (realOf_of (n := false) (e := 0) (f := 0) (by decide)).trans (by norm_num)
  refine ⟨⟨⟨by decide, by decide⟩, ⟨by decide, by decide⟩, fun w hw => by rcases hm w hw with rfl | rfl <;> exact (show ¬(expOf _ = 255 ∧ _) ∧ ¬(expOf _ = 255 ∧ _) by decide)⟩,
    ⟨List.mem_append_right _ (.head _), show expOf _ ≠ 255 by decide, by rw [h3]; norm_num, ?_⟩, ?_,
    ⟨show _ < _ by decide, show _ = _ by decide, show ¬_ < _ by decide, show ¬_ = _ by decide, rfl⟩, ⟨16, ?_, ?_⟩, ⟨⟨_, .head _, by decide, by decide⟩, fun w hw => by rcases hm w hw with rfl | rfl <;> exact (show expOf _ ≠ 255 by decide)⟩,
    fun i h => by simp [lane, vr, h, VWord.of], by simp [lane]⟩
  · intro w hw _
    rcases hm w hw with rfl | rfl
    · rw [h1, h3]; norm_num
    · exact le_refl _
  · intro w hw _
    fin_cases hw
    · exact hz
    · exact h7
  · rw [abs_one, ← Real.rpow_zero 2]; exact Real.rpow_le_rpow_of_exponent_le (by norm_num) (by norm_num)
  · rw [abs_one, ← Real.rpow_zero 2]; exact Real.rpow_lt_rpow_of_exponent_lt (by norm_num) (by norm_num)

/-- A cancelled MXWB within a slot and between two, a failed one within a slot; a stream whose row of scales is poisoned
and one with neither row poisoned. -/
theorem meets_ArrayCommandsWriteStopAndFail_parts :
    let wb : ArrayOp := .wb 3 1 0 0 4 false
    let c (pos : Nat) (gone : Bool) : ArrayCmd := ⟨1, 0, 1, 1, wb, true, pos, gone⟩
    let q (pos : Nat) (gone : Bool) : Tile := { arrayTile [] [] with rowQ := [c pos gone], accPoison := [1032] }
    let d : Cb := ⟨4, 544, 0, 0, 0, 2, 2, 0⟩
    let e : Cb := ⟨4, 544, 0x22000, 0, 0, 2, 2, 0⟩
    let n := (pairRows .s4).1
    let sn := (pairRows .s4).2.1
    let p : State := { State.reset with poison := [tlLoc 0 0x22000 / 64] }
    ((q 1 true).rowQ.head? = some (c 1 true) ∧ 1 % (((q 1 true).cb 3).slot / (128 * outBytes 0)) ≠ 0 ∧ 0 % (((q 1 true).cb 3).slot / (128 * outBytes 0)) = 0 ∧
      ((q 1 true).cb 3).count ≠ 0 ∧ ((q 1 true).cb 3).free ≠ 0 ∧ (∀ k ∈ (q 1 true).weightQ, k.id ≠ 1)) ∧
    ((q 1 false).rowQ.head? = some (c 1 false) ∧ (q 1 false).wbReady (c 1 false) 3 (128 * outBytes 0) = true ∧ (q 1 false).rowPoisoned 1 (0 + 1) = true) ∧
    (sn ≠ 0 ∧ d.fill ≠ 0 ∧ e.fill ≠ 0 ∧ p.poisonIn (rowLoc 0 d n) n = none ∧ p.poisonIn (rowLoc 0 e sn) sn ≠ none ∧
      State.reset.poisonIn (rowLoc 0 e sn) sn = none) := by decide

/-- A stream whose last page is its own, whose last page is shared, and one without a page; an admitted barge frame. -/
theorem meets_StreamsFramesAndSnapshots_trims :
    let th : Thread := { thd [(6, 0x200)] with stream := 0x10001 }
    let a := bound th areaStream
    let k (i : Nat) (own : Bool) : KvPage := ⟨0x100000 + 0x10000 * i, List.replicate 16 0, !own⟩
    areaStream.pages = [k 0 true, k 1 true, k 2 true] ++ [k 3 true] ∧ ({ areaStream with pages := [k 0 false] } : Stream).pages = [] ++ [k 0 false] ∧
    ((k 3 true).shared = false ∧ (k 0 false).shared = true) ∧ a.memOk ∧
    (∃ st2 s2, (a.touched th false [0x200, 0x208, 0x20C]).enrol 0x10001 areaStream 0x200 true 127 0 [0, 0] = .ok (0, st2, s2)) ∧
    ((40 + 2 + 15) / 16 = (40 + 15) / 16 ∧ areaStream.p = 40) ∧
    (areaStream.slots + areaStream.p % 64 * areaStream.rsize + areaStream.rsize ≤ 0x1234471200 ∧ ({ areaStream with rsize := 0 } : Stream).rsize = 0) := by
  unfold State.memOk
  refine ⟨rfl, rfl, by decide, by decide, ⟨_, _, rfl⟩, by decide, by decide⟩

/-- Entries that may go: none of them, the least used, and a damaged one before it; a block that no entry matches; the
KV pool of a stream's die with a page and with none, and the page of the entry that goes. -/
theorem meets_PrefixesDrawsAndTrees_evicts :
    let e (pins age : Nat) (bad : Bool) : Prefix := ⟨9, 64, 1, [], 0x210000, pins, age, bad⟩
    let s (l : List (Nat × Prefix)) : State := { State.reset with pfx := l }
    let a := s [(2, e 0 9 false), (5, e 0 7 false), (6, e 1 1 false)]
    let b := s [(2, e 0 9 false), (5, e 0 9 false), (6, e 0 9 true)]
    (a.pfx.map (·.1)).Pairwise (· < ·) ∧ (b.pfx.map (·.1)).Pairwise (· < ·) ∧ (s [(6, e 1 1 false)]).evictable = none ∧
    a.evictable = some 5 ∧ b.evictable = some 6 ∧ ((5, e 0 7 false) ∈ a.pfx ∧ (e 0 7 false).pins = 0 ∧ (∀ c ∈ a.pfx, c.2.parent ≠ 5)) ∧
    a.matchEntry 9 64 [] = some 2 ∧ a.matchEntry 8 64 [] = none ∧ b.matchEntry 9 64 [3] = none ∧
    ((State.reset.die 0).kvPool ≠ [] ∧ ({ State.reset.die 0 with kvPool := [] } : Die).kvPool = [] ∧ 0x210000 / dieRange = 0x10001 / 2 ^ 30) := by
  decide +kernel

/-- Items in the order of R296 by each of its keys; one that a debugger holds; a saved one whose range is bound; threads at
their limit, of two priorities and of one, dispatched apart and together; one inside an instruction. -/
theorem meets_WaitsSlicesAndDispatch_order :
    let it (task : Bool) (r pr at_ : Nat) : Item := ⟨task, r, pr, at_, 0, some 0, .compute⟩
    let on (c pr d : Nat) : Thread := { thd [] with loc := .resident c, latlim := 1, prio := pr, dispatched := d }
    let q (l : Table Thread) : State :=
      { (idle (l ++ [(9, { thd [] with loc := .queued, prio := 5 }), (10, { thd [] with loc := .queued, halted := some .request }), (11, { thd [] with loc := .queued, saved := some (1, 2, 1) })])) with time := 100000 }
    let s := q [(0, on 0 2 5), (1, on 1 1 7), (2, on 2 1 6), (3, on 3 1 6)]
    let b : State := s.setTile 0 { Tile.idle with ranges := { Tile.idle.ranges with bound := some 1 } }
    (RanksBefore s (it false 9 5 0) (it false 9 4 0) ∧ RanksBefore s (it false 9 7 0) (it false 9 7 1) ∧ RanksBefore s (it false 9 5 0) (it true 9 5 0) ∧
      RanksBefore s (it false 9 5 0) (it false 10 5 0)) ∧ risen s (it false 9 5 0) = 7 ∧
    HeldInQueue s (it false 10 5 0) ∧ ¬HeldInQueue s (it false 9 5 0) ∧ WaitsForRange b (it false 11 5 0) ∧ WantsRangeOf b (it false 11 5 0) 0 (on 0 2 5) ∧
    Usable s 0 (it false 9 5 0) 0 ∧ s.freeCtx 0 .compute = 0 ∧ 0 < (q []).freeCtx 0 .compute ∧
    FitsContext s (it false 9 5 0) 1 (on 1 1 7) ∧ ReachesLimit s (it false 9 5 0) 1 (on 1 1 7) ∧ s.victim 0 (it false 9 5 0) = some (2, on 2 1 6) ∧
    GoesFirst (2, on 2 1 6) (1, on 1 1 7) ∧ ¬GoesFirst (3, on 3 1 6) (2, on 2 1 6) ∧ (q []).victim 0 (it false 9 5 0) = none ∧
    ¬ReachesLimit s (it false 9 5 0) 1 { on 1 1 7 with remoteOut := some 3 } := by
  have no {s : State} {i : Item} {x : Thread} (h : s.thread? i.record = some x) :
      (x.halted = none → ¬HeldInQueue s i) ∧ (x.saved = none → ¬SavedRange s i) :=
    ⟨fun hx hh => by simpa [hx] using hh.2 x h, fun hx ⟨_, y, hy, hs⟩ => by
      rw [h] at hy; cases hy; rw [hx] at hs; cases hs⟩
  refine ⟨⟨.inl (by decide), .inr ⟨by decide, .inl (by decide)⟩, .inr ⟨by decide, .inr ⟨by decide, .inl ⟨rfl, rfl⟩⟩⟩, .inr ⟨by decide, .inr ⟨by decide, .inr ⟨rfl, by decide⟩⟩⟩⟩, by decide,
    ⟨rfl, fun x h => by cases h; rfl⟩, (no rfl).1 rfl, ⟨⟨rfl, _, rfl, rfl⟩, 0, rfl, .inl (by decide)⟩, ⟨⟨rfl, _, rfl, rfl⟩, rfl, (no rfl).1 rfl, by decide⟩,
    ⟨by decide, rfl⟩, by decide, by decide, ⟨rfl, by decide, (no rfl).1 rfl, fun l h => by cases h; rfl, fun h => absurd h ((no rfl).2 rfl)⟩,
    ⟨⟨1, rfl⟩, rfl, rfl, fun _ => ⟨rfl, rfl⟩, by decide, by decide,
      .inl ⟨⟨rfl, by decide, (no rfl).1 rfl, fun l h => by cases h; rfl, fun h => absurd h ((no rfl).2 rfl)⟩, by decide, fun h => absurd h.1 ((no rfl).2 rfl), ?_⟩⟩,
    by decide +kernel, .inr ⟨rfl, by decide⟩, by unfold GoesFirst; decide, by decide +kernel, fun h => by simpa using (h.2.2.2.1 rfl).1⟩
  rintro ⟨u, x, hx, hv, -⟩
  revert hv; revert hx
  simp only [List.mem_append, List.mem_cons, List.not_mem_nil, or_false, Prod.mk.injEq, idle, State.reset]
  rintro ((⟨-, rfl⟩ | ⟨-, rfl⟩ | ⟨-, rfl⟩ | ⟨-, rfl⟩) | ⟨-, rfl⟩ | ⟨-, rfl⟩ | ⟨-, rfl⟩) h <;> exact absurd h (by decide)

/-- The device with the launch of queue 0 that passed its checks, and a queue 1 of a priority with a command. -/
def twoQueues (prio : Nat) (r : LaunchRec := passed) : State :=
  { (fed 1 0x100000 (some r)).putNum 0x400000 8 2 with
    queues := [(0, queue0 (some r)), (1, { queue0 with qbase := 0x400000, prio := prio })] }
/-- Heads that the Kiln may turn to: one unmet beside one of a higher priority, two of one priority with and without a last
queue, one higher; pages to take, given back and below the mark, and none; pages of sections mapped, not mapped, and
without a table; a launch on two tiles with two contexts each and a buffer. -/
theorem meets_KilnTakesPlacesAndPosts_choice :
    let w (a b : Word) : List Word := [a, b, 0, 0, 0, 0, 0, 0]
    let q1 (p : Nat) : Queue := { queue0 with qbase := 0x400000, prio := p }
    let out : State := (twoQueues 5).setTile 0 { Tile.idle with outOfService := true }
    let big : LaunchRec := { passed with tiles := 2, ctxc := 1, localmem := 64, cbufs := [(3, 0x400208040)] }
    let none_ : State := (List.range 4).foldl (fun s d => s.setDie d { s.die d with freePages := [], allocTop := 0 }) State.reset
    let back : State := State.reset.setDie 0 { State.reset.die 0 with freePages := [0x50000] }
    let sp : State := { State.reset with aspaces := [(1, ⟨0x100000, none, []⟩)] }
    (Offers out 0 (queue0 (some passed)) (.unmet (w 1 0x100000)) ∧ Offers out 1 (q1 5) (.other (w 2 0) 0) ∧
      Offers (twoQueues 0) 0 (queue0 (some passed)) (.launch (w 1 0x100000) passed [0] 0)) ∧
    (out.queues.map (·.1)).Pairwise (· < ·) ∧ out.kilnChoice = some (0, queue0 (some passed), .unmet (w 1 0x100000)) ∧
    (twoQueues 5).kilnChoice = some (1, q1 5, .other (w 2 0) 0) ∧
    ({ twoQueues 0 with lastTaken := [(0, 0)] } : State).kilnChoice = some (1, q1 0, .other (w 2 0) 0) ∧ State.reset.kilnChoice = none ∧
    ((back.allocPage 0).map (·.1) = some 0x50000 ∧ (State.reset.allocPage 0).isSome = true ∧ none_.allocPage 0 = none ∧ none_.allocFrom 0 = none ∧
      ((none_.setDie 2 (State.reset.die 2)).allocFrom 0).isSome = true) ∧
    ((∃ f, (bound (thd [])).walk 0 0x8140671200 = some f ∧ f.entry + 8 ≤ f.addr) ∧ sp.walk 1 0x100000000 = none ∧ Memory.wf sp.mem = true ∧
      (∃ p s0, sp.allocFrom 0 = some (p, s0) ∧ ((s0.notePage 1 p).mapPage 1 0 0x100000000 (p + 3 + 4)).isSome = true ∧
        ((s0.notePage 2 p).mapPage 2 0 0x100000000 (p + 3 + 4)) = none) ∧ none_.walk 1 0x100000000 = none) ∧
    ((twoQueues 0 big).headOf 0 (queue0 (some big)) = .launch (w 1 0x100000) big [0, 1] 0 ∧
      ((twoQueues 0 big).writeSections 0 0 big.image big.secs).isSome = true ∧ ((twoQueues 0 big).threads.map (·.1)).Pairwise (· < ·) ∧
      (firstBorn big [0, 1]).length = 4 ∧ (big.cbufs.map (·.1)).Nodup) := by
  refine ⟨⟨⟨.head _, by decide, rfl, by simp⟩, ⟨.tail _ (.head _), by decide, rfl, by simp⟩, ⟨.head _, by decide, rfl, by simp⟩⟩, by decide, rfl, rfl, rfl, by decide,
    ⟨by decide, by decide, by decide, by decide, by decide⟩, ⟨⟨_, rfl, by decide⟩, by decide, by decide, ⟨_, _, rfl, by decide, by decide⟩, by decide⟩,
    rfl, by decide, by decide, by decide, by decide⟩

/-- A stream to destroy with pages of its own and a shared one, and its truncation. -/
theorem meets_KilnCommandsKillHeapsAndStreams_pages :
    let st : Stream := { bargeStream with pages := bargeStream.pages ++ [⟨0x500000, List.replicate 16 0, true⟩], rsize := 64, slots := 0x300000 }
    let s : State := { kiln 7 [0, 0x10001] with streams := [(1, st)] }
    s.stream? 0x10001 = some st ∧ (∀ p ∈ s.threads, p.2.stream.toNat ≠ 0x10001) ∧ st.g ≠ 0 ∧ (∃ k ∈ st.pages, k.shared = true) ∧
    s.cmdOpen (kcmd 7 [0, 0x10001]) = true ∧ Memory.wf s.mem = true ∧ (s.truncate st 0).1.pages = [] := by decide

/-- A space that is removed while nothing uses it and while a copy does, drained and not, with pages of its own; a group
with a cancelled root, sent already and not; ports open and not for a root's die. -/
theorem meets_SpacesThresholdsClocksAndGroups_removed :
    let c : Copy := { copy1 with srcSegs := [⟨0x100000000, 1000, none, 0x10000, (0x100000000, 65536)⟩] }
    let sp (root : Nat) : State := { State.reset with aspaces := [(1, ⟨root, none, [(0x100000000, 0x50000)]⟩)] }
    let used : State := { (sp 0x100000).setTile 0 { Tile.idle with copies := [c] } with scopes := [(0, { root0 with cmd := 9 })], cmds := [(9, { kcmd 1 [] with phase := .running, launch := some { passed with aspace := 1 } })] }
    let k : Command := { kcmd 8 [0, 1, 0] with phase := .draining [1] }
    let g (sent : List Nat) : State := { State.reset with scopes := [(0, { root0 with group := 7, cancelled := true })], groups := [(7, 5)], groupsSent := sent }
    let shut : State := (List.range 4).foldl stalling (g [])
    ((kiln 8 [0, 1, 0] (sp 0x100000)).opsUsing 1 0 (2 ^ 64) = [] ∧ (kiln 8 [0, 1, 0] (sp 0x100000)).cmdOpen (kcmd 8 [0, 1, 0]) = true ∧
      (kiln 8 [0, 1, 0] used).opsUsing 1 0 (2 ^ 64) = [1] ∧ used.opsDone [1] = false) ∧
    (k.phase = .draining [1] ∧ k.silent = false ∧ (sp 0).opsDone [1] = true ∧ (tfind (sp 0).aspaces 1).map (·.root) = some 0 ∧ (tfind (sp 5).aspaces 1).map (·.root) = some 5) ∧
    ((∃ p ∈ (g []).scopes, p.2.depth = 1 ∧ p.2.group = 7 ∧ p.2.state = .closing ∧ p.2.cancelled = true) ∧ (kiln 12 [0, 7, 0x100000] (g [])).cmdOpen (kcmd 12 [0, 7, 0x100000]) = true) ∧
    (7 ∉ (g []).groupsSent ∧ 7 ∈ (g [7]).groupsSent ∧ tfind (g []).groups 7 = some 5 ∧ tfind (g []).groups 8 = none) ∧
    ((g []).portOpen = true ∧ (g []).groupRoots 7 = [(0, { root0 with group := 7, cancelled := true })] ∧ (g []).fabricOpen 0 = true ∧ shut.fabricOpen 0 = false) := by decide

/-- Commands of two functions that are live, drain, and are over; a scope faulted before and one not, with a scope below;
threads and a copy of a tile that leaves service; pages that the prefix table owns, that streams list and pool, and of
a die's pool; dies that rest. -/
theorem meets_ResetsFailuresAndThermalSteps_live :
    let k (q r : Nat) (p : Phase) : Command := { kcmd 1 [] with queue := q, root := r, phase := p }
    let s : State := { idle [(0, { thd [] with cmd := 1 })] with
      cmds := [(1, k 32 1 .running), (2, k 32 0 (.draining [5])), (3, k 32 0 .finished), (4, k 0 0 .finished)]
      funcs := [(2, { Func.idle with tdisp := .run })], scopes := [(0, root0), (1, child1)], donePosts := [3, 4], input := .num 2 }
    let t : State := { copying (thd []) with input := .num 0 }
    let w : State := t.setTile 0 { t.tile 0 with copies := [{ copy1 with srcSegs := [⟨0x100000000, 1000, some 3, 0x50, (0, 0)⟩] }] }
    (s.hostKiln = true ∧ s.lateNotify = [] ∧ s.silenceHeld 2 = false ∧ (s.cmds.map (·.1)).Nodup ∧ (∀ g, g < 64 → s.unsetFar g = false) ∧
      s.rootLive (k 32 1 .running) = true ∧ s.rootLive (k 32 0 .finished) = false ∧ (s.func 2).tdisp = .run ∧ s.tripHeld = false ∧ s.tripped = false) ∧
    ((s.scope? 1).map (fun c => (c.state, c.faulted)) = some (.closing, false) ∧ ({ root0 with faulted := true, cause := 7 } : Scope).faulted = true ∧
      tfind s.scopes 1 = some child1 ∧ child1.state ≠ .free ∧ child1.state ≠ .joined) ∧ Below s 1 256 16385 ∧
    (t.mapHeld 0 = false ∧ t.inService 0 = true ∧ Memory.wf t.mem = true ∧ (t.thread? 0).map (fun x => (x.tile, decide (x.loc = .queued))) = some (0, false) ∧
      t.copyWaits 0 1 false = false ∧ copy1.weight ≠ 0) ∧ (w.tile 0).copies.length = 1 := by
  refine ⟨by decide, by decide, ?_, by decide, by decide⟩
  exact .inr ⟨child1, by decide, .inl rfl, by decide, .inl rfl⟩

/-- Errors at rest: in a page that the prefix table owns, in one of a stream below its G and beyond it, in a page of its
pool, of a die's pool, and in none. -/
theorem meets_ResetsFailuresAndThermalSteps_errors :
    let st : Stream := { bargeStream with g := 20 }
    let s : State := { State.reset with streams := [(1, st)], pfx := [(0, ⟨7, 64, 1, [], 0x500000, 0, 9, false⟩)] }
    let lists (st : Stream) (pa : Nat) : Prop := st.live = true ∧ ∃ k ∈ st.pages, k.pa = pa
    ((∃ p ∈ s.pfx, p.2.page = 0x500000) ∧ (∀ p ∈ s.pfx, p.2.page = 0x500000 → p.1 = 0)) ∧
    ((st.pages[1]?).map (·.pa) = some 0x110000 ∧ (∀ i, i < 1 → (st.pages[i]?).map (·.pa) ≠ some 0x110000) ∧ (¬∃ p ∈ s.pfx, p.2.page = 0x110000) ∧
      (∀ p ∈ s.streams, lists p.2 0x110000 → p.1 = 1) ∧ 16 * 1 + 0x3FFF / 4096 < st.g ∧ st.g ≤ 16 * 1 + 0x4000 / 4096) ∧
    (CommittedIn st 0x110000 ∧ ¬CommittedIn st 0x120000) ∧
    ((1, st) ∈ s.streams ∧ st.live = true ∧ 0x200000 ∈ st.pool ∧ (¬∃ p ∈ s.streams, lists p.2 0x200000)) ∧
    (∃ pa ∈ (State.reset.die 0).kvPool, ¬∃ p ∈ s.pfx, p.2.page = pa) ∧ 0x700000 ∉ ({ State.reset.die 0 with kvPool := [] } : Die).kvPool ∧
    s.damageHeld 0x110000 = false ∧
    (({ State.reset.die 0 with coolSince := some 5, halved := true } : Die).coolSince = some 5 ∧ ¬1000005 - 5 < 1000000 ∧ 1000004 - 5 < 1000000) := by
  refine ⟨by decide, ⟨by decide, by decide, by decide, ?_, by decide, by decide⟩, ⟨⟨1, by decide, by decide⟩, ?_⟩, ⟨by decide, by decide, by decide, ?_⟩,
    ⟨_, List.getElem_mem (n := 0) (by decide), by decide⟩, by decide, by decide, by decide⟩
  · intro p hp _
    cases hp with
    | head => rfl
    | tail _ h => cases h
  · rintro ⟨j, hj, h⟩
    have : j = 0 ∨ j = 1 := by have : (20 : Nat) = ({ bargeStream with g := 20 } : Stream).g := rfl; omega
    rcases this with rfl | rfl <;> revert h <;> decide
  · rintro ⟨p, hp, -, k, hk, hpa⟩
    cases hp with
    | head => revert hpa; revert k; decide
    | tail _ h => cases h

/-- A peer's store, atomic and barrier in memory, outside it, and on a poisoned unit. -/
theorem meets_RemoteOperationsLinksAndTime_peers :
    let s : State := { State.reset with poison := [0x1000 / 64] }
    (inMemory 0x1000 8 = true ∧ inMemory 0x1000 16 = true ∧ inMemory 0xC000000000 8 = false ∧ inMemory 0xC000000000 16 = false) ∧
    (s.poisonIn 0x1000 8 ≠ none ∧ s.poisonIn 0x1000 16 ≠ none ∧ s.poisonIn 0x2000 16 = none) ∧ s.memOk ∧
    s.fabricOpen (0x1000 / dieRange) = true := by unfold State.memOk; decide

/-- What waits on its way to the host and what does not; a device that did not boot; a function reset during a takeover;
an access of a virtual function whose walk a link holds. -/
theorem meets_HostRegisters_posts :
    let s : State := { State.reset with posts := [(1, .event 3), (0, .msix 2 5)] }
    let late : State := { State.reset with takeoverUntil := 9, funcs := [(2, { Func.idle with flr := true })], cmds := [(1, { kcmd 1 [] with queue := 32, root := 1, silent := true })] }
    let far := stalling (logging State.reset 0x3000100000 0) 1
    s.hostLink 1 = true ∧ (stalling s 1).hostLink 1 = false ∧ (stalling s 1).hostLink 0 = true ∧ (stalling s 0).hostLink 0 = false ∧
    ({ State.reset with booted := false } : State).booted = false ∧ (late.hostOpen = true ∧ late.booted = true ∧ late.time < late.takeoverUntil) ∧
    ((late.func 2).flr = true ∧ late.silentLive 2 = true ∧ late.time < (late.func 2).flrAt + 100000000) ∧ (late.func 3).flr = false ∧ (late.func 0).flr = false ∧
    far.walkFar 0 0 0x100000000 = true ∧ (logging State.reset 0x3000100000 0).walkFar 0 0 0x100000000 = false := by decide

end Sys2Proof.Tests
end

section
/-! SUPPORT. O17 fails at its last clause. An entry that a peer has answered with data is read like any load, so a
watchpoint it meets halts the thread with pc at the JTAB (R422). The clause for an entry at a peer leaves watchpoints
out and says that control goes to the target. -/

namespace Sys2Proof.Machine

/-- A read of a peer whose answer is data, and whose range watchpoint `i` covers, is stopped by the watchpoint. -/
theorem readVal_peer_watch {s : State} {th : Thread} {va : Word} {n dev addr i : Nat} {k : Kind} {v : PeerVal}
    (ha : s.access th va n .load k = .ok (.peer dev addr))
    (hv : th.peer.find? (fun v => v.addr == va.toNat && v.n == n && !v.amo) = some v) (hok : v.ans = .ok)
    (hw : th.watchHit va.toNat n .load none = some i) : s.readVal th va n k = .error (.watch i) := by
  unfold State.readVal
  simp only [ha, bind, Except.bind, hv, hok, hw]

/-- A JTAB whose index is in range, but whose entry a watchpoint stops, halts the thread. -/
theorem exec_jtab_watch {s : State} {t : Nat} {th : Thread} (h : Executing s t th) {rs1 rs2 : XReg} {imm : BitVec 12}
    {i : Nat} (hlen : 0 < imm.toInt) (hidx : (th.rx rs1).void = false) (htbl : (th.rx rs2).void = false)
    (hin : (th.rx rs1).val.toNat < imm.toNat)
    (hr : s.readVal th ((th.rx rs2).val + 4 * (th.rx rs1).val) 4 .base = .error (.watch i)) :
    exec (.jtab rs1 rs2 imm) s = .next (s.stop t th (.watch i)) := by
  rw [exec_jtab, execJtab, h.run]
  simp only [Int.not_le.2 hlen, Nat.not_le.2 hin, hidx, htbl, hr, Bool.or_self, Bool.false_eq_true, if_false]

/-- The pc of a thread in the state an instruction leads to. -/
def pcAfter (t : Nat) : Out → Option Word
  | .next s => (s.thread? t).map Thread.pc
  | _ => none

theorem pcAfter_goesTo {s : State} {t : Nat} {th th' : Thread} {target : Word} (h : target.toNat % 4 = 0) :
    pcAfter t (goesTo s t th th' target) = some target := by
  rw [goesTo, if_pos h]
  exact congrArg (Option.map Thread.pc) (tfind_tset_self ..)

/-- A thread at 0x1000 whose x6 names a table at a peer. The peer has answered with the table's first entry, 8, and
watchpoint 0 covers that entry for reads. -/
def watchedThread : Thread :=
  { (State.freshThread 0x1000 .v3).wx 6 (.of 0x100000000) with
    peer := [⟨0x100000000, 4, false, [8, 0, 0, 0], .ok, 0⟩]
    wp := (Vector.replicate 4 ⟨0, 0, 0⟩).set 0 ⟨0x100000000, 0x300000004, 0⟩ }

/-- A device that executes it; tile 0 buffers the table's page, which stands at device 3 (class PEER). -/
def watchedDevice : State :=
  { State.reset with
    threads := [(0, watchedThread)]
    cur := some 0
    tiles := [(0, { Tile.idle with tlb := [⟨0, 0x100000000, 0x10000, 0x801800000010003F⟩] })] }

theorem watchedDevice_executing : Executing watchedDevice 0 watchedThread := ⟨rfl, rfl⟩

theorem watchedDevice_access :
    watchedDevice.access watchedThread 0x100000000 4 .load .base = .ok (.peer 3 0x100000) := by decide

theorem watchedThread_answer :
    watchedThread.peer.find? (fun v => v.addr == (0x100000000 : Word).toNat && v.n == 4 && !v.amo) =
      some ⟨0x100000000, 4, false, [8, 0, 0, 0], .ok, 0⟩ := by decide

theorem watchedThread_hit : watchedThread.watchHit (0x100000000 : Word).toNat 4 .load none = some 0 := by decide

/-- The watchpoint keeps the thread at its JTAB. -/
theorem watchedDevice_halts : pcAfter 0 (exec (.jtab 5 6 3) watchedDevice) = some 0x1000 := by
  have hread := readVal_peer_watch watchedDevice_access watchedThread_answer rfl watchedThread_hit
  rw [exec_jtab_watch watchedDevice_executing (rs1 := 5) (rs2 := 6) (imm := 3) (by decide) (by decide)
    (by decide) (by decide) hread]
  decide

/-- Refutes O17: a JTAB at 0x1000 with index 0 in a table of 3, whose entry 8 a peer has answered. The last clause
takes control to 0x1008, but watchpoint 0 covers the entry, so the thread halts and its pc stays 0x1000 (R422). -/
theorem not_voidWordsAndJumpTables : ¬ Obligations.VoidWordsAndJumpTables := by
  unfold Obligations.VoidWordsAndJumpTables
  intro h
  obtain ⟨-, -, -, -, -, -, hjtab⟩ := h watchedDevice 0 watchedThread watchedDevice_executing
  obtain ⟨-, hlen⟩ := hjtab 5 6 3
  obtain ⟨-, hnonvoid⟩ := hlen (by decide)
  obtain ⟨-, hinside⟩ := hnonvoid (by decide) (by decide)
  obtain ⟨-, -, hpeer⟩ := hinside (by decide)
  have hgoes := hpeer 3 0x100000 _ watchedDevice_access watchedThread_answer
  rw [if_pos rfl] at hgoes
  have hpc := congrArg (pcAfter 0) hgoes
  rw [watchedDevice_halts, pcAfter_goesTo (by decide)] at hpc
  exact absurd hpc (by decide)

end Sys2Proof.Machine
end

section
/-! SUPPORT. O42: the operations on m registers (R242). A compute core carries out the effect that each one gives to
the class guard, a stage core raises cause 2 (R233), and a word with destination m0 matches its instruction by its
fields but does not meet that instruction's destination limit (R125). -/

namespace Sys2Proof

/-- A word whose fields match an instruction outside its operand limits is unassigned (R122, R125). -/
theorem decode_of_raw_not_wf {v : Version} {w : W32} {i : Instr} (hw : i.wf = false)
    (h : decodeRaw decodeDraw v w = some i) : decode v w = none := by
  unfold decode decodeWith; rw [h]; simp [Option.filter, hw]

section MaskWords
variable (draw : W32 → Option Instr) (v : Version)

theorem decodeRaw_maskWord (f7 : BitVec 7) (b a d : BitVec 5) :
    decodeRaw draw v (mkR f7 b a 7 d 0x5B) = decodeVMask (mkR f7 b a 7 d 0x5B) := by
  rw [raw5B _ _ _ (fOp_mkR ..), decodeC2, fF3_mkR]
  rfl

theorem decodeRaw_mand (d a b : MReg) : decodeRaw draw v (encode (.mand d a b)) = some (.mand d a b) := by
  refine (decodeRaw_maskWord draw v 4 (wide3 b) (wide3 a) (wide3 d)).trans ?_
  simp [decodeVMask]

theorem decodeRaw_mor (d a b : MReg) : decodeRaw draw v (encode (.mor d a b)) = some (.mor d a b) := by
  refine (decodeRaw_maskWord draw v 5 (wide3 b) (wide3 a) (wide3 d)).trans ?_
  simp [decodeVMask]

theorem decodeRaw_mnot (d a : MReg) : decodeRaw draw v (encode (.mnot d a)) = some (.mnot d a) := by
  refine (decodeRaw_maskWord draw v 6 0 (wide3 a) (wide3 d)).trans ?_
  simp [decodeVMask, unused]

end MaskWords

end Sys2Proof

namespace Sys2Proof.Machine

section ClassGuard
variable {s : State} {t : Nat} {th : Thread} (h : Executing s t th) (i : Instr) (k : Nat → Thread → State)
include h

/-- A compute core carries out the effect given to the guard. -/
theorem onCompute_compute (hc : th.cls = .compute) : onCompute i s k = .next (k t th) := by
  unfold onCompute onComputeWord; rw [h.run, hc]; rfl

/-- A stage core raises cause 2 whatever the effect, with the word in UTVAL (R233). -/
theorem onCompute_stage (hc : th.cls = .stage) :
    onCompute i s k = .next (s.trap t th 2 ((encode i).setWidth 64)) := by
  unfold onCompute onComputeWord; rw [h.run, if_pos hc]; rfl

end ClassGuard

theorem popcount_eq_length_filter (v : Word) :
    popcount v = ((List.range 64).filter (fun i => v.getLsbD i)).length := List.countP_eq_length_filter

/-- Settles O42: the guard decides by the core's class, and the decoder's destination limit
rules out m0. -/
theorem maskRegisterOperations : Obligations.MaskRegisterOperations := by
  unfold Obligations.MaskRegisterOperations
  refine ⟨fun s t th rd a b h hc => ⟨?_, ?_, ?_, fun x => ?_⟩, fun s t th rd a b x h hc => ?_, fun v a b => ?_⟩
  · rw [exec_mand, execMand, onCompute_compute h _ _ hc, goesOn_eq]
  · rw [exec_mor, execMor, onCompute_compute h _ _ hc, goesOn_eq]
  · rw [exec_mnot, execMnot, onCompute_compute h _ _ hc, goesOn_eq]
  · rw [exec_mpop, execMpop, onCompute_compute h _ _ hc, goesOn_eq, popcount_eq_length_filter, wOf]
  · simp only [List.forall_mem_cons, List.not_mem_nil, false_imp_iff, implies_true, and_true,
      exec_mand, exec_mor, exec_mnot, exec_mpop]
    exact ⟨onCompute_stage h _ _ hc, onCompute_stage h _ _ hc, onCompute_stage h _ _ hc, onCompute_stage h _ _ hc⟩
  · simp only [List.forall_mem_cons, List.not_mem_nil, false_imp_iff, implies_true, and_true]
    exact ⟨decode_of_raw_not_wf rfl (decodeRaw_mand ..), decode_of_raw_not_wf rfl (decodeRaw_mor ..),
      decode_of_raw_not_wf rfl (decodeRaw_mnot ..)⟩

end Sys2Proof.Machine
end
